-- ==== Sys2Proof/Word.lean ====
section
/-! DEFINITION. The word types of the block (spec R7, R8) and their plainest arithmetic. -/
namespace Sys2Proof

/-- A 64-bit word of a descriptor, record, queue or Criser message (R8). -/
abbrev Word := BitVec 64

/-- A 32-bit register (R8). -/
abbrev Reg := BitVec 32

/-- One byte of memory or of a frame. -/
abbrev Byte := BitVec 8

/-- A 32-bit saturating count: every "saturating" 32-bit count of the manual sticks at its largest value. -/
def sat32 (n : Nat) : Nat := min n 4294967295

end Sys2Proof
end

