-- ==== Sys2Proof/Syntax.lean ====
section
/-! DEFINITION. The commands of the block: one constructor of `Instr` per row of spec/opcode_table.json, with the
operands the row's rule gives it. The table gives no row any bits, so the operand lists are the model's reading of the
rules (log entry 2). -/
namespace Sys2Proof

/-- Through which copy of a register window an access comes (R36, R452). -/
inductive Win where
  | bar0 | list
  deriving DecidableEq, Repr

/-- Registers of the service port's configuration space that R351 describes (log entry 97). -/
inductive CfgReg where
  | bar0 | bar2Lo | bar2Hi | otherBar | interruptPin | maxPayload | aerStatus
  /-- trained width × 16 + trained speed -/
  | link
  deriving DecidableEq, Repr

/-- Where a register stands that has no row of its own (R9, R324, R351, R352): by its offset in the register windows of command
lists, by its offset in BAR0, or in the configuration space of the service port. -/
inductive RegPlace where
  | list (off : BitVec 20)
  | bar0 (off : BitVec 18)
  | cfg (r : CfgReg)
  deriving DecidableEq, Repr

/-- Clock domains of R396. -/
inductive Domain where
  | core | mem | svc | chain | sensor
  deriving DecidableEq, Repr

/-- Monitored rails of R464. -/
inductive Rail where
  | vddArray | vddCore | vddSram | vdd1 | vdd2h | vdd2l | vddq | vddIo | vddPhyA | vddPhyH
  deriving DecidableEq, Repr

/-- The two lockstep pairs of R347. -/
inductive KPair where
  | a | b
  deriving DecidableEq, Repr

/-- Fields of the OTP, each held in three copies (R402). -/
inductive OtpField where
  | trims | repairs | serial | part | rootKeys | revoked | rollback | reservation | secrets
  deriving DecidableEq, Repr

/-- A unit named as the fault log names it: class code and UNIT (R426). -/
structure UnitId where
  cls : BitVec 8
  unit : BitVec 12
  /-- classes 5 and 8: a device address in the row (R480, R481) -/
  addr : BitVec 48 := 0
  deriving DecidableEq, Repr

/-- The fields of a PTP header the keeper uses (R53); the correction is signed, in 2^-16 ns. `udp` tells the transport of
R49 that the message came by: UDP over IPv4, or IEEE 802.3. -/
structure PtpHdr where
  udp : Bool
  domain : BitVec 8
  seq : BitVec 16
  corr : BitVec 64
  srcId : BitVec 64
  srcPort : BitVec 16
  deriving DecidableEq, Repr

/-- A PTP timestamp: 48-bit seconds and nanoseconds. -/
structure PtpTime where
  sec : BitVec 48
  ns : BitVec 32
  deriving DecidableEq, Repr

/-- The data set of a received Announce message (R49). -/
structure Announce where
  hdr : PtpHdr
  gmId : BitVec 64
  prio1 : BitVec 8
  prio2 : BitVec 8
  clockClass : BitVec 8
  accuracy : BitVec 8
  variance : BitVec 16
  steps : BitVec 16
  ptpTimescale : Bool
  utcValid : Bool
  utcOffset : BitVec 16
  deriving DecidableEq, Repr

/-- PTP messages that R49 discards. -/
inductive PtpDiscard where
  | signaling | management | pdelayReq | pdelayResp | pdelayRespFollowUp
  deriving DecidableEq, Repr

/-- What the governor's monitors measured over the window that ends (R63, R76, R79): energy in µJ, the hottest sensor in
units of 0.125 °C, and the power in mW of each launch that completed in it, oldest first, by characteristic and entry. -/
structure WindowMeasure where
  usedUJ : Nat
  maxTj : BitVec 16
  launches : List ((Nat × Nat) × Nat)
  deriving DecidableEq, Repr

/-- Packets of a CSI port that R95 accepts and discards, or discards and counts. -/
inductive CsiOther where
  | lineStart | lineEnd | otherType | badHeader
  deriving DecidableEq, Repr

/-- A received CAN frame (R102). -/
structure CanFrame where
  ide : Bool
  rtr : Bool
  fdf : Bool
  brs : Bool
  id : BitVec 29
  data : List Byte
  deriving DecidableEq, Repr

/-- A unit that the known-answer test of R159 and R266 runs on. -/
inductive KatUnit where
  | tile (pos : Fin 64)
  | lane (l : Fin 17)
  deriving DecidableEq, Repr

/-- What the other device answers to a TENSOR access (R176, R178). -/
inductive TensorReply where
  | data (bs : List Byte)
  | ack
  | fault
  deriving DecidableEq, Repr

/-- A TENSOR access received from another device (R176). -/
inductive TensorAccess where
  | read (va : BitVec 48) (len : Nat)
  | write (va : BitVec 48) (bs : List Byte)
  /-- whether a write of some length would fault: it writes nothing (R174) -/
  | check (va : BitVec 48) (len : Nat)
  /-- flits of a class on their way to another position, which this device passes on (R375, R381) -/
  | transit (dst : BitVec 6) (cls : Nat) (bs : List Byte)
  deriving DecidableEq, Repr

/-- What comes upon a solver command while it runs: nothing; the launch's deadline, when just the problems `done` of the batch
have completed (R229, R263; with no problem at all, an empty list says that it passes before step 7 of a TRACK is over); or
something at which just the problems `done` of a SOLVE have completed and the SOLVE has not: a waiting launch of a higher class
(R249), a fault of a lane (R266), or no more than the time that this row tells of. -/
inductive DeadlineCut where
  | never
  | after (done : List Nat)
  | part (done : List Nat)
  deriving DecidableEq, Repr

/-- What the scrubber reads (R331); a read of keeper-local SRAM by the keeper itself (R426); the interface check of a tier of a
near-SRAM bank (R431). -/
inductive ScrubTarget where
  | near (da : BitVec 48)
  | lpddr (da : BitVec 48)
  | keeper (row : Fin 4096)
  | pool (q : Fin 64) (idx : Nat)
  | keeperRead (row : Fin 4096)
  | interface (bank : Fin 64) (tier : Fin 4)
  deriving DecidableEq, Repr

/-- What the SECDED check of one codeword finds (R332). -/
inductive EccResult where
  | clean | correctable | uncorrectable
  deriving DecidableEq, Repr

/-- Outcome of the three-core self-test of R430: which core fails, if one does. -/
inductive CoreTest where
  | fails (core : Fin 5)
  | noneFails
  deriving DecidableEq, Repr

/-- What the keeper watchdog of R395 has missed: one pair for 10 ms, with the outcome of its self-test, or both for
50 ms; and when pairs A and B last serviced it, in keeper-cycle lengths of the always-on domain. -/
inductive WdMiss where
  | pair (p : KPair) (t : CoreTest) (last : Nat)
  | both (lastA lastB : Nat)
  deriving DecidableEq, Repr

/-- Fog causes of R437. -/
inductive FogCause where
  | keeper | tileGroup | pointCloud | mem | sensor | test
  deriving DecidableEq, Repr

/-- What a member answers to an enumeration query (R378, R386). -/
structure MemberInfo where
  number : BitVec 16
  lpddrGib : BitVec 8
  state : BitVec 4
  cause : BitVec 4
  deriving DecidableEq, Repr

/-- An enumeration (R378): on the lead the members that answered in time, from position 1 on; on a member the query that
reaches it. -/
inductive Enumeration where
  | answers (ms : List MemberInfo)
  | query
  deriving DecidableEq, Repr

/-- What the training of one direction of a chain port chose and measured (R376): the spare lane, and the skew of each lane in
2^-16 ns. -/
structure LaneTraining where
  spare : Fin 9
  skew : List Int
  deriving DecidableEq, Repr

/-- What the training of a chain port found (R376): one-way delay and asymmetry in 2^-16 ns, the lanes that send and that
receive. -/
structure Training where
  delay : Nat
  asym : Int
  out : LaneTraining
  inn : LaneTraining
  deriving DecidableEq, Repr

/-- Who answered the training of a chain port (R376): its position if it has one, and whether it waits for its boot image. -/
structure ChainPartner where
  pos : Option (BitVec 6)
  wantsImage : Bool
  deriving DecidableEq, Repr

/-- A chain lane that has failed (R377): whether it sends, the lane, and how many of the last flits sent are not acknowledged. -/
structure FailedLane where
  out : Bool
  lane : Fin 9
  unacked : Nat
  deriving DecidableEq, Repr

/-- A flit that failed its CRC (R374): the port that sent it, and how many flits were sent after it. -/
structure BadFlit where
  port : Fin 2
  after : Fin 64
  deriving DecidableEq, Repr

/-- What a member tells the lead (R378, R380): a notification, header first (empty for none), and whether its downstream port
has gone down. -/
structure MemberNote where
  msg : List Word
  lost : Bool
  deriving DecidableEq, Repr

/-- A read of boot flash (R409): the slot, and whether its header was being read. -/
structure FlashRead where
  slot : Fin 2
  header : Bool
  /-- the bytes of slots 0 and 1 where an agent outside has written them since -/
  ext0 : Option (List (BitVec 8)) := none
  ext1 : Option (List (BitVec 8)) := none
  deriving DecidableEq, Repr

/-- A part of a boot image that comes over the chain (R410): its bytes, and whether they are the last. -/
structure ImagePart where
  bs : List (BitVec 8)
  last : Bool
  deriving DecidableEq, Repr

/-- A pop of a queue (R127): the queue, and another one, or the same, whose pointers an error has struck before (R125). -/
structure QueuePop where
  q : Fin 64
  corrupt : Option (Fin 64)
  deriving DecidableEq, Repr

/-- What a Delay_Resp carries beside its header (R53): the receive timestamp, and the identity of the port that asked. -/
structure DelayResp where
  t4 : PtpTime
  reqId : BitVec 64
  reqPort : BitVec 16
  deriving DecidableEq, Repr

/-- The commands of the V7F, one constructor per row of spec/opcode_table.json, in the table's order. `ch` is the Criser
channel whose oldest accepted command begins (32: the chain channel of R379). -/
inductive Instr where
  /-- R389 -/ | powerOn
  /-- R473 -/ | resetNLow
  /-- R394 -/ | supplyMonitor (r : Rail)
  /-- R394 -/ | supplyRecovered
  /-- R393 -/ | thermalTrip
  /-- R393 -/ | thermTripRelease
  /-- R395 -/ | bootWatchdog
  /-- R395 -/ | keeperWatchdog (m : WdMiss)
  /-- R369 -/ | keeperRequest
  /-- R397 -/ | pllLock (d : Domain)
  /-- R397 -/ | pllNoLock (d : Domain)
  /-- R436 -/ | clockDomainLoss (d : Domain)
  /-- R436 -/ | clockDomainRelock (d : Domain)
  /-- R436 -/ | relockTimeout (d : Domain)
  /-- R436 -/ | memRewriteDone
  /-- R402: the resistance at CFG_STRAP in ohms, none if open (R400), and the OTP bits that one of the three copies does not
  read, each with its copy -/
  | optionLoadDone (ohms : Option Nat) (lost : List (OtpField × Nat × Fin 3))
  /-- R409: slots that an outside agent has written since, and the units that fail the self-test of R425 -/
  | keeperBootDone (ext0 ext1 : Option (List (BitVec 8))) (failed : List UnitId)
  /-- R409 -/ | flashTimeout (r : FlashRead)
  /-- R410 -/ | chainBootImage (part : ImagePart)
  /-- R392 -/ | svcLinkReset
  /-- R36 -/ | tlSnapTake (w : Win)
  /-- R127 -/ | iqPop (p : QueuePop)
  /-- R124 -/ | dropToStart (q : Fin 64)
  /-- R127 -/ | iqDiscardedRead (q : Fin 64)
  /-- R158 -/ | ttSatRead (g : Fin 16)
  /-- R158 -/ | ttNanRead (g : Fin 16)
  /-- R179 -/ | xeErrWrite (v : Reg)
  /-- R179 -/ | xeOobReadRead
  /-- R179 -/ | xeOobWriteRead
  /-- R272 -/ | svSatRead
  /-- R272 -/ | svPivotRead
  /-- R272 -/ | svNarRead
  /-- R272 -/ | svWarmRead
  /-- R318 -/ | kvCopiesRead
  /-- R318 -/ | kvNopageRead
  /-- R343 -/ | mmEccCeRead
  /-- R343 -/ | mmEccUeRead
  /-- R452 -/ | pmSelWrite (w : Win) (v : Reg)
  /-- R453 -/ | pmRingRdWrite (w : Win) (v : Reg)
  /-- R359; on the chain channel (32) the words of the command that came in CONTROL flits (R379) -/
  | ring (ch : Fin 33) (chain : List Word)
  /-- R359: byte offset in the buffer, 8 or 4 bytes wide, value -/
  | mbInboundWrite (ch : Fin 32) (off : BitVec 11) (wide : Bool) (v : Word)
  /-- R360 -/ | mbChOutRdWrite (ch : Fin 32) (v : Reg)
  /-- R9 -/ | mbChStatusWrite (ch : Fin 32) (v : Reg)
  /-- R9 -/ | mbChStatusRead (ch : Fin 32)
  /-- R9, R324, R351, R352: the place, the bytes that the access is wide, and the value, none for a read -/
  | regWriteOther (place : RegPlace) (bytes : Nat) (v : Option (BitVec 64))
  /-- R340 -/ | bar2Write (off : BitVec 34) (bs : List Byte)
  /-- R341 -/ | bar2Read (off : BitVec 34) (len : Nat)
  /-- R357 -/ | unsupported (ch : Fin 33)
  /-- R360 -/ | criserCompletion (ch : Fin 33)
  /-- R364 -/ | timeout (ch : Fin 33)
  /-- R369 -/ | devGetInfo (ch : Fin 33)
  /-- R369 -/ | devGetState (ch : Fin 33)
  /-- R367 -/ | devArm (ch : Fin 33)
  /-- R367 -/ | devRun (ch : Fin 33)
  /-- R367 -/ | devDisarm (ch : Fin 33)
  /-- R367 -/ | devStandby (ch : Fin 33)
  /-- R369 -/ | devReset (ch : Fin 33)
  /-- R362 -/ | devSetNotify (ch : Fin 33)
  /-- R364 -/ | devSetTimeout (ch : Fin 33)
  /-- R369 -/ | devEcho (ch : Fin 33)
  /-- R368 -/ | listSubmit (ch : Fin 33)
  /-- R59 -/ | timeGetStatus (ch : Fin 33)
  /-- R41 -/ | timeSetSource (ch : Fin 33)
  /-- R59 -/ | timeSetServo (ch : Fin 33)
  /-- R44 -/ | timeStepForce (ch : Fin 33)
  /-- R48 -/ | timeGetEpoch (ch : Fin 33)
  /-- R59 -/ | ptpSetClock (ch : Fin 33)
  /-- R59 -/ | ptpSetPort (ch : Fin 33)
  /-- R59 -/ | ptpGetPort (ch : Fin 33)
  /-- R59 -/ | timeSetPps (ch : Fin 33)
  /-- R55 -/ | timePpsLabel (ch : Fin 33)
  /-- R41 -/ | servoOffset
  /-- R41 -/ | holdoverEntered
  /-- R50: the port, whether the frame is transmitted, whether it carries an event message -/
  | stampInterrupt (port : Fin 4) (tx : Bool) (event : Bool)
  /-- R53 -/ | ptpSyncRx (port : Fin 4) (h : PtpHdr) (twoStep : Bool) (origin : PtpTime)
  /-- R53 -/ | ptpFollowUpRx (port : Fin 4) (h : PtpHdr) (origin : PtpTime)
  /-- R53 -/ | ptpDelayReqRx (port : Fin 4) (h : PtpHdr)
  /-- R53 -/ | ptpDelayRespRx (port : Fin 4) (h : PtpHdr) (r : DelayResp)
  /-- R49 -/ | ptpAnnounceRx (port : Fin 4) (a : Announce)
  /-- R49 -/ | ptpDiscardedRx (port : Fin 4) (k : PtpDiscard)
  /-- R49 -/ | ptpSyncTx (port : Fin 4)
  /-- R53 -/ | ptpDelayReqTx (port : Fin 4)
  /-- R49 -/ | ptpAnnounceTx (port : Fin 4)
  /-- R49 -/ | ptpAnnounceTimeout (port : Fin 4)
  /-- R54: the interpolator phase of the capture -/
  | ppsInEdge (phase : Fin 8)
  /-- R54 -/ | ppsInLost
  /-- R56 -/ | ppsOutRise
  /-- R56 -/ | ppsOutFall
  /-- R66 -/ | charLoad (ch : Fin 33)
  /-- R67 -/ | charStart (ch : Fin 33)
  /-- R67 -/ | charStop (ch : Fin 33)
  /-- R83 -/ | charGetStatus (ch : Fin 33)
  /-- R77 -/ | budgetSet (ch : Fin 33)
  /-- R83 -/ | budgetSetShed (ch : Fin 33)
  /-- R83 -/ | budgetGetStatus (ch : Fin 33)
  /-- R67 -/ | charPeriodStart (i : Fin 4)
  /-- R67 -/ | charPeriodEnd (i : Fin 4)
  /-- R70 -/ | slotDueList (i : Fin 4) (e : Fin 1024)
  /-- R64 -/ | slotDueEgo (i : Fin 4) (e : Fin 1024)
  /-- R74 -/ | slotDueBeacon (i : Fin 4) (e : Fin 1024)
  /-- R74 -/ | beaconFall (pin : Fin 8)
  /-- R64 -/ | slotDueMark (i : Fin 4) (e : Fin 1024)
  /-- R64 -/ | slotDueEmpty (i : Fin 4) (e : Fin 1024)
  /-- R69 -/ | launchIssue
  /-- R137: the launch target code, and the group of a tile launch -/
  | launchStart (target : BitVec 8) (g : Fin 16)
  /-- R65 -/ | preemption (target : BitVec 8) (g : Fin 16)
  /-- R71: the launch's number -/
  | deadlineMissed (id : Nat)
  /-- R79 -/ | budgetWindow (m : WindowMeasure)
  /-- R81 -/ | groupWake (g : Fin 16)
  /-- R77 -/ | leaseExpired
  /-- R78: the hottest sensor in units of 0.125 °C -/
  | thermalWarn (tj : BitVec 16)
  /-- R78 -/ | thermalHot (tj : BitVec 16)
  /-- R78 -/ | thermalNormal (tj : BitVec 16)
  /-- R87 -/ | stbEdge (pin : Fin 16) (rising : Bool) (phase : Fin 8)
  /-- R104 -/ | spiReadDone (port : Fin 4) (bs : List Byte)
  /-- R88 -/ | csiFrameStart (port : Fin 12) (vc : Fin 4) (phase : Fin 8)
  /-- R96 -/ | csiLongPacket (port : Fin 12) (vc : Fin 4) (dt : BitVec 6) (bs : List Byte) (crcOk : Bool)
  /-- R96 -/ | csiFrameEnd (port : Fin 12) (vc : Fin 4)
  /-- R95 -/ | csiOtherPacket (port : Fin 12) (k : CsiOther)
  /-- R97 -/ | ethFrameRx (port : Fin 4) (bs : List Byte)
  /-- R114 -/ | ethLinkDown (port : Fin 4)
  /-- R114 -/ | ethLinkUp (port : Fin 4)
  /-- R102 -/ | canFrameRx (c : Fin 2) (f : CanFrame)
  /-- R102 -/ | canBusOff (c : Fin 2)
  /-- R102 -/ | canBusOffRecovery (c : Fin 2)
  /-- R103 -/ | canSync (c : Fin 2)
  /-- R103 -/ | canSyncTransmit (c : Fin 2)
  /-- R110 -/ | sensorAbsent (e : Fin 64)
  /-- R106 -/ | llSetEntry (ch : Fin 33)
  /-- R113 -/ | llGetEntry (ch : Fin 33)
  /-- R113 -/ | llGetStatus (ch : Fin 33)
  /-- R110 -/ | llMask (ch : Fin 33)
  /-- R110 -/ | llUnmask (ch : Fin 33)
  /-- R100 -/ | llSetTemplate (ch : Fin 33)
  /-- R113 -/ | llSetEthPort (ch : Fin 33)
  /-- R113 -/ | llSetCanPort (ch : Fin 33)
  /-- R118 -/ | iqSetPool (ch : Fin 33)
  /-- R129 -/ | iqSetQueue (ch : Fin 33)
  /-- R129 -/ | iqGetStatus (ch : Fin 33)
  /-- R142 -/ | tileNop (g : Fin 16)
  /-- R142 -/ | tileEnd (g : Fin 16)
  /-- R139 -/ | barrier (g : Fin 16)
  /-- R145 -/ | regWrite (g : Fin 16)
  /-- R145 -/ | regRead (g : Fin 16)
  /-- R145 -/ | setShape (g : Fin 16)
  /-- R145 -/ | setScale (g : Fin 16)
  /-- R145 -/ | setMisc (g : Fin 16)
  /-- R143 -/ | matmul (g : Fin 16)
  /-- R154 -/ | vector (g : Fin 16)
  /-- R160 -/ | tileFault (pos : Fin 64)
  /-- R159 -/ | knownAnswerTest (u : KatUnit) (pass : Bool)
  /-- R159 -/ | katStarved (u : KatUnit)
  /-- R162 -/ | xeNop
  /-- R162 -/ | xeEnd
  /-- R167 -/ | move
  /-- R176: the issuing position and its access -/
  | tensorRequestRx (pos : BitVec 6) (a : TensorAccess)
  /-- R178: the request's number and the answer -/
  | tensorResponseRx (id : Nat) (r : TensorReply)
  /-- R381 -/ | tensorTimeout (id : Nat)
  /-- R181 -/ | xeSetOwner (ch : Fin 33)
  /-- R181 -/ | xeClearOwner (ch : Fin 33)
  /-- R181 -/ | xeGetStatus (ch : Fin 33)
  /-- R183 -/ | vxNop
  /-- R183 -/ | vxEnd
  /-- R187 -/ | frameBegin
  /-- R190 -/ | deskew
  /-- R198 -/ | rules
  /-- R207 -/ | frameEnd
  /-- R209 -/ | neighbours
  /-- R215 -/ | egoUpdate
  /-- R225 -/ | track (cut : DeadlineCut)
  /-- R242 -/ | egoSet (ch : Fin 33)
  /-- R217 -/ | egoReset (ch : Fin 33)
  /-- R242 -/ | egoGet (ch : Fin 33)
  /-- R243 -/ | btSet (ch : Fin 33)
  /-- R241 -/ | btClear (ch : Fin 33)
  /-- R242 -/ | btGetSensor (ch : Fin 33)
  /-- R248 -/ | svNop
  /-- R248 -/ | svEnd
  /-- R250 -/ | solve (cut : DeadlineCut)
  /-- R269 -/ | asmEnd
  /-- R269: an assembly row takes its step word -/
  | ldx (w : Word)
  /-- R269 -/ | ldi (w : Word)
  /-- R269 -/ | ldh (w : Word)
  /-- R269: the step word and the constant word that follows it -/
  | ldk (w : Word) (k : Word)
  /-- R269 -/ | add (w : Word)
  /-- R269 -/ | sub (w : Word)
  /-- R269 -/ | mul (w : Word)
  /-- R269 -/ | mac (w : Word)
  /-- R269 -/ | sin (w : Word)
  /-- R269 -/ | cos (w : Word)
  /-- R269 -/ | recip (w : Word)
  /-- R269 -/ | rsqrt (w : Word)
  /-- R269 -/ | sta (w : Word)
  /-- R269 -/ | stb (w : Word)
  /-- R266 -/ | solverLaneFault (lane : Fin 16)
  /-- R274 -/ | svGetStatus (ch : Fin 33)
  /-- R274 -/ | svSetReg (ch : Fin 33)
  /-- R279 -/ | quietPoint
  /-- R287 -/ | clEnable (ch : Fin 33)
  /-- R287 -/ | clRestore (ch : Fin 33)
  /-- R287 -/ | clSetChecks (ch : Fin 33)
  /-- R287 -/ | clGetStatus (ch : Fin 33)
  /-- R306 -/ | kvNop
  /-- R306 -/ | kvEnd
  /-- R312 -/ | attend
  /-- R316 -/ | attendBwd
  /-- R315 -/ | pageMove
  /-- R289 -/ | kvSetModel (ch : Fin 33)
  /-- R320 -/ | kvSeqOpen (ch : Fin 33)
  /-- R299 -/ | kvFork (ch : Fin 33)
  /-- R302 -/ | kvRelease (ch : Fin 33)
  /-- R302 -/ | kvTruncate (ch : Fin 33)
  /-- R320 -/ | kvSetGlobal (ch : Fin 33)
  /-- R320 -/ | kvGetSeq (ch : Fin 33)
  /-- R320 -/ | kvGetPage (ch : Fin 33)
  /-- R320 -/ | kvGetStatus (ch : Fin 33)
  /-- R435: 0 point cloud, 1 layout, 2 attention, 3 to 6 page movers -/
  | engineFault (u : Fin 7)
  /-- R331 -/ | scrub (t : ScrubTarget) (r : EccResult)
  /-- R431 -/ | bankSwitch (bank : Fin 64)
  /-- R329 -/ | selfRefreshEntry (c : Fin 64)
  /-- R335 -/ | mmSetRegion (ch : Fin 33)
  /-- R339 -/ | mmClearRegion (ch : Fin 33)
  /-- R345 -/ | mmGetRegion (ch : Fin 33)
  /-- R341 -/ | mmSetBar2 (ch : Fin 33)
  /-- R345 -/ | mmGetStatus (ch : Fin 33)
  /-- R430 -/ | keeperCoreFault (p : KPair) (t : CoreTest)
  /-- R427: whether the spare passes its known-answer test -/
  | lampChangerSwitch (katOk : Bool)
  /-- R434: the code wanted for VDD_ARRAY and the units whose margin is below 5% at 0.60 V -/
  | wearMonitor (vid : BitVec 4) (worn : List UnitId)
  /-- R437 -/ | fogEntry (c : FogCause)
  /-- R444 -/ | flGetLog (ch : Fin 33)
  /-- R444 -/ | flGetSpares (ch : Fin 33)
  /-- R444 -/ | flClearLog (ch : Fin 33)
  /-- R444 -/ | flTest (ch : Fin 33)
  /-- R376 -/ | chainTrainingDone (port : Fin 2) (t : Training) (partner : ChainPartner)
  /-- R377: the port, the lane, and how many of the last flits sent are not acknowledged -/
  | laneSpared (port : Fin 2) (l : FailedLane)
  /-- R377 -/ | retrained (port : Fin 2) (ok : Bool)
  /-- R377 -/ | linkUp (port : Fin 2)
  /-- R374 -/ | flitReplay (f : BadFlit)
  /-- R382 -/ | chainTimeExchange
  /-- R382: from the TIME flit received to the reply, in 1/64 of a unit interval -/
  | timeExchangeReply (lag : Nat)
  /-- R382: t2, t3 in 2^-16 ns, FLAGS; whether the upstream device stepped between them -/
  | timeReplyRx (t2 t3 : Int) (flags : BitVec 16) (stepped : Bool)
  /-- R380 -/ | forwardedNote (pos : BitVec 6) (n : MemberNote)
  /-- R386 -/ | cnGetStatus (ch : Fin 33)
  /-- R378: on the lead the answers of the positions from 1, up to the first that does not answer in time; on a member, without
  a channel, the query -/
  | cnEnumerate (ch : Fin 33) (e : Enumeration)
  /-- R379: the member's completion, or none if it was lost -/
  | cnForward (ch : Fin 33) (reply : Option (List Word))
  /-- R377 -/ | cnRetrain (ch : Fin 33)
  /-- R385 -/ | cnSetNumber (ch : Fin 33)
  /-- R414: the keeper cycles that the security engine takes -/ | scInstall (ch : Fin 33) (cycles : Nat)
  /-- R421 -/ | scGetPackages (ch : Fin 33)
  /-- R415: the same, and the bytes of the image that flash will hold otherwise than written -/
  | scUpdateFirmware (ch : Fin 33) (cycles : Nat) (damage : List (Nat × BitVec 8))
  /-- R416 -/ | scAttest (ch : Fin 33)
  /-- R412 -/ | scRevokeRoot (ch : Fin 33)
  /-- R413 -/ | scAdvanceRollback (ch : Fin 33)
  /-- R421 -/ | scGetStatus (ch : Fin 33)
  /-- R451 -/ | pmSet (ch : Fin 33)
  /-- R456 -/ | pmStart (ch : Fin 33)
  /-- R459 -/ | pmStop (ch : Fin 33)
  /-- R459 -/ | pmGetStatus (ch : Fin 33)
  /-- R456 -/ | collectorSnapshot
  /-- R455: the counter and the skid in commands -/
  | sampleRecord (idx : Fin 544) (skid : Fin 5)
  /-- R398 -/ | resetNRisingEdge
  /-- R352 -/ | servicePortLinkUp
  /-- R450: the (block, event) pairs whose (c) condition holds in this array cycle; 34 + p stands for tile p -/
  | arrayCycleCount (conds : List (Nat × Nat))
  /-- R83 -/ | charPeriodBegun (i : Fin 4)
  deriving DecidableEq, Repr

end Sys2Proof
end

