-- ==== Sys2Proof/WellFormed.lean ====
section
/-! DEFINITION. When the operands of a command are ones the rules allow: lengths of data that a bus access, a frame or a
packet can carry. -/
namespace Sys2Proof

/-- A CAN frame as R102 accepts it: at most 8 bytes, or one of the FD lengths, and an 11-bit identifier in base format. -/
def CanFrame.wf (f : CanFrame) : Bool :=
  (f.data.length ≤ 8 || (f.fdf && [12, 16, 20, 24, 32, 48, 64].contains f.data.length)) &&
  (f.ide || f.id.toNat < 2048) && (!f.brs || f.fdf) && !(f.rtr && f.fdf)

/-- Well-formed operands. -/
def Instr.wf : Instr → Bool
  | .bar2Write off bs => 1 ≤ bs.length && bs.length ≤ 512 && off.toNat + bs.length ≤ 2 ^ 34
  | .bar2Read off len => 1 ≤ len && len ≤ 4096 && off.toNat + len ≤ 2 ^ 34
  | .mbInboundWrite _ off wide _ => off.toNat % (if wide then 8 else 4) = 0
  | .csiLongPacket _ _ _ bs _ => bs.length ≤ 65535
  | .ethFrameRx _ bs => 60 ≤ bs.length && bs.length ≤ 9212
  | .canFrameRx _ f => f.wf
  | .tensorRequestRx _ (.read _ len) => 1 ≤ len && len ≤ 512
  | .tensorRequestRx _ (.write _ bs) => 1 ≤ bs.length && bs.length ≤ 512
  | .tensorRequestRx _ (.check _ n) => 1 ≤ n && n ≤ 512
  | .cnEnumerate _ (.answers ms) => ms.length ≤ 63
  | .chainTrainingDone _ t _ => t.out.skew.length = 9 && t.inn.skew.length = 9
  | .laneSpared _ l => l.unacked ≤ 64
  | .arrayCycleCount conds => conds.all fun p => p.1 < 102 && p.2 < 256
  | .regWriteOther (.list off) bytes v => off.toNat % 4 = 0 && bytes = 4 && v.isSome
  | .launchStart target _ => target.toNat ≤ 16 || [0x20, 0x21, 0x22, 0x23].contains target.toNat
  | .preemption target _ => target.toNat ≤ 16 || [0x20, 0x21, 0x22, 0x23].contains target.toNat
  | _ => true

end Sys2Proof
end

