-- ==== Sys2Proof/Config.lean ====
section
/-! DEFINITION. What the spec leaves open: values that are free (log entries 8, 9 and 10). Each is a constant without a
body, so no proof can see its value; a function of operands gives equal answers to equal operands. -/
namespace Sys2Proof.Config

/-- A byte whose value the spec calls undefined or does not state; the index is the state's count of free values. -/
opaque freeByte : Nat → Byte

/-- A 32-bit value that the spec does not state. -/
opaque freeReg : Nat → BitVec 32

/-- A choice the spec leaves open, below `n` values where `n` is not 0. -/
opaque freeNat : Nat → Nat

/-- Whether the resistor at CFG_STRAP enables the boot watchdog (R395, R400), by the always-on count: read only in OPTION_LOAD,
before the strap is taken (log entry 81). -/
opaque strapWatchdog : Nat → Bool

/-- Byte `k` of what the spec does not give of the `n`-th flit that a chain port sends: its header, bytes 0 to 7, and the payload
that its message does not fill (R374, log entry 76). -/
opaque flitByte : Nat → Nat → Nat → Byte

/-- One step of the stochastic-rounding generator of R150: a 32-bit xorshift whose shifts the spec does not give. -/
opaque xorshift : BitVec 32 → BitVec 32

/-- The 16-bit random value that a generator state gives (R150), which the spec does not derive from the state. -/
opaque rand16 : BitVec 32 → BitVec 16

/-- By how many units in the last place the result of a vector function (by VOP code) differs from the correctly rounded
one (R154): read modulo the stated error's range. -/
opaque ulps : Nat → BitVec 32 → Nat

/-- Result of a vector function (by VOP code) where R154 states none: 1 / 0, the square root of a negative number, the
logarithm of zero or of a negative number. -/
opaque unstated : Nat → BitVec 32 → BitVec 32

/-- By how many units in the last place the FP32 sine (0), cosine (1) or arc cosine (2) of R188, R191, R281 and R282 differs
from the correctly rounded one, which the spec does not state: read modulo the range of 2 units to either side (log entry
20). -/
opaque trigErr : Nat → BitVec 32 → Nat

/-- Error of SIN and COS of an assembly step (R269), by raw FX32 and binary point: read modulo the stated bound's range. -/
opaque sinErr : BitVec 32 → Nat → Nat
opaque cosErr : BitVec 32 → Nat → Nat

/-- Propagation of the ego filter (R215), whose equations the spec does not give: entry `i` of the estimate over a time in
units of 2^-16 ns, from the estimate, the inertial sample in body axes if there is one, and the settings (log entry 9). -/
opaque egoPropagate : Nat → Int → List (BitVec 32) → BitVec 32

/-- The orientation that a corrected orientation error gives: entry `i` of the quaternion from the quaternion and the error
(log entry 9). -/
opaque egoTurn : Nat → List (BitVec 32) → BitVec 32

/-- The variance of row `i` of an encoder measurement, and the binary points of the ego filter's biases, covariance and
intermediate values, none of which the spec gives (log entry 9). -/
opaque encVar : Nat → List Byte → BitVec 32
opaque egoPoint : Nat → Nat

/-- Binary points of the intermediate values of TRACK (R226, R228), by what they stand for and the buoy's BP_X and BP_P:
read modulo 32, or 31 where 1 must have a value (log entry 24). -/
opaque trackPoint : Nat → Nat → Nat → Nat

/-- Whether an inexact square root of a raw sum at a binary point is rounded up (R213, R237), which the spec does not state:
read modulo 2; of a negative sum, any value (log entry 24). -/
opaque rootUp : Nat → Nat → Nat

/-- Householder QR (R252): the binary points of the intermediate values, by what they stand for and the binary points of A
and of the factor; the sign of a diagonal entry, by column and the column's values (log entry 10). -/
opaque qrPoint : Nat → Nat → Nat → Nat
opaque qrSign : Nat → List (BitVec 32) → Bool

/-- Which of FP16, BF16 and FP32 ATTEND_BWD takes O to hold (R316): read modulo 3. -/
opaque outFormat : Nat

/-- The power in mW of an entry whose POWER is 0 and of which no launch has been measured yet (R63 states none), by
characteristic and entry. -/
opaque unmeasured : Nat → Nat → Nat

/-- What the keeper derives from the device secrets (R416 does not say how): the ECDSA key is 1 + the first value modulo the order
less 1; the identifier of the LMS tree; element `i` of its leaf `q`, and the randomizer that leaf signs with. -/
opaque ecdsaScalar : List Word → Nat
opaque lmsId : List Word → BitVec 128
opaque lmsElement : List Word → Nat → Nat → BitVec 192
opaque lmsRandomizer : List Word → Nat → BitVec 192

end Sys2Proof.Config
end

