-- ==== Sys2Proof/Machine/State.lean ====
section
/-! DEFINITION. The state of the V7F: every register, queue, table, counter, mode and pin the spec gives it, as plain
data. The docstring of a field reads "width; chapter and rules; reset value. text". Default values are the reset
values. -/
namespace Sys2Proof.Machine

/-- An instant on the time line in units of 2^-16 ns with the stamp flags it carries (R26, R27). -/
structure Inst where
  t : Int := 0
  flags : BitVec 16 := 0
  deriving DecidableEq, Repr

/-- A full stamp, as the two words of R26. -/
structure Stamp where
  w0 : Word := 0
  w1 : Word := 0
  deriving DecidableEq, Repr

/-- Servo states of R40. -/
inductive ServoState where
  | free | acquiring | settling | locked | holdover
  deriving DecidableEq, Repr

/-- Servo sources of R37. -/
inductive Source where
  | none | ptp | ppsIn | chainUp
  deriving DecidableEq, Repr

/-- A sample that waits to be handed to the servo. -/
structure Sample where
  src : Source
  o : Int
  deriving DecidableEq, Repr

/-- One copy of the snapshot registers of R36. -/
structure Snap where
  /-- 32; 02 R36; 0. TL_SNAP_SEC_LO -/
  secLo : Reg := 0
  /-- 32; 02 R36; 0. TL_SNAP_SEC_HI -/
  secHi : Reg := 0
  /-- 32; 02 R36; 0. TL_SNAP_NS -/
  ns : Reg := 0
  /-- 32; 02 R36; 0. TL_SNAP_AUX -/
  aux : Reg := 0
  deriving DecidableEq, Repr

/-- The time-line domain: counter, time line, servo (R26 to R48, R59). -/
structure Time where
  /-- 64; 02 R30; 0. counter of keeper cycles, modulo 2^64 -/
  counter : Nat := 0
  /-- exact; 02 R31 R33; 0. time line since its epoch's second 0, in units of 2^-48 ns (a keeper cycle at F = 0 is
  51,200 × 2^32 of them) -/
  line : Int := 0
  /-- 4; 02 R27; 0. GEN, the step generation -/
  gen : BitVec 4 := 0
  /-- 1; 02 R27 R36; 1. UPTIME_EPOCH -/
  uptime : Bool := true
  /-- 1; 02 R27 R36; 0. DISCIPLINED -/
  disciplined : Bool := false
  /-- 3; 02 R40 R36; FREE. servo state -/
  state : ServoState := .free
  /-- 2; 02 R37; NONE. servo source -/
  source : Source := .none
  /-- 64; 02 R39; 0. integral term i_acc, in units of 2^-32 -/
  iAcc : Int := 0
  /-- 32; 02 R33 R59; DESIGN CHOICE 0 (log entry 4). signed frequency adjustment F -/
  freq : Int := 0
  /-- 5; 02 R39; 15. gain shift kp -/
  kp : Nat := 15
  /-- 5; 02 R39; 19. gain shift ki -/
  ki : Nat := 19
  /-- 32; 02 R41; 100. lock threshold in ns -/
  lockNs : Nat := 100
  /-- 32; 02 R43; 1000000. step threshold in ns -/
  stepNs : Nat := 1000000
  /-- 32; 02 R41; 2000. holdover timeout in ms -/
  holdoverMs : Nat := 2000
  /-- 4; 02 R41; DESIGN CHOICE 0 (log entry 4). lock run -/
  lockRun : Nat := 0
  /-- 64; 02 R41; DESIGN CHOICE 0 (log entry 4). counter at the instant from which the holdover timeout runs -/
  holdFrom : Nat := 0
  /-- 64; 02 R59; DESIGN CHOICE 0 (log entry 4). LAST_OFFSET -/
  lastOffset : Int := 0
  /-- 32; 02 R59 R41; DESIGN CHOICE 0 (log entry 4). REFUSED, saturating -/
  refused : Nat := 0
  /-- 32; 02 R59; DESIGN CHOICE 0 (log entry 4). ACCEPTED, saturating -/
  accepted : Nat := 0
  /-- 64; 02 R59; DESIGN CHOICE 0 (log entry 4). counter at the last accepted offset (0: none yet) -/
  lastAccepted : Nat := 0
  /-- 128+128; 02 R48 R59; 0 (not acquired). ACQ_UPTIME and ACQ_DISC -/
  acq : Stamp × Stamp := ({}, {})
  /-- 128+128; 02 R59; 0 (none). STEP_BEFORE and STEP_AFTER -/
  step : Stamp × Stamp := ({}, {})
  /-- list; 02 R41 R45; empty. samples waiting for the servo, oldest first -/
  samples : List Sample := []
  /-- 2×128; 02 R36; 0. snapshot registers, BAR0 copy -/
  snapBar0 : Snap := {}
  /-- 2×128; 02 R36; 0. snapshot registers, LIST copy -/
  snapList : Snap := {}
  deriving DecidableEq, Repr

/-- portState codes of IEEE 1588-2019 that the ports of R49 take. -/
inductive PtpState where
  | initializing | faulty | disabled | listening | preMaster | master | passive | uncalibrated | slave
  deriving DecidableEq, Repr

/-- A Sync whose Follow_Up has not come (R53). -/
structure PendingSync where
  seq : BitVec 16
  t2 : Int
  corr : Int
  deriving DecidableEq, Repr

/-- The firmware's stamp of a frame (R50, R52): instant in 2^-16 ns, flags, stamped late, transmitted, and whether the time line
has stepped since (R45). -/
structure FrameStamp where
  t : Int
  flags : BitVec 16
  late : Bool
  tx : Bool
  stale : Bool := false
  deriving DecidableEq, Repr

/-- A sender of Announce messages that a port hears (R49): its last data set, and the counter at the messages heard in the
last four announce intervals, newest first. -/
structure ForeignMaster where
  ann : Announce
  heard : List Nat
  deriving DecidableEq, Repr

/-- One PTP port (R49 to R53, R59). -/
structure PtpPort where
  /-- 1; 02 R59; DESIGN CHOICE 0 (log entry 4). ENABLE -/
  enable : Bool := false
  /-- 32; 02 R50; 0. EGRESS_LAT, 2^-16 ns -/
  egress : Nat := 0
  /-- 32; 02 R50; 0. INGRESS_LAT, 2^-16 ns -/
  ingress : Nat := 0
  /-- 64; 02 R59; DESIGN CHOICE 0 (log entry 4). ASYMMETRY, 2^-16 ns -/
  asym : Int := 0
  /-- 32; 02 R59; DESIGN CHOICE 0 (log entry 4). IPV4_ADDR -/
  ipv4 : BitVec 32 := 0
  /-- 4; 02 R59; DESIGN CHOICE DISABLED (log entry 4). PORT_STATE -/
  state : PtpState := .disabled
  /-- 64; 02 R59; DESIGN CHOICE 0 (log entry 4). PARENT_ID -/
  parent : BitVec 64 := 0
  /-- 16; 02 R49; DESIGN CHOICE 0 (log entry 4). port number of the parent's port -/
  parentPort : BitVec 16 := 0
  /-- 64; 02 R53 R59; DESIGN CHOICE none, read as 0 (log entry 4). filtered mean path delay, 2^-16 ns -/
  pathDelay : Option Int := none
  /-- 32; 02 R59; DESIGN CHOICE 0 (log entry 4). SYNC_RX, saturating -/
  syncRx : Nat := 0
  /-- 32; 02 R52 R59; DESIGN CHOICE 0 (log entry 4). COLLISIONS, saturating -/
  collisions : Nat := 0
  /-- 1; 02 R59; DESIGN CHOICE 0 (log entry 4). PTP_TIMESCALE as last received -/
  ptpTimescale : Bool := false
  /-- 1; 02 R59; DESIGN CHOICE 0 (log entry 4). currentUtcOffsetValid -/
  utcValid : Bool := false
  /-- 16; 02 R59; DESIGN CHOICE 0 (log entry 4). currentUtcOffset -/
  utcOffset : BitVec 16 := 0
  /-- opt; 02 R53; none. Sync awaiting its Follow_Up -/
  sync : Option PendingSync := none
  /-- opt; 02 R53; none. t1 and t2 of the last complete Sync, in 2^-16 ns -/
  lastSync : Option (Int × Int) := none
  /-- opt; 02 R53; none. sequence number and t3 of the last Delay_Req transmitted -/
  delayReq : Option (BitVec 16 × Int) := none
  /-- opt; 02 R49; none. best qualified Announce data set heard on the port -/
  best : Option Announce := none
  /-- list; 02 R49; empty. senders of Announce messages heard on the port -/
  foreign : List ForeignMaster := []
  /-- 64; 02 R49 R59; DESIGN CHOICE 0 (log entry 4). counter from which the announce receipt timeout runs -/
  annFrom : Nat := 0
  /-- 64; 02 R49; DESIGN CHOICE 0 (log entry 4). counter at which a PRE_MASTER port becomes MASTER -/
  preUntil : Nat := 0
  /-- 3×opt; 02 R49 R59; none. counter at the last Sync, Delay_Req and Announce that the port sent -/
  sentAt : Option Nat × Option Nat × Option Nat := (none, none, none)
  /-- 16; 02 R49; DESIGN CHOICE 0 (log entry 4). next sequence numbers of Sync, Delay_Req, Announce -/
  seqs : BitVec 16 × BitVec 16 × BitVec 16 := (0, 0, 0)
  /-- opt; 02 R50; none. stamp of the port's last delimiter event that no message has taken -/
  stamp : Option FrameStamp := none
  deriving DecidableEq, Repr

/-- PTP clock configuration, ports, and the stamping pairs (R49 to R53, R59). -/
structure Ptp where
  /-- 2; 02 R59; DESIGN CHOICE 0, off (log entry 4). ROLE -/
  role : BitVec 2 := 0
  /-- 1; 02 R59; DESIGN CHOICE 0 (log entry 4). SLAVE_ONLY -/
  slaveOnly : Bool := false
  /-- 2; 02 R59; DESIGN CHOICE 0 (log entry 4). TRANSPORT -/
  transport : BitVec 2 := 0
  /-- 8; 02 R59; DESIGN CHOICE 0 (log entry 4). DOMAIN -/
  domain : BitVec 8 := 0
  /-- 8; 02 R59; DESIGN CHOICE 0 (log entry 4). PRIORITY1 -/
  prio1 : BitVec 8 := 0
  /-- 8; 02 R59; DESIGN CHOICE 0 (log entry 4). PRIORITY2 -/
  prio2 : BitVec 8 := 0
  /-- 8; 02 R49; 248. CLOCK_CLASS -/
  clockClass : BitVec 8 := 248
  /-- 8; 02 R59; DESIGN CHOICE 0 (log entry 4). CLOCK_ACCURACY -/
  accuracy : BitVec 8 := 0
  /-- 8; 02 R59; DESIGN CHOICE 0 (log entry 4). LOG_SYNC -/
  logSync : BitVec 8 := 0
  /-- 8; 02 R59; DESIGN CHOICE 0 (log entry 4). LOG_ANNOUNCE -/
  logAnnounce : BitVec 8 := 0
  /-- 8; 02 R59; DESIGN CHOICE 0 (log entry 4). LOG_DELAY_REQ -/
  logDelayReq : BitVec 8 := 0
  /-- 8; 02 R59; DESIGN CHOICE 0 (log entry 4). ANNOUNCE_TIMEOUT -/
  announceTimeout : BitVec 8 := 0
  /-- 64; 02 R59; DESIGN CHOICE 0 (log entry 4). CLOCK_ID as configured (0: derived from port 0's MAC address) -/
  clockId : BitVec 64 := 0
  /-- 4 ports; 02 R49 R59; as PtpPort. the ports -/
  ports : Vector PtpPort 4 := Vector.replicate 4 {}
  /-- 2; 02 R52; none. counter at the last delimiter event of each stamping pair -/
  pairLast : Vector (Option Nat) 2 := Vector.replicate 2 none
  deriving DecidableEq, Repr

/-- PPS_IN and PPS_OUT (R54 to R56, R59). -/
structure Pps where
  /-- 1; 02 R59; DESIGN CHOICE 0 (log entry 4). IN_ENABLE -/
  inEnable : Bool := false
  /-- 1; 02 R59; DESIGN CHOICE 0 (log entry 4). OUT_UPTIME -/
  outUptime : Bool := false
  /-- 1; 02 R56; 0. OUT_ENABLE -/
  outEnable : Bool := false
  /-- 32; 02 R59; 100000000. OUT_WIDTH_NS -/
  outWidth : Nat := 100000000
  /-- 32; 02 R59; DESIGN CHOICE 0 (log entry 4). OUT_PHASE_NS, signed -/
  outPhase : Int := 0
  /-- 32; 02 R59; DESIGN CHOICE 0 (log entry 4). IN_DELAY, 2^-16 ns -/
  inDelay : Nat := 0
  /-- opt 64; 02 R55; none. label of the next accepted PPS_IN edge -/
  label : Option Nat := none
  /-- opt 64; 02 R54; none. counter at the last accepted PPS_IN edge -/
  lastAccepted : Option Nat := none
  /-- 64; 02 R54; 0. counter at the last PPS_IN edge, enable or loss notice, from which the 1.5 s run -/
  lostFrom : Nat := 0
  /-- 1; 02 R54; 0. PPS_IN_LOST notified since the last edge -/
  lostSent : Bool := false
  /-- 1; 02 R56; low. the PPS_OUT pin -/
  out : Bool := false
  /-- 64; 02 R56; 0. counter at the last rise of PPS_OUT -/
  outRise : Nat := 0
  deriving DecidableEq, Repr

/-- States of a characteristic (R67). -/
inductive CharState where
  | empty | loaded | pending | running
  deriving DecidableEq, Repr

/-- One characteristic (R62 to R68, R83). -/
structure Char where
  /-- 2; 03 R67; EMPTY. STATE -/
  state : CharState := .empty
  /-- 20; 03 R62; 0. PERIOD_US -/
  periodUs : Nat := 0
  /-- 1024×128; 03 R62 R63; empty. the copied entry table -/
  table : List (Word × Word) := []
  /-- exact; 03 R67 R68; 0. start instant of period 0 while PENDING, in 2^-48 ns -/
  start : Int := 0
  /-- exact; 03 R67 R83; 0. start of the period that runs, in 2^-48 ns -/
  periodStart : Int := 0
  /-- 11; 03 R69; 0. entries below it have fallen due in the running period -/
  next : Nat := 0
  /-- list; 03 R69; empty. entries above it that have fallen due in the running period -/
  ahead : List Nat := []
  /-- list; 03 R69; empty. slots of earlier periods that have fallen due and are not handled: entry, instant in 2^-48 ns, oldest first -/
  left : List (Nat × Int) := []
  /-- 64; 03 R83; 0. PERIODS -/
  periods : Nat := 0
  /-- 1; 03 R67; 0. CHAR_STOP with MODE 0 was given in this period -/
  stopAtEnd : Bool := false
  /-- 32; 03 R70 R83; 0. WITHHELD, saturating -/
  withheld : Nat := 0
  /-- 32; 03 R71 R83; 0. DEADLINE_MISSED, saturating -/
  missed : Nat := 0
  /-- 32; 03 R70 R83; 0. OVERRUN, saturating -/
  overrun : Nat := 0
  /-- 32; 03 R68 R83; 0. ADVANCED, saturating -/
  advanced : Nat := 0
  deriving DecidableEq, Repr

/-- How far one sequencer has come with a launch's list (R65, R137). -/
inductive RunStatus where
  | waiting | running | preempted | done
  deriving DecidableEq, Repr

/-- A command in progress that has acted and is not yet complete: its words as fetched, and the region table that it goes on with
where the table has changed since it began (R339). -/
structure Held where
  words : List Word
  regions : Option (List (Nat × Word × Word × Word)) := none
  deriving DecidableEq, Repr

/-- One sequencer's run of a launch: a tile group, or the one unit of another target. -/
structure Run where
  /-- 0 to 15 tile group; 16 for a target that is no tile group -/
  group : Nat
  /-- VA of the next command -/
  pc : Nat
  status : RunStatus := .waiting
  started : Bool := false
  /-- the run ended with a task fault (R137) -/
  faulted : Bool := false
  /-- barriers of the launch that this sequencer has reached (R139) -/
  barriers : Nat := 0
  /-- it waits at the last of them -/
  atBarrier : Bool := false
  /-- a SOLVE of which some problems have completed and not all: those, and the inputs of its problems as they were at its start
  (R249, R266, R275) -/
  solved : Option (List Nat × List (List Byte)) := none
  /-- its command in progress (R339) -/
  held : Option Held := none
  deriving DecidableEq, Repr

/-- A launch from the instant its slot falls due, or from LIST_SUBMIT, until it completes (R64 to R71, R368). -/
structure Launch where
  id : Nat
  /-- characteristic 0 to 3; 4 for LIST_SUBMIT -/
  char : Nat
  entry : Nat
  ego : Bool
  /-- 0 MANDATORY to 3 BACKGROUND -/
  cls : Nat
  telemetry : Bool
  target : BitVec 8
  /-- POWER in units of 50 mW -/
  power : Nat
  shedStep : Nat
  listVa : Nat
  /-- slot instant, in 2^-48 ns -/
  slotAt : Int
  /-- deadline, in 2^-48 ns; none where it has none -/
  deadline : Option Int
  issued : Bool := false
  /-- order of issue to the target (R69) -/
  issueSeq : Nat := 0
  withheld : Bool := false
  /-- DEADLINE_MISSED already counted -/
  late : Bool := false
  /-- the deadline has passed during one of its solver commands (R229, R263) -/
  cut : Bool := false
  runs : List Run := []
  /-- launches that have run at the same time as this one (R161, R182) -/
  beside : List Nat := []
  /-- LIST_SUBMIT: SEQUENCE and TAG of the command, as in LIST_DONE w0 (R369) -/
  tag : Word := 0
  /-- LIST_SUBMIT: the order of submission -/
  order : Nat := 0
  /-- LIST_SUBMIT: the counter at its launch instant (R368) -/
  dueAt : Nat := 0
  deriving DecidableEq, Repr

/-- Thermal levels of R78. -/
inductive Thermal where
  | normal | warn | hot
  deriving DecidableEq, Repr

/-- The budget governor (R76 to R83). -/
structure Budget where
  /-- 32; 03 R77; 75000. P_b in effect, mW -/
  mw : Nat := 75000
  /-- 32; 03 R77; 20000. bucket capacity C, µJ -/
  cap : Nat := 20000
  /-- 32; 03 R77; 0. lease, ms; 0 for no expiry -/
  leaseMs : Nat := 0
  /-- 64; 03 R77; 0. counter at the last BUDGET_SET, from which the lease runs -/
  leaseFrom : Nat := 0
  /-- 1; 03 R77; 0. the lease has expired since the last BUDGET_SET -/
  leaseExpired : Bool := false
  /-- 32; 03 R77; 30000. fallback budget, mW -/
  fallback : Nat := 30000
  /-- 64; 03 R77; 0. bucket B, in units of one mW for one keeper cycle: 1,280,000 of them are 1 µJ -/
  bucket : Int := 0
  /-- 3; 03 R79; DESIGN CHOICE 0 (log entry 4). plane-shedding level S -/
  shed : Nat := 0
  /-- 3; 03 R83; 1. S_MAX -/
  shedMax : Nat := 1
  /-- 2; 03 R78; NORMAL. thermal level -/
  thermal : Thermal := .normal
  /-- 16; 03 R83; DESIGN CHOICE 0 (log entry 4). MAX_TJ -/
  maxTj : BitVec 16 := 0
  /-- 32; 03 R83; 0. LAST_UJ -/
  lastUJ : Nat := 0
  /-- 64; 03 R76; 0. counter at the start of the window that runs -/
  windowAt : Nat := 0
  /-- 64; 03 R79; 0. power, summed in units of 1/720,720 mW, of the launches completed in the window that runs -/
  completedMw : Nat := 0
  /-- 64; 03 R76; 0. number of the time-line millisecond in which the window that runs began -/
  windowMs : Int := 0
  /-- list; 03 R79; empty. slots (characteristic, entry) due in the window that runs whose launch is withheld -/
  denied : List (Nat × Nat) := []
  /-- 64; 03 R79; 0. allowance of the window that runs, in units of bucket B -/
  allowance : Int := 0
  /-- 1; 03 R79; 0. in the window that runs S is S_MAX and nothing is left to withhold -/
  tight : Bool := false
  /-- 5; 03 R79; 0. consecutive windows whose need at S-1 was within 15/16 of the allowance -/
  calm : Nat := 0
  /-- 5; 03 R79; 0. consecutive windows over the allowance at S_MAX with nothing left to withhold -/
  overRun : Nat := 0
  /-- 32; 03 R83; 0. WITHHELD_ELASTIC, saturating -/
  withheldElastic : Nat := 0
  /-- 32; 03 R83; 0. WITHHELD_BACKGROUND, saturating -/
  withheldBackground : Nat := 0
  /-- 16 powers an entry; 03 R63; empty. power in mW measured over an entry's last 16 launches, newest first, keyed by
  characteristic and entry -/
  powers : List ((Nat × Nat) × List Nat) := []
  deriving DecidableEq, Repr

/-- Sensor states of R110. -/
inductive SensorState where
  | absent | active | masked
  deriving DecidableEq, Repr

/-- The clock model of R107 and R108. -/
structure ClockModel where
  /-- 64; 04 R107; 0. OFFSET, 2^-16 ns, signed 64 bits -/
  offset : Int := 0
  /-- 32; 04 R107; 0. RATE, 2^-40 -/
  rate : Int := 0
  /-- 64; 04 R108; 0. s_ref, 2^-16 ns -/
  sRef : Int := 0
  /-- list; 04 R108; empty. pairs (s, h) of the window, oldest first -/
  window : List (Int × Int) := []
  /-- 32; 04 R108; 0. n -/
  n : Nat := 0
  /-- 8; 04 R108; 0. misfit count -/
  misfit : Nat := 0
  deriving DecidableEq, Repr

/-- A camera frame in progress (R96). -/
structure Frame where
  unit : Inst
  buf : Nat
  noStrobe : Bool
  bytes : Nat := 0
  lines : Nat := 0
  dt : Option (BitVec 6) := none
  crcErr : Bool := false
  trunc : Bool := false
  /-- a write faulted: the frame's writes have ended (R338) -/
  stopped : Bool := false
  /-- region table with which the frame began (R339) -/
  regions : List (Nat × Word × Word × Word) := []
  deriving DecidableEq, Repr

/-- One light-list entry (R93, R105 to R113). -/
structure Entry where
  /-- 6×64; 04 R105; MISS 3, MISFIT 3, WINDOW 16, the others DESIGN CHOICE 0, ENABLE clear (log entry 4). entry words w0 to w5 -/
  w : Vector Word 6 := #v[0, 0x03031000, 0, 0, 0, 0]
  /-- 2; 04 R110 R113; ABSENT. sensor state -/
  state : SensorState := .absent
  /-- 3; 04 R110; 0. mask cause -/
  cause : Nat := 0
  /-- model; 04 R107 R108; cleared. clock model -/
  model : ClockModel := {}
  /-- 16; 04 R93; 0. SEQ of the next unit -/
  seq : BitVec 16 := 0
  /-- 32; 04 R113; 0. UNITS, saturating -/
  units : Nat := 0
  /-- 32; 04 R113; 0. DISCARDED, saturating -/
  discarded : Nat := 0
  /-- 32; 04 R113; 0. MISFITS, saturating -/
  misfits : Nat := 0
  /-- 64; 04 R113; 0. last residual, 2^-16 ns -/
  lastR : Int := 0
  /-- 64; 04 R110; 0. counter at the last unit -/
  lastUnitAt : Nat := 0
  /-- 1; 04 R104; 0. DRDY_MISSED for the next unit -/
  drdyMissed : Bool := false
  /-- 7; 04 R110; 0. consecutive accepted pairs while MASKED with cause CLOCK -/
  goodRun : Nat := 0
  /-- 64; 04 R99; none. last raw 32-bit timestamp and the wraps counted, for US32 and TICK32 -/
  wrap : Option (Nat × Nat) := none
  /-- opt; 04 R96; none. camera frame in progress -/
  frame : Option Frame := none
  /-- 4; 04 R96; 0. next frame buffer of the ring -/
  nextBuf : Nat := 0
  deriving DecidableEq, Repr

/-- One template (R99). -/
structure Template where
  /-- 7×64; 04 R99; DESIGN CHOICE 0 (log entry 4). template words w0 to w6 -/
  w : Vector Word 7 := Vector.replicate 7 0
  /-- 128×16; 04 R99; DESIGN CHOICE 0 (log entry 4). copied fire-time table; empty means all 0 -/
  fire : List (BitVec 16) := []
  deriving DecidableEq, Repr

/-- A captured strobe edge (R87). -/
structure Edge where
  rising : Bool
  at_ : Inst
  deriving DecidableEq, Repr

/-- One Ethernet port (R97, R113, R114). -/
structure EthPort where
  /-- 48; 04 R113; DESIGN CHOICE 0 (log entry 4). MAC -/
  mac : BitVec 48 := 0
  /-- 32; 04 R113; DESIGN CHOICE 0 (log entry 4). IPV4_ADDR -/
  ipv4 : BitVec 32 := 0
  /-- 1; 04 R114; DESIGN CHOICE 0, down (log entry 4). USXGMII link -/
  up : Bool := false
  /-- 32; 04 R98; 0. datagrams discarded and counted, saturating -/
  discarded : Nat := 0
  deriving DecidableEq, Repr

/-- One CAN controller (R102, R103, R113). -/
structure CanPort where
  /-- 64; 04 R113; DESIGN CHOICE 0, not configured (log entry 4). w1: rates and sample points -/
  timing : Word := 0
  /-- 64; 04 R113; DESIGN CHOICE 0 (log entry 4). w2: SYNC period, bytes, IDE, ID -/
  sync : Word := 0
  /-- 64; 04 R113; DESIGN CHOICE 0 (log entry 4). SYNC_DATA -/
  syncData : Word := 0
  /-- 1; 04 R103; 0. a SYNC frame is queued -/
  queued : Bool := false
  /-- 64; 04 R103; 0. the multiple of SYNC_PERIOD_US last crossed, counted on the time line -/
  crossed : Int := 0
  /-- 1; 04 R102; 0. bus-off -/
  busOff : Bool := false
  /-- 32; 04 R102; 0. frames discarded and counted, saturating -/
  discarded : Nat := 0
  deriving DecidableEq, Repr

/-- Sensor ports and light list (ch. 04). -/
structure LightList where
  /-- 64 entries; 04 R105; as Entry. the light list -/
  entries : Vector Entry 64 := Vector.replicate 64 {}
  /-- 16 templates; 04 R99; as Template. templates -/
  templates : Vector Template 16 := Vector.replicate 16 {}
  /-- 16×16 edges; 04 R87 R482; empty. edges held on each STB input, oldest first -/
  stb : Vector (List Edge) 16 := Vector.replicate 16 []
  /-- 16; 04 R87; 0. edges dropped on each STB input -/
  stbDropped : Vector Nat 16 := Vector.replicate 16 0
  /-- 4; 04 R104; none. SPI read in progress on each port: entry, data-ready instant, and DRDY_MISSED of its unit -/
  spi : Vector (Option (Nat × Inst × Bool)) 4 := Vector.replicate 4 none
  /-- 12; 04 R95; 0. CSI packets discarded and counted, per port -/
  csiDiscarded : Vector Nat 12 := Vector.replicate 12 0
  /-- 4 ports; 04 R97 R113; as EthPort. Ethernet ports -/
  eth : Vector EthPort 4 := Vector.replicate 4 {}
  /-- 2 controllers; 04 R102 R113; as CanPort. CAN controllers -/
  can : Vector CanPort 2 := Vector.replicate 2 {}
  deriving DecidableEq, Repr

/-- One ring of an ingress queue (R119, R121). -/
structure Ring where
  /-- list; 05 R119 R121; empty. words held, oldest first, gap markers included -/
  words : List Word := []
  /-- 1; 05 R121; 0. the newest word is a gap marker that is still open -/
  gapOpen : Bool := false
  /-- list; 05 R125, 13 R332; empty. places, from the oldest word, that hold an uncorrectable error -/
  ue : List Nat := []
  deriving DecidableEq, Repr

/-- A word of a unit on its way into a queue (R120): its light-list entry, and whether its unit begins with it. -/
structure Arrival where
  entry : Nat
  first : Bool
  word : Word
  deriving DecidableEq, Repr

/-- One ingress queue (R118 to R129). -/
structure Queue where
  /-- 4; 05 R118; 0, disabled. depth code -/
  depthCode : Nat := 0
  /-- 1; 05 R118; 0, FIFO. MODE (true: PRIORITY) -/
  priority : Bool := false
  /-- 1; 05 R118; 0. XOFF_EN -/
  xoffEn : Bool := false
  /-- 3; 05 R118; 0. XOFF_PIN -/
  xoffPin : Nat := 0
  /-- 32; 05 R118; 0. HIGH (depth - 1 from IQ_SET_POOL on) -/
  high : Nat := 0
  /-- 32; 05 R118; 0. LOW -/
  low : Nat := 0
  /-- 128; 05 R118; 0. LEVEL_MAP, words w2 and w3 -/
  levels : Word × Word := (0, 0)
  /-- 4 rings; 05 R119; empty. the rings; FIFO mode uses ring 0 -/
  rings : Vector Ring 4 := Vector.replicate 4 {}
  /-- 1; 05 R124 R127; 0. DROP_ARMED -/
  armed : Bool := false
  /-- 1; 05 R126; 0. the watermark flag, IQ_STATUS.XOFF -/
  flag : Bool := false
  /-- 32; 05 R127; 0. IQ_WORD_LO -/
  wordLo : Reg := 0
  /-- 32; 05 R127; 0. IQ_WORD_HI -/
  wordHi : Reg := 0
  /-- 32; 05 R127; 0. IQ_DISCARDED, saturating, cleared by a read -/
  discarded : Nat := 0
  /-- 32; 05 R129; 0. DROPPED, saturating -/
  dropped : Nat := 0
  /-- 32; 05 R129; 0. GAPS, saturating -/
  gaps : Nat := 0
  /-- 32; 05 R129; 0. INTEGRITY, saturating -/
  integrity : Nat := 0
  /-- 17; 05 R129; 0. PEAK -/
  peak : Nat := 0
  /-- 32; 05 R129; 0. XOFF_COUNT, saturating -/
  xoffCount : Nat := 0
  /-- 32; 05 R129 R130; 0. words dropped since the last QUEUE_FULL -/
  fullDropped : Nat := 0
  /-- 1; 05 R125; 0. the duplicate pointers of a ring differ -/
  ptrMismatch : Bool := false
  /-- list; 05 R120; empty. words of units that wait for their array cycle, oldest first -/
  coming : List Arrival := []
  /-- 1; 05 R122; 0. a word of the unit being written has been dropped -/
  dropping : Bool := false
  /-- 62; 05 R120 R125; 0. array cycles from which the queue accepts its next write and serves the next read of a list -/
  wroteTo : Nat := 0
  readTo : Nat := 0
  deriving DecidableEq, Repr

/-- A sequencer's state set for one class (R145). -/
structure TileSet where
  m : Nat := 0
  n : Nat := 0
  k : Nat := 0
  sa : Nat := 0
  sb : Nat := 0
  gsA : Nat := 0
  gsB : Nat := 0
  gsC : Nat := 0
  bpX : Nat := 0
  bpY : Nat := 0
  bpZ : Nat := 0
  /-- a SET_SHAPE of the launch set a value above 65,536 (R161.4) -/
  badShape : Bool := false
  deriving DecidableEq, Repr

/-- One tile group and its sequencer (ch. 06). -/
structure Group where
  /-- 1; 03 R81, 06 R158; 1. gated -/
  gated : Bool := true
  /-- 32; 06 R158; 0. TT_SAT, saturating, cleared by a read -/
  sat : Nat := 0
  /-- 32; 06 R158; 0. TT_NAN, saturating, cleared by a read -/
  nan : Nat := 0
  /-- 4 sets; 06 R137 R145; DESIGN CHOICE 0 (log entry 4). state set of each class -/
  sets : Vector TileSet 4 := Vector.replicate 4 {}
  deriving DecidableEq, Repr

/-- Tensor tiles (ch. 06). -/
structure Tiles where
  /-- 16 groups; 06 R135; as Group. tile groups -/
  groups : Vector Group 16 := Vector.replicate 16 {}
  /-- 64×32; 06 R150; 1 + position. stochastic-rounding generator of each position -/
  gen : Vector (BitVec 32) 64 := Vector.ofFn fun i => BitVec.ofNat 32 (i.val + 1)
  /-- 64; 06 R159; 0. counter at the last known-answer test of each position, or at its last KAT_STARVED entry -/
  katAt : Vector Nat 64 := Vector.replicate 64 0
  /-- position; MODEL's own (log entry 87); none. position whose accesses a command makes; none between commands -/
  at_ : Option Nat := none
  deriving DecidableEq, Repr

/-- An owner table (R175, R181). -/
structure Owner where
  shift : Nat
  base : Nat
  entries : List Word
  deriving DecidableEq, Repr

/-- A TENSOR access of this device's layout engine that is outstanding (R176, R381). -/
structure Remote where
  id : Nat
  /-- counter when it was sent -/
  since : Nat
  write : Bool
  /-- number of the cell within the unit of work -/
  cell : Nat
  /-- chain port that it went out of -/
  port : Nat
  deriving DecidableEq, Repr

/-- A MOVE that waits for other devices of the chain (R174, R176, R178). -/
structure MoveRun where
  launch : Nat
  /-- address of the descriptor, and its words -/
  va : Nat
  desc : List Word
  /-- unit of work in progress, and the bytes read so far by its cells -/
  unit : Nat
  got : List (Nat × List Byte)
  /-- the devices that the unit writes have been asked whether they take its writes, and the writes have been sent (R174) -/
  asked : Bool
  writing : Bool
  /-- the destination has met the source or the index tensor (R182.4) -/
  undef : Bool := false
  /-- places that cells of the units before have written and read: a device (0 this one, else its position and 1) and an
  address there (R182) -/
  dsts : List (Nat × Nat) := []
  srcs : List (Nat × Nat) := []
  /-- region table that the MOVE uses: it began before any later change (R339) -/
  regions : List (Nat × Word × Word × Word)
  deriving DecidableEq, Repr

/-- Layout engine (ch. 07). -/
structure Layout where
  /-- 1; 07 R179; 0. XE_ERR.ALIGN -/
  errAlign : Bool := false
  /-- 1; 07 R179; 0. XE_ERR.ZSTRIDE -/
  errZstride : Bool := false
  /-- 48; 07 R179; 0. XE_ERR_VA -/
  errVa : Nat := 0
  /-- 32; 07 R179; 0. XE_OOB_READ, saturating, cleared by a read -/
  oobRead : Nat := 0
  /-- 32; 07 R179; 0. XE_OOB_WRITE, saturating, cleared by a read -/
  oobWrite : Nat := 0
  /-- 32; 07 R181; 0. OOB_READS since reset, saturating -/
  oobReadTotal : Nat := 0
  /-- 32; 07 R181; 0. OOB_WRITES since reset, saturating -/
  oobWriteTotal : Nat := 0
  /-- 32; 07 R181; 0. ALIGN_ERRORS, saturating -/
  alignFails : Nat := 0
  /-- 32; 07 R181; 0. ZSTRIDE_ERRORS, saturating -/
  zstrideFails : Nat := 0
  /-- 32; 07 R181; 0. REMOTE_FAULTS, saturating -/
  remoteFaults : Nat := 0
  /-- 2; 07 R179; 0. MODE of the MOVE in progress -/
  mode : Nat := 0
  /-- 16 tables; 07 R175 R181; empty. owner tables -/
  owners : Vector (Option Owner) 16 := Vector.replicate 16 none
  /-- opt; 07 R174 R178; none. MOVE in progress -/
  move : Option MoveRun := none
  /-- list; 07 R176; empty. outstanding TENSOR accesses -/
  remote : List Remote := []
  /-- 64; 07 R176; 0. next TENSOR access number -/
  nextId : Nat := 0
  deriving DecidableEq, Repr

/-- An ego state (R216), as its 10 words. -/
structure EgoState where
  w : Vector Word 10 := Vector.replicate 10 0
  deriving DecidableEq, Repr

/-- A pose in FP32 (R188): position (mm) and quaternion (w, x, y, z), each as binary32 bits. -/
structure Pose where
  p : List (BitVec 32)
  q : List (BitVec 32)
  deriving DecidableEq, Repr

/-- An area of memory that the point-cloud engine owns (R212.4): for a feature tensor or a map the address and the distance of its
rows, and the byte runs. -/
structure Area where
  feat : Option (Nat × Nat) := none
  runs : List (Nat × Nat)
  deriving DecidableEq, Repr

/-- A rule-book slot (R199, R200). -/
structure Book where
  /-- COUNT and START of each offset -/
  count : List Nat := []
  start : List Nat := []
  kind : Nat := 0
  ks : Nat := 0
  level : Nat := 0
  /-- BOOK_VA from which the rules are read -/
  rulesVa : Nat := 0
  inVa : Nat := 0
  inLd : Nat := 0
  outVa : Nat := 0
  outLd : Nat := 0
  /-- the slot whose rules this one reuses -/
  src : Option Nat := none
  /-- rule book (but where it is another slot's), fragment, input features, output features or map of the slot's RULES (R212.4) -/
  areas : List Area := []
  /-- the output features or map are undefined (R212.4) -/
  openOut : Bool := false
  deriving DecidableEq, Repr

/-- Point-cloud engine: frame context and book slots (ch. 08). -/
structure Cloud where
  /-- 1; 08 R184 R211; 0. FRAME_OPEN -/
  isOpen : Bool := false
  /-- 128; 08 R187; DESIGN CHOICE 0 (log entry 4). frame reference time -/
  ref : Inst := {}
  /-- opt; 08 R187 R188; none. reference pose; none with NO_EGO_REF -/
  pose : Option Pose := none
  /-- words; 08 R186; DESIGN CHOICE 0 (log entry 4). FRAME_BEGIN of the frame -/
  cmd : List Word := []
  /-- 19; 08 R211; 0. VX_SITES -/
  sites : Nat := 0
  /-- 22; 08 R211; 0. VX_POINTS -/
  points : Nat := 0
  /-- 1; 08 R207; 0. TRUNCATED -/
  truncated : Bool := false
  /-- 1; 08 R207; 0. NO_EGO_REF -/
  noEgoRef : Bool := false
  /-- 1; 08 R207; 0. QUEUE_LOST -/
  queueLost : Bool := false
  /-- 1; 08 R207; 0. BOOK_TRUNCATED -/
  bookTruncated : Bool := false
  /-- 32; 08 R207; 0. OUT_OF_BOX, saturating -/
  outOfBox : Nat := 0
  /-- 32; 08 R207; 0. CELLS_DROPPED, saturating -/
  cellsDropped : Nat := 0
  /-- 32; 08 R207; 0. NOT_STORED, saturating -/
  notStored : Nat := 0
  /-- 32; 08 R207; 0. EGO_MISS, saturating -/
  egoMiss : Nat := 0
  /-- 32; 08 R207; 0. EPOCH_MISS, saturating -/
  epochMiss : Nat := 0
  /-- 64; 08 R207; 0. OVERFLOW -/
  overflow : BitVec 64 := 0
  /-- 64; 08 R207; 0. GAPPED -/
  gapped : BitVec 64 := 0
  /-- 32; 08 R207; 0. FOREIGN_UNITS, saturating -/
  foreign_ : Nat := 0
  /-- 16; 08 R207; 0. TRUNC_SECTORS -/
  truncSectors : BitVec 16 := 0
  /-- opt 48; 09 R237; none. RECORD_VA of the frame record written since the last FRAME_BEGIN -/
  recordAt : Option Nat := none
  /-- 3×1; 08 R212; 0. the hash, the point store and the record of the frame are undefined -/
  undefHash : Bool := false
  undefPoints : Bool := false
  undefRecord : Bool := false
  /-- list; 08 R212; empty. launches whose commands have used the open frame, the newest first -/
  users : List Nat := []
  /-- 1; 08 R212; 0. commands of two launches have been interleaved in the frame -/
  mixed : Bool := false
  /-- opt; 08 R190; none. N0 of a DESKEW that waits for words: its launch, its address and N0 -/
  noted : Option (Nat × Nat × Nat) := none
  /-- list; 08 R212; empty. tile launches, and the slots that RULES has changed while they ran -/
  stale : List (Nat × Nat) := []
  /-- 64 slots; 08 R200; empty. book slots -/
  books : Vector Book 64 := Vector.replicate 64 {}
  deriving DecidableEq, Repr

/-- Ego estimator (R213 to R220, R242). -/
structure Ego where
  /-- 1; 09 R217; 0. an EGO_SET has completed since reset -/
  configured : Bool := false
  /-- 8×64; 09 R242; the defaults of R242, DESIGN CHOICE 0 where it gives none (log entry 4). EGO_SET words w0 to w7 -/
  cfg : Vector Word 8 := #v[0, 0, 0, 0, 0, 0x46193A9A, 0x00140000, 0]
  /-- 1; 09 R217; 0. an EGO_SET has completed and no EGO launch has begun since -/
  fresh : Bool := false
  /-- 1; 09 R217 R240; 0. aligning -/
  aligning : Bool := false
  /-- 7; 09 R217; 0. inertial samples consumed while aligning -/
  alignCount : Nat := 0
  /-- 1; 09 R218 R240; 0. EGO_LOST -/
  lost : Bool := false
  /-- 8; 09 R218; 0. consecutive coasting launches -/
  coast : Nat := 0
  /-- 16; 09 R214; 0. ODO_SHIFTS -/
  odoShifts : BitVec 16 := 0
  /-- 256 states; 09 R218; empty. ego history, newest first -/
  hist : List EgoState := []
  /-- 139×32; 09 R215 R217; DESIGN CHOICE 0 (log entry 9). the filter's estimate, raw FX32: PX to WZ, gyroscope bias,
  accelerometer bias, and the upper triangle of the 15 × 15 covariance row by row -/
  est : Vector (BitVec 32) 139 := Vector.replicate 139 0
  /-- 128; 09 R215; DESIGN CHOICE 0 (log entry 9). the time at which the estimate is valid -/
  estAt : Inst := {}
  /-- 6×32; 09 R216; none. the newest inertial sample in body axes, FP32: gyroscope, accelerometer -/
  sample : List (BitVec 32) := []
  /-- 99×96; 09 R217; empty. accelerometer vectors of the alignment so far, newest first -/
  alignAcc : List (List (BitVec 32)) := []
  /-- 32; 09 R215; 0. units discarded and counted, saturating -/
  discarded : Nat := 0
  /-- 10; 09 R242; 0. states since the last EGO_STATE -/
  decim : Nat := 0
  deriving DecidableEq, Repr

/-- A pair of entries (R235). -/
structure PairRec where
  /-- 8; 09 R235; 0. fail count -/
  fails : Nat := 0
  /-- 8; 09 R235; 0. pass count -/
  passes : Nat := 0
  /-- 1; 09 R235; 0. the pair down-weights A -/
  dwA : Bool := false
  /-- 1; 09 R235; 0. the pair down-weights B -/
  dwB : Bool := false
  deriving DecidableEq, Repr

/-- Buoy table bookkeeping (R221 to R243). -/
structure Buoys where
  /-- 1; 09 R240; 0. CONFIGURED -/
  configured : Bool := false
  /-- 9×64; 09 R242; the defaults of R242 to nearest, DESIGN CHOICE 0 where it gives none (log entry 4). BT_SET words
  w0 to w8 -/
  cfg : Vector Word 9 := #v[0x0, 0x350A051440804020, 0x935C30006A148, 0xD47AE000B570A, 0x10CF5C000F170A, 0x30000003D0900, 0x400000000C350, 0x0, 0x0]
  /-- 32; 09 R232 R240; 1. NEXT_ID -/
  nextId : Nat := 1
  /-- 1; 09 R232; 0. the ID counter has wrapped -/
  wrapped : Bool := false
  /-- 13; 09 R240; 0. LIVE -/
  live : Nat := 0
  /-- 64×32; 09 R234; DESIGN CHOICE 1.0 = 65536 (log entry 4). E of each entry, FX32 with binary point 16 -/
  e : Vector Int 64 := Vector.replicate 64 65536
  /-- 64×16; 09 R234; 0. COUNT of each entry -/
  count : Vector Nat 64 := Vector.replicate 64 0
  /-- list; 09 R235; empty. what each pair (A, B) with A < B has met; an absent pair has met nothing -/
  pairs : List ((Nat × Nat) × PairRec) := []
  /-- 16×8; 09 R236; 255. bt_cap of each sector -/
  cap : Vector Nat 16 := Vector.replicate 16 255
  /-- 3×int; 09 R214; 0. recentring shifts that the next TRACK applies, mm -/
  shift : List Int := [0, 0, 0]
  /-- 32; 09 R225; 0. EPOCH_SKIPS, saturating -/
  epochSkips : Nat := 0
  /-- 3×32; 09 R230; 0. LIFT_COVARIANCE, LIFT_UNCONFIRMED, LIFT_COAST, saturating -/
  lifts : List Nat := [0, 0, 0]
  deriving DecidableEq, Repr

/-- The assembly stage's evaluation (R269, R270). -/
structure Asm where
  /-- 256×32; 10 R269 R270; 0. scratch registers, raw FX32 -/
  s : Vector (BitVec 32) 256 := Vector.replicate 256 0
  /-- 64×32; 10 R270; 0. the iterate or ego state x, raw FX32 -/
  x : List (BitVec 32) := []
  /-- list; 10 R270; DESIGN CHOICE empty (log entry 4). binary point of each element of x -/
  bpX : List Nat := []
  /-- 64×64×32; 10 R270; 0. elements of A or J written: row, column, raw FX32 -/
  a : List ((Nat × Nat) × BitVec 32) := []
  /-- 64×32; 10 R270; 0. elements of B or the residual written -/
  b : List (Nat × BitVec 32) := []
  /-- 5; 10 R268; 0. BP_S -/
  bpS : Nat := 0
  /-- 5; 10 R268; 0. BP_IN -/
  bpIn : Nat := 0
  /-- 5; 10 R251; 0. BP_A -/
  bpA : Nat := 0
  /-- 5; 10 R251; 0. BP_B -/
  bpB : Nat := 0
  /-- 48; 10 R251; 0. ARG_VA -/
  argVa : Nat := 0
  /-- bytes; 10 R270; none. input bytes of an ego evaluation: the data bytes of the CAN_FRAME unit -/
  input : Option (List Byte) := none
  /-- 7; 10 R251 R275; 0. rows of A or J that the problem has -/
  rows : Nat := 0
  /-- 7; 10 R251 R275; 0. columns of A or J that the problem has -/
  cols : Nat := 0
  /-- 1; 10 R269; 0. the evaluation has ended -/
  ended : Bool := false
  /-- 1; 10 R265; 0. an input access faulted -/
  fault : Bool := false
  /-- 32; 10 R255; 0. saturations of this evaluation -/
  sat : Nat := 0
  /-- 1; 10 R275; 0. a step was undefined (R275.2) -/
  undef : Bool := false
  deriving DecidableEq, Repr

/-- Batched solver (ch. 10). -/
structure Solver where
  /-- 32; 10 R272; 0. SV_SAT, saturating, cleared by a read -/
  sat : Nat := 0
  /-- 32; 10 R272; 0. SV_PIVOT, saturating, cleared by a read -/
  pivot : Nat := 0
  /-- 32; 10 R272; 0. SV_NAR, saturating, cleared by a read -/
  nar : Nat := 0
  /-- 32; 10 R272; 0. SV_WARM, saturating, cleared by a read -/
  warm : Nat := 0
  /-- 32; 10 R274; 0. PROBLEMS, saturating -/
  problems : Nat := 0
  /-- 32; 10 R274; 0. DEADLINE_MISSED, saturating -/
  missed : Nat := 0
  /-- 32; 10 R274; 0. REGULARISED, saturating -/
  regularised : Nat := 0
  /-- 32; 10 R274; 0. NUMERIC, saturating -/
  numeric : Nat := 0
  /-- 32; 10 R274; 0. WARM_MISMATCH, saturating -/
  warmTotal : Nat := 0
  /-- 32; 10 R274; 0. SATURATIONS, saturating -/
  satTotal : Nat := 0
  /-- 1; 10 R274; 1. TRACK_REG_EN -/
  trackReg : Bool := true
  /-- 1; 10 R274; 1. EGO_REG_EN -/
  egoReg : Bool := true
  /-- 32; 10 R274; 0x10. TRACK_EPS -/
  trackEps : Nat := 16
  /-- 32; 10 R274; 0x4000. TRACK_LAMBDA -/
  trackLambda : Nat := 16384
  /-- 32; 10 R274; 0x10. EGO_EPS -/
  egoEps : Nat := 16
  /-- 32; 10 R274; 0x4000. EGO_LAMBDA -/
  egoLambda : Nat := 16384
  /-- 17×64; 10 R266, 06 R159; 0. counter at the last known-answer test of each lane -/
  katAt : Vector Nat 17 := Vector.replicate 17 0
  /-- evaluation; 10 R270; 0. the assembly evaluation in progress -/
  asm : Asm := {}
  deriving DecidableEq, Repr

/-- Refinement settings and counts of one entry (R276, R287). -/
structure Refine where
  /-- 64; 11 R287; GAIN_SHIFT 2, otherwise 0. CL_ENABLE w0: GAIN_SHIFT, PROP_BP, REFINE -/
  w0 : Word := 0x20000000000
  /-- 12×32; 11 R287; 0. limits: STEP and TOTAL of each group -/
  limits : List (Nat × Nat) := []
  /-- 32; 11 R287; 0. COMMITS, saturating -/
  commits : Nat := 0
  /-- 32; 11 R287; 0. CLIPPED, saturating -/
  clipped : Nat := 0
  /-- 32; 11 R287; 0. DISCARDED, saturating -/
  discarded : Nat := 0
  /-- 32; 11 R287; 0. LIMIT_HITS, saturating -/
  limitHits : Nat := 0
  /-- 320 bytes; 11 R277 R288; empty. header and banks 0 and 1 of the record as the keeper left them: a record that differs has
  been written by another agent (R288.1) -/
  kept : List Byte := []
  /-- 48; 11 R277 R288; 0. address of the record that these bytes are of -/
  keptAt : Nat := 0
  deriving DecidableEq, Repr

/-- A leading-light pair (R283, R284). -/
structure Check where
  a : Nat
  b : Nat
  bp : Nat
  /-- 8; 11 R283; 0. fail count -/
  fails : Nat := 0
  /-- 8; 11 R283; 0. pass count -/
  passes : Nat := 0
  /-- 1; 11 R284; 0. failing state -/
  failing : Bool := false
  /-- 1; 11 R284; 0. the pair holds commits and caps sectors -/
  holds : Bool := false
  deriving DecidableEq, Repr

/-- Online calibration refinement (ch. 11). -/
structure Calib where
  /-- 64 entries; 11 R287; as Refine. refinement of each entry -/
  refine : Vector Refine 64 := Vector.replicate 64 {}
  /-- list; 11 R279 R287; empty. entries whose CL_RESTORE waits, in arrival order -/
  restores : List Nat := []
  /-- 32 pairs; 11 R283; empty. check pairs -/
  checks : List Check := []
  /-- 48; 11 R287; 0. CHECK_VA -/
  checkVa : Nat := 0
  /-- 8; 11 R287; 96. LL_CAP -/
  llCap : Nat := 96
  /-- 8; 11 R287; 5. FAIL_N -/
  failN : Nat := 5
  /-- 8; 11 R287; 10. PASS_N -/
  passN : Nat := 10
  /-- 16×8; 11 R285; 255. cal_cap of each sector -/
  cap : Vector Nat 16 := Vector.replicate 16 255
  /-- 1; 11 R279; 0. a quiet point has come about and is not yet served -/
  quiet : Bool := false
  deriving DecidableEq, Repr

/-- The cache shape (R289, R320). -/
structure KvModel where
  layers : Nat
  kvHeads : Nat
  qHeads : Nat
  headDim : Nat
  scaleVa : Nat
  nearVa : Nat
  nearBytes : Nat
  farVa : Nat
  farBytes : Nat
  deriving DecidableEq, Repr

/-- A page descriptor in use (R293). -/
structure PageDesc where
  pinned : Bool
  near : Bool
  sizeLog : Nat
  fmt : Nat
  va : Nat
  refs : Nat
  /-- bytes; 12 R322; none. the page as the keeper and the unit left it: a page that differs has been written by another agent,
  and a page without it is undefined (R322.4) -/
  kept : Option (List Byte) := none
  deriving DecidableEq, Repr

/-- A live sequence (R295). -/
structure KvSeq where
  mover : Bool
  fmt : Nat
  logMin : Nat
  logMax : Nat
  window : Nat
  globals : List Nat
  length : Nat
  /-- descriptor indices; the list of a MOVER sequence lies at listVa in device memory as well -/
  list : List Nat
  cap : Nat
  listVa : Nat
  /-- 32; 12 R320; 0. SEQ_FULL, saturating -/
  full : Nat
  deriving DecidableEq, Repr

/-- Attention unit and key-value cache (ch. 12). -/
structure Kv where
  /-- opt; 12 R289; none. model shape -/
  model : Option KvModel := none
  /-- 131072 descriptors; 12 R293; all free. page table: descriptors in use, by index rising -/
  pages : List (Nat × PageDesc) := []
  /-- 4096 sequences; 12 R295; none live. live sequences, by number rising -/
  seqs : List (Nat × KvSeq) := []
  /-- 32; 12 R318; 0. KV_COPIES, saturating, cleared by a read -/
  copies : Nat := 0
  /-- 32; 12 R318; 0. KV_NOPAGE, saturating, cleared by a read -/
  nopage : Nat := 0
  /-- 32; 12 R320; 0. COPIES since reset, saturating -/
  copiesTotal : Nat := 0
  /-- 32; 12 R320; 0. NOPAGE since reset, saturating -/
  nopageTotal : Nat := 0
  deriving DecidableEq, Repr

/-- A memory row that scrub counts passes for (R330, R431, R480, R481, R483). -/
inductive MemRow where
  | near (bank tier row : Nat)
  | lpddr (chan bank row : Nat)
  | keeper (row : Nat)
  deriving DecidableEq, Repr

/-- A place that a launch has used: device address, bytes, and the launch (R161, R182, R346). -/
abbrev Use := Nat × Nat × Nat

/-- Memory, region table, ECC and BAR2 (ch. 13). -/
structure Mem where
  /-- 48-bit address space; 13 R323, 16 R390; 0 everywhere (R390). bytes of LPDDR5X and near SRAM by device address, in
  canonical form: addresses rising, no byte equal to 0 listed -/
  cells : List Host.Cell := []
  /-- 1024×3×64; 13 R334 R345; 0. region table; only entries that were stored are listed, by index rising -/
  regions : List (Nat × Word × Word × Word) := []
  /-- 16; 16 R423; 0. installed packages that a write through another region has reached -/
  spoilt : BitVec 16 := 0
  /-- 1; MODEL's own (log entry 99); 0 between two steps. an agent other than a launch uses memory -/
  outside : Bool := false
  /-- launch; MODEL's own (log entry 70); none between two steps. the launch whose command uses memory -/
  who : Option Nat := none
  /-- list; MODEL's own (log entry 70); empty. places that launches have written -/
  wrote : List Use := []
  /-- list; MODEL's own (log entry 70); empty. places that launches have read -/
  reads : List Use := []
  /-- list; 13 R346, 07 R182; empty. places that BAR2 or another device has written while a launch ran, once for each such
  launch -/
  crossed : List Use := []
  /-- list; 13 R346, 07 R182; empty. launches whose outputs are undefined -/
  tainted : List Nat := []
  /-- 48; 13 R340; 0. BAR2_VA -/
  bar2Va : Nat := 0
  /-- 32; 13 R343; 0. MM_ECC_CE, saturating, cleared by a read -/
  ce : Nat := 0
  /-- 32; 13 R343; 0. MM_ECC_UE, saturating, cleared by a read -/
  ue : Nat := 0
  /-- 32; 13 R345; 0. CE since reset, not cleared by reads -/
  ceTotal : Nat := 0
  /-- 32; 13 R345; 0. UE since reset, not cleared by reads -/
  ueTotal : Nat := 0
  /-- 48; 13 R343; 0. device address latched in MM_UE_DA_LO and MM_UE_DA_HI -/
  ueDa : Nat := 0
  /-- 1; 13 R343; 0. SCRUB bit of MM_UE_DA_HI -/
  ueScrub : Bool := false
  /-- 32; 13 R345; 0. BAR2_FAULTS, saturating -/
  bar2Faults : Nat := 0
  /-- 32; 13 R345; 0. ROWS_REPAIRED, saturating -/
  rowsRepaired : Nat := 0
  /-- 64; 13 R329 R345; DESIGN CHOICE 0, awake (log entry 4). CHANNELS_ASLEEP -/
  asleep : BitVec 64 := 0
  /-- 64; 13 R329; 0. counter at the last access of BAR2 or a launch to LPDDR5X -/
  lastLpddr : Nat := 0
  /-- list; 13 R332 R333; empty. device addresses of 8-byte words that hold an uncorrectable error -/
  ueWords : List Nat := []
  /-- list; 13 R332 R333; empty. device addresses of 8-byte words that hold a correctable error -/
  ceWords : List Nat := []
  /-- list; 13 R330, 17 R431 R483; empty. scrub passes that found a correctable error in a row: row, passes, number of
  the last such pass -/
  passes : List (MemRow × Nat × Nat) := []
  /-- 1; 17 R436; 1. LPDDR5X is reachable -/
  reachable : Bool := true
  deriving DecidableEq, Repr

/-- Device states of R366. -/
inductive DevState where
  | dark | optionLoad | keeperBoot | standby | armed | running | fog | faultHalt
  deriving DecidableEq, Repr

/-- A Criser command as the V7F copied it (R354, R359). -/
structure Cmd where
  opcode : Nat
  kind : Nat
  /-- LENGTH as received -/
  len : Nat
  seq : BitVec 16
  tag : BitVec 16
  /-- the words copied, at most 255 -/
  words : List Word
  /-- acceptance order over all channels (R363) -/
  order : Nat
  /-- `aon` when the RING write arrived, which goes on where the counter stands (R356) -/
  ringAt : Nat
  /-- counter when the command was accepted -/
  acceptedAt : Nat
  deriving DecidableEq, Repr

/-- A notification to be generated: subject, opcode, payload (R355). -/
structure Note where
  opcode : Nat
  words : List Word
  deriving DecidableEq, Repr

/-- What a command waits for from the chain: a member's completion, none where the member is lost (R379), or the members that
answer an enumeration (R378). -/
inductive ChainJob where
  | forward (reply : Option (List Word))
  | enumerate (ms : List MemberInfo)
  deriving DecidableEq, Repr

/-- What a completion waits for: room in the ring (R360), the launches in flight (R367), a retrain (R386), an instant of
the counter (R368), the security engine until an instant of the counter (R414, R415), what the downstream port brings once its
training has ended (R377 to R379), or the end of the commands in progress (launch, unit, address) and of the camera frames in
progress (entry, SEQ) (R339). -/
inductive Wait where
  | room | launches (ids : List Nat) | retrain (port : Nat)
  | agents (held : List (Nat × Nat × Nat)) (frames : List (Nat × BitVec 16))
  | counter (at_ : Nat) | engine (due : Nat) | chain (job : ChainJob)
  deriving DecidableEq, Repr

/-- A command that has begun and whose completion is not yet written. -/
structure Await where
  cmd : Cmd
  /-- `aon` when the command began (R356) -/
  begunAt : Nat
  status : BitVec 8
  arg : BitVec 16
  resp : List Word
  wait : Wait
  /-- the command counts in PENDING (a BUSY command does not, R359) -/
  counted : Bool
  deriving DecidableEq, Repr

/-- One Criser channel (R352 to R364). -/
structure Channel where
  /-- 256×64; 14 R353 R359; 0. inbound buffer -/
  inBuf : Vector Word 256 := Vector.replicate 256 0
  /-- 256×64; 14 R353 R352; 0. outbound ring -/
  ring : Vector Word 256 := Vector.replicate 256 0
  /-- 9; 14 R352; 0. OUT_WR -/
  outWr : Nat := 0
  /-- 9; 14 R352; 0. OUT_RD -/
  outRd : Nat := 0
  /-- 1; 14 R372; 0. OUT_RD was set to a value not reached by stepping forward to OUT_WR -/
  strayRd : Bool := false
  /-- 1; 14 R352; 0. IN_BUSY -/
  inBusy : Bool := false
  /-- 1; 14 R352; 0. IN_WRITE_LOST -/
  inWriteLost : Bool := false
  /-- 1; 14 R352; 0. RING_LOST -/
  ringLost : Bool := false
  /-- 8; 14 R352; 0. NOTE_DROPPED, saturating at 255, cleared by a read -/
  noteDropped : Nat := 0
  /-- 16; 14 R358; 0. notification counter -/
  noteCtr : BitVec 16 := 0
  /-- 16 commands; 14 R359; empty. accepted commands not yet begun, oldest first -/
  queue : List Cmd := []
  /-- opt; 14 R360; none. command that has begun and waits for its completion -/
  await : Option Await := none
  /-- list; 14 R359 R360 R364; empty. BUSY and TIMEOUT completions that wait for room, oldest first -/
  outbox : List Await := []
  /-- opt 64; 14 R359; none. a RING held before the mailboxes open, with `aon` at its arrival -/
  held : Option Nat := none
  /-- 16; 14 R364; 1000. WAIT_MS -/
  waitMs : Nat := 1000
  deriving DecidableEq, Repr

/-- The Criser protocol (ch. 14). -/
structure Criser where
  /-- 32 channels and the chain channel of R379; 14 R353, 15 R379; as Channel. the channels -/
  ch : Vector Channel 33 := Vector.replicate 33 {}
  /-- 13×6; 14 R362 R369; channel 0, PRESUMED enabled (log entry 4). channel and ENABLE of each subject -/
  subj : Vector (Nat × Bool) 13 := Vector.replicate 13 (0, true)
  /-- 64; 14 R363; 0. next acceptance order -/
  order : Nat := 0
  /-- list; 14 R369; 0. times (counter) of rate-limited events sent in the last second, by notification opcode × 256 +
  event, and object -/
  rate : List (Nat × Nat × List Nat) := []
  /-- opt; 14 R365; none. notifications of the command being applied, held until its completion -/
  hold : Option (List Note) := none
  /-- list; 14 R365; empty. notifications that wait, in the order of their events: those that a command caused whose
  completion is not yet written, with its acceptance number, and later ones of their subjects -/
  later : List (Option Nat × Note) := []
  deriving DecidableEq, Repr

/-- Device state and its bookkeeping (R366, R367, R369). -/
structure Dev where
  /-- 4; 14 R352 R366; DARK. STATE -/
  state : DevState := .dark
  /-- 4; 14 R369; DESIGN CHOICE DARK (log entry 4). FROM -/
  from_ : DevState := .dark
  /-- 128; 14 R369; DESIGN CHOICE 0 (log entry 4). SINCE -/
  since : Stamp := {}
  /-- 1; 14 R352; 0. FOG_PENDING -/
  fogPending : Bool := false
  /-- opt 64; 14 R369; none. DEV_RESET completed: counter, and whether it was forwarded (R379) -/
  resetAt : Option (Nat × Bool) := none
  /-- list; 14 R368, 03 R64; empty. launches outstanding, and submitted launches -/
  launches : List Launch := []
  /-- 62×opt; 03 R69; none. array cycle in which a launch was last issued -/
  issuedIn : Option Nat := none
  /-- 64; 03 R64; 0. next launch number -/
  nextLaunch : Nat := 0
  deriving DecidableEq, Repr

/-- What the block has put on a wire or answered (the model's own record of its outputs). -/
inductive Sent where
  /-- PTP message on a port: the IPv4 source address where the transport is UDP (R49), kind (0 Sync, 1 Delay_Req,
  8 Follow_Up, 9 Delay_Resp, 11 Announce), sequence number, and the fields that the message carries -/
  | ptp (port : Nat) (ip : Option (BitVec 32)) (kind : Nat) (seq : BitVec 16) (fields : List Int)
  /-- Ethernet frame (an ARP reply) -/
  | eth (port : Nat) (bytes : List Byte)
  /-- CAN SYNC frame -/
  | can (port : Nat) (ide : Bool) (id : BitVec 29) (data : List Byte)
  /-- SPI read started: port, chip select, command bytes -/
  | spi (port cs : Nat) (cmd : List Byte)
  /-- reply to a received TIME flit: t2, t3 in 2^-16 ns, FLAGS -/
  | timeReply (t2 t3 : Int) (flags : BitVec 16)
  /-- TIME flit sent with t1 -/
  | timeFlit (t1 : Int)
  /-- TENSOR request: number, target position, VA, and the bytes written or the length read -/
  | tensor (id pos va : Nat) (wr : Bool) (bytes : List Byte) (len : Nat)
  /-- answer to a received TENSOR request -/
  | tensorReply (pos : BitVec 6) (r : TensorReply)
  /-- forwarded command to a member, header first (R379) -/
  | forward (pos : Nat) (words : List Word)
  /-- notification sent to the lead (R380) -/
  | noteToLead (words : List Word)
  /-- completion sent to the lead (R379) -/
  | completionToLead (words : List Word)
  /-- a member's answer to the enumeration query (R378, R386) -/
  | enumReply (m : MemberInfo)
  /-- the image sent to a downstream member that boots over the chain (R376, R410) -/
  | bootImage (bytes : List Byte)
  /-- flits passed on through a port toward another position (R375, R381): class and payload -/
  | passed (port cls : Nat) (bytes : List Byte)
  /-- flits sent again through a port (R374, R377): class and the 256 bytes of each -/
  | replay (port : Nat) (flits : List (Nat × List Byte))
  deriving DecidableEq, Repr

/-- Chain port states of R386. -/
inductive LinkState where
  | down | training | up
  deriving DecidableEq, Repr

/-- A flit: class, the part of its payload that a message fills, at most 240 bytes, and the message that is complete with it
(R374, R375). -/
structure Flit where
  cls : Nat
  data : List Byte
  carries : Option Sent
  /-- its 256 bytes once it has been sent: header, payload, CRC-64 (R374) -/
  image : List Byte := []
  deriving DecidableEq, Repr

/-- The lanes of one direction of a port (R373, R376). -/
structure Lanes where
  /-- 9; 15 R373 R376; 0. lanes that carry traffic -/
  active : BitVec 9 := 0
  /-- 1; 15 R373 R386; 0. the spare lane is in use -/
  spareUsed : Bool := false
  /-- 4; 15 R376; 0. the lane that training chose as the spare -/
  spareLane : Nat := 0
  /-- 9; 15 R377, 17 R425; 0. lanes that have failed since reset -/
  bad : BitVec 9 := 0
  /-- 9×16; 15 R376; empty. skew of each lane as trained, in 2^-16 ns -/
  skew : List Int := []
  deriving DecidableEq, Repr

/-- One chain port (R373 to R377). -/
structure ChainPort where
  /-- 2; 15 R386; DESIGN CHOICE DOWN (log entry 4). state -/
  state : LinkState := .down
  /-- 4; 15 R386; 0. active lanes: 0, 4 or 8 -/
  lanes : Nat := 0
  /-- 2 directions; 15 R373; as Lanes. lanes that send, lanes that receive -/
  dirs : Vector Lanes 2 := Vector.replicate 2 {}
  /-- 2; 15 R377; 0. failed attempts of the retrain that runs -/
  attempts : Nat := 0
  /-- 1; 15 R377; 0. the port stops: a failed lane waits for its spare -/
  stopped : Bool := false
  /-- 1; 15 R377; 0. the port was up and went down -/
  wasDown : Bool := false
  /-- 64×flit; 15 R374; empty. replay buffer: the last 64 flits sent, oldest first -/
  replay : List Flit := []
  /-- 64; MODEL's own (log entry 76); 0. flits sent, by which the bytes that the spec does not give are told apart -/
  flits : Nat := 0
  /-- list; 15 R375 R377; empty. flits that wait while the port retrains, oldest first -/
  waiting : List Flit := []
  /-- 64; 15 R376; 0. trained one-way delay, 2^-16 ns -/
  delay : Nat := 0
  /-- 64; 15 R376; 0. trained asymmetry: the delay of the receiving direction less the mean of both, 2^-16 ns -/
  asym : Int := 0
  /-- 1; 15 R376 R410; 0. the downstream partner boots over the chain and has not been sent its image -/
  wantsImage : Bool := false
  /-- 1; 15 R377; 0. the training that runs is a retrain -/
  retrain : Bool := false
  deriving DecidableEq, Repr

/-- A chain time exchange in progress (R382, R383): t1 in 2^-16 ns, and whether the port was disturbed since. -/
structure Exchange where
  t1 : Int
  /-- the time line has stepped, or the source has changed, since t1 (R41, R45) -/
  stale : Bool
  disturbed : Bool
  deriving DecidableEq, Repr

/-- Chain (ch. 15). -/
structure Chain where
  /-- opt 6; 15 R376; none (no position before training; the lead's is 0). position of a member -/
  pos : Option Nat := none
  /-- 1; 15 R378 R380 R386; 0. ENUMERATED; on a member: an enumeration has reached it -/
  enumerated : Bool := false
  /-- 7; 15 R378 R386; DESIGN CHOICE 1 (log entry 4). CHAIN_LEN of a lead -/
  len : Nat := 1
  /-- list; 15 R378; empty. members as enumerated, from position 1 -/
  members : List MemberInfo := []
  /-- 2 ports; 15 R373; as ChainPort. upstream and downstream port -/
  ports : Vector ChainPort 2 := Vector.replicate 2 {}
  /-- 32; 15 R386; 0. RETRIES, saturating -/
  retries : Nat := 0
  /-- 32; 15 R386; 0. RETRAINS, saturating -/
  retrains : Nat := 0
  /-- 64; 15 R386; 0. UP_DELAY, 2^-16 ns -/
  upDelay : Nat := 0
  /-- 32; 15 R386; 0. EXCHANGES, saturating -/
  exchanges : Nat := 0
  /-- 32; 15 R386; 0. EXCH_DISCARDED, saturating -/
  discarded : Nat := 0
  /-- opt; 15 R382; none. exchange in progress -/
  exch : Option Exchange := none
  /-- 64; 15 R382; 0. the multiple of 1 ms of the time line at which the last exchange started -/
  lastMs : Int := 0
  /-- 16; 15 R385; 0. device number -/
  number : BitVec 16 := 0
  deriving DecidableEq, Repr

/-- The monitored rails (R464). -/
def allRails : List Rail := [.vddArray, .vddCore, .vddSram, .vdd1, .vdd2h, .vdd2l, .vddq, .vddIo, .vddPhyA, .vddPhyH]

/-- A clock domain (R396, R397, R436). -/
structure Dom where
  /-- 1; 16 R396 R397; 0 (held in reset). the domain is released -/
  up : Bool := false
  /-- opt 64; 17 R436; none. `aon` when lock was lost after release -/
  lostAt : Option Nat := none
  /-- 1; 17 R436; 0. the 10 ms of R436 have passed without relock -/
  late : Bool := false
  deriving DecidableEq, Repr

/-- An installed package (R414). -/
structure Package where
  id : Word
  version : Word
  region : Nat
  va : Nat
  rootSlot : Nat
  rollback : Nat
  digest : BitVec 384
  /-- bytes of the image -/
  bytes : Nat
  /-- RD, WR, LS of the region entry before installation -/
  rd : Bool
  wr : Bool
  ls : Bool
  deriving DecidableEq, Repr

/-- What the security engine is doing for a command that waits (R414, R415): verifying a package staged in a region, whose entry
had these permissions; or writing a firmware image, of which flash will hold the listed bytes otherwise than written. -/
inductive SecJob where
  | install (index region va : Nat) (rd wr ls : Bool)
  | update (slot : Nat) (image : List Byte) (damage : List (Nat × Byte))
  deriving DecidableEq, Repr

/-- Firmware that runs (R409), its image's body in keeper-local SRAM. -/
structure Firmware where
  version : Word
  rootSlot : Nat
  rollback : Nat
  digest : BitVec 384
  slot : Nat
  body : List Byte := []
  deriving DecidableEq, Repr

/-- The device keys (R416): the private ECDSA key, and what the LMS tree grows from. -/
structure DevKeys where
  /-- 384; 16 R416; as derived. private key of ECDSA -/
  ecdsa : Nat
  /-- 128; 16 R416; as derived. identifier of the LMS tree -/
  lmsId : BitVec 128
  /-- list; 16 R402 R416; as derived. device secrets that its elements derive from -/
  seed : List Word
  deriving DecidableEq, Repr

/-- Fuses (R402, R404, R411, R417). -/
structure Otp where
  /-- 4; 16 R411; DESIGN CHOICE 0b1111, all programmed (log entry 5). root-key slots programmed -/
  programmed : BitVec 4 := 15
  /-- 4; 16 R411 R412; DESIGN CHOICE 0, none (log entry 5). root-key slots revoked -/
  revoked : BitVec 4 := 0
  /-- 7; 16 R413; DESIGN CHOICE 0 (log entry 5). anti-rollback counter -/
  rollback : Nat := 0
  /-- 11; 16 R417; DESIGN CHOICE 0 (log entry 5). attestation reservation steps taken -/
  blocks : Nat := 0
  /-- 64; 16 R402; DESIGN CHOICE 0 (log entry 5). serial number, EUI-64 -/
  serial : Word := 0
  /-- 1; 00 R1, 16 R402; DESIGN CHOICE V7F-128 (log entry 5). part code -/
  part128 : Bool := true
  /-- 4×384; 16 R402 R408; DESIGN CHOICE 0 (log entry 5). SHA-384 of the key record of each root-key slot -/
  keyHash : Vector (BitVec 384) 4 := Vector.replicate 4 0
  /-- list; 16 R402; DESIGN CHOICE empty (log entry 5). trims for VDD_ARRAY, the PLLs and the PHYs -/
  trims : List Word := []
  /-- list; 16 R402; DESIGN CHOICE empty (log entry 5). repair maps of the SRAM tiers -/
  repairs : List Word := []
  /-- list; 16 R402 R416; DESIGN CHOICE empty (log entry 5). device secrets -/
  secrets : List Word := []
  deriving DecidableEq, Repr

/-- The configuration space of the service port (R351), as far as the chapter describes it; the bits are those of PCI Express
(log entry 97). -/
structure SvcPort where
  /-- 32; 14 R351; PRESUMED 0 (PCI Express, log entry 97). base address of BAR0, a multiple of 256 KiB -/
  bar0 : BitVec 32 := 0
  /-- 32; 14 R340 R351; PRESUMED 0 (PCI Express, log entry 97). upper half of the base address of BAR2, a multiple of 16 GiB -/
  bar2 : BitVec 32 := 0
  /-- 2; 14 R351; PRESUMED 0, 128 bytes (PCI Express, log entry 97). maximum payload size, 128 × 2^n bytes -/
  maxPayload : Nat := 0
  /-- 32; 14 R351; PRESUMED 0 (PCI Express, log entry 97). uncorrectable error status of Advanced Error Reporting: bit 15
  Completer Abort, bit 20 Unsupported Request -/
  aer : BitVec 32 := 0
  /-- 3; 14 R351; 0, no link. lanes the link trained at: 1, 2 or 4 -/
  width : Nat := 0
  /-- 3; 14 R351; 0, no link. speed the link trained at: 1 to 5 for 2.5, 5, 8, 16 and 32 GT/s -/
  speed : Nat := 0
  deriving DecidableEq, Repr

/-- Reset, boot and security (ch. 16). -/
structure Boot where
  /-- 4; 16 R419; 1. RB_RESET_CAUSE.CAUSE -/
  cause : BitVec 4 := 1
  /-- 1; 16 R419; 0. RB_RESET_CAUSE.WARM -/
  warm : Bool := false
  /-- 5; 16 R419; 0. PLL_UNLOCKED -/
  pllUnlocked : BitVec 5 := 0
  /-- 2; 16 R419; 0. WD_COUNT -/
  wdCount : Nat := 0
  /-- 4; 16 R419; 0. SLOT0_ERROR -/
  slot0Error : BitVec 4 := 0
  /-- 4; 16 R419; 0. SLOT1_ERROR -/
  slot1Error : BitVec 4 := 0
  /-- 1; 16 R419; 0. SLOT -/
  slot : Nat := 0
  /-- 1; 16 R419; 0. STRAP_IGNORED -/
  strapIgnored : Bool := false
  /-- 4; 16 R419; 0. RB_STRAP.VALUE -/
  strap : BitVec 4 := 0
  /-- 1; 16 R419; 0. CHAIN_BOOT -/
  chainBoot : Bool := false
  /-- 1; 16 R419; 0. MEMBER -/
  member : Bool := false
  /-- 1; 16 R419; 0. SERVICE_ON -/
  serviceOn : Bool := false
  /-- 1; 16 R419; 0. WATCHDOG_ON -/
  watchdogOn : Bool := false
  /-- 1; 16 R395; 0. boot watchdog disarmed until the next full reset -/
  wdDisarmed : Bool := false
  /-- 3; 16 R397; 0. consecutive PLL_NO_LOCK resets -/
  noLockRun : Nat := 0
  /-- 1; 16 R397; 0. held in DARK until RESET_N falls or power is removed -/
  heldDark : Bool := false
  /-- 1; 16 R398 R473; DESIGN CHOICE low (log entry 3). the RESET_N pin, high -/
  resetN : Bool := false
  /-- 1; 16 R398; 0. the PLLs have been enabled and the full reset sequence runs -/
  sequence : Bool := false
  /-- 10; 16 R389 R394; all, the hold of power-on. rails that have not been within their windows for 1 ms -/
  railsOut : List Rail := allRails
  /-- 1; 16 R393; 0. held by THERM_TRIP_N -/
  thermHold : Bool := false
  /-- 5 domains; 16 R396; as Dom. clock domains -/
  dom : Vector Dom 5 := Vector.replicate 5 {}
  /-- fuses; 16 R390 R402; as Otp. OTP -/
  otp : Otp := {}
  /-- 1; 16 R402; 0. an OTP field could not be decided -/
  otpCorrupt : Bool := false
  /-- 2×8 MiB; 16 R405; DESIGN CHOICE erased (log entry 5). boot flash slots, slot 0 at offset 0x10_0000 and slot 1 at
  0x90_0000: their bytes from the start, erased beyond the list -/
  flash : Vector (List Byte) 2 := Vector.replicate 2 []
  /-- 1; 16 R405; 0, 1S-1S-1S. the boot flash is in 8D-8D-8D mode -/
  octal : Bool := false
  /-- list; 16 R410; empty. bytes of the image received from the chain in this boot -/
  chainBytes : List Byte := []
  /-- 1; 16 R410; 0. all of that image has come -/
  chainWhole : Bool := false
  /-- opt; 16 R414 R415; none. what the security engine is doing -/
  job : Option SecJob := none
  /-- opt; 16 R409; none. running firmware -/
  fw : Option Firmware := none
  /-- 1; 16 R409; 0. the boot ROM serves commands (FAULT_HALT from KEEPER_BOOT) -/
  romServes : Bool := false
  /-- 16 packages; 16 R414; empty. installed packages -/
  packages : Vector (Option Package) 16 := Vector.replicate 16 none
  /-- opt; 16 R416; none. device keys, derived in KEEPER_BOOT -/
  devKeys : Option DevKeys := none
  /-- 1; 16 R417; 0. SC_ATTEST has burned a block since reset -/
  blockOpen : Bool := false
  /-- 11; 16 R417; 0. next leaf within the open block -/
  nextLeaf : Nat := 0
  /-- 32; 16 R421; 0. REPORTS, saturating -/
  reports : Nat := 0
  /-- 1; 16 R418; 0. ATTEST_EXHAUSTED sent since reset -/
  exhaustedSent : Bool := false
  /-- 64; MODEL's own (log entry 13); 0. time since power-on in keeper-cycle lengths, 0.78125 ns, on the always-on domain -/
  aon : Nat := 0
  /-- opt 64; 16 R389; DESIGN CHOICE none (log entry 79). REFCLK cycle in which the last reset cause arose -/
  causeAt : Option Nat := none
  /-- 64; 16 R394; 0. `aon` when a monitored rail last left its window -/
  railsAt : Nat := 0
  /-- 64; 16 R393; 0. `aon` when THERM_TRIP_N asserted -/
  thermAt : Nat := 0
  /-- 64; 16 R397; 0. `aon` when the PLLs were enabled -/
  pllAt : Nat := 0
  /-- opt 64; 16 R395; none. `aon` when the boot watchdog started -/
  wdFrom : Option Nat := none
  /-- 64; 16 R395; 0. `aon` when the mailboxes opened, from which the keeper watchdog is armed -/
  openAt : Nat := 0
  /-- 1; 16 R390 R398; 0. LPDDR5X is to be written to 0 in KEEPER_BOOT -/
  clearLpddr : Bool := false
  /-- 1; 14 R352; 0. service-port link up -/
  linkUp : Bool := false
  /-- configuration space; 14 R351 R392; as SvcPort. service port -/
  svc : SvcPort := {}
  deriving DecidableEq, Repr

/-- One entry of the fault log (R442). -/
structure LogEntry where
  w0 : Word
  w1 : Word
  w2 : Word
  w3 : Word
  w4 : Word
  deriving DecidableEq, Repr

/-- What the lamp changer must do: class and unit of the fault (R427, R428). -/
structure Subst where
  cls : BitVec 8
  unit : Nat
  /-- counter and stamp at detection (R428, R442) -/
  since : Nat := 0
  seen : Stamp := {}
  /-- planned for wear: made only while the unit has no work (R434) -/
  planned : Bool := false
  /-- a chain lane: its direction, 0 sends and 1 receives, and the flits sent last that are not acknowledged (R377) -/
  dir : Nat := 0
  unacked : Nat := 0
  deriving DecidableEq, Repr

/-- Spares, fault log and fog causes (ch. 17). -/
structure Faults where
  /-- 256×320; 17 R442; empty. fault log, oldest first, with the running INDEX of each entry -/
  log : List (Nat × LogEntry) := []
  /-- 32; 17 R442; 0. next INDEX, modulo 2^32 -/
  next : Nat := 0
  /-- 32; 17 R442; 0. OVERWRITES, saturating -/
  overwrites : Nat := 0
  /-- list; 17 R437 R442; none. fog causes that hold, each with the INDEX of its fault-log entry -/
  causes : List (FogCause × Nat) := []
  /-- list; 17 R427 R428; empty. substitutions that wait, in the order of R428 -/
  queue : List Subst := []
  /-- opt; 17 R430; none. pair that core 4 serves -/
  core4 : Option KPair := none
  /-- list; 17 R424; empty. keeper cores out of service -/
  badCores : List Nat := []
  /-- opt; 17 R430; none. pair that stopped for good -/
  pairDown : Option KPair := none
  /-- 2×opt 64; 16 R395; none. `aon` when pairs A and B stopped for good -/
  stopAt : Vector (Option Nat) 2 := Vector.replicate 2 none
  /-- 1; 17 R438; 0. no keeper pair works -/
  keeperDead : Bool := false
  /-- 64; 06 R131 R160; all. tile positions in service -/
  tileIn : BitVec 64 := BitVec.allOnes 64
  /-- 64; 06 R158; 0. positions served by a spare tile (SUBST) -/
  tileSubst : BitVec 64 := 0
  /-- 4; 17 R424; none used. spare tile of each quadrant used or retired -/
  tileSpareGone : BitVec 4 := 0
  /-- 16; 10 R266; all. solver lanes in service -/
  laneIn : BitVec 16 := BitVec.allOnes 16
  /-- opt 4; 10 R266; none. lane that the spare lane serves -/
  laneSubst : Option Nat := none
  /-- 1; 17 R429; 0. the spare lane is retired -/
  laneSpareGone : Bool := false
  /-- list; 17 R424 R431; empty. near-SRAM rows on spare rows: bank, tier, row -/
  nearRows : List (Nat × Nat × Nat) := []
  /-- list; 17 R431; empty. counters of recent near-row sparings: bank, tier, counter -/
  nearTimes : List (Nat × Nat × Nat) := []
  /-- 64; 17 R431; 0. banks served by their quadrant's spare bank -/
  bankSubst : BitVec 64 := 0
  /-- list; 17 R431 R442; empty. banks whose background copy runs, with the stamp of the fault's detection -/
  bankCopy : List (Nat × Stamp) := []
  /-- 4; 17 R424; 0. spare bank of each quadrant used -/
  bankSpareGone : BitVec 4 := 0
  /-- 64; 17 R426 R431; 0. banks kept without a spare -/
  bankKept : BitVec 64 := 0
  /-- list; 17 R483; empty. keeper-local SRAM rows on spare rows -/
  keeperRows : List Nat := []
  /-- list; 17 R432, 13 R330; empty. rows repaired by post-package repair, one per bank: channel, bank, row -/
  pprUsed : List (Nat × Nat × Nat) := []
  /-- list; 13 R330; empty. those of these repairs that a KEEPER_BOOT has made hard; the others are soft -/
  pprHard : List (Nat × Nat × Nat) := []
  /-- list; 17 R432; empty. rows redirected by the remap table: channel, bank, row -/
  remap : List (Nat × Nat × Nat) := []
  /-- 2×opt 64; 17 R430; none. counter at which the self-test of a keeper pair began; the pair is out for 10 µs -/
  pairOut : Vector (Option Nat) 2 := Vector.replicate 2 none
  /-- 7; 17 R424 R435; all. engines in service: point cloud, layout, attention, page movers 0 to 3 -/
  engines : BitVec 7 := BitVec.allOnes 7
  /-- list; 17 R434; empty. units for which the WEAR entry was written: class and unit -/
  worn : List (Nat × Nat) := []
  /-- 64; 17 R434; 0. counter at the last reading of the delay monitors -/
  wearAt : Nat := 0
  /-- list; 17 R434; empty. classes for which the half-used WEAR entry was written -/
  wearHalf : List (BitVec 8) := []
  deriving DecidableEq, Repr

/-- A sample request: where the work of the unit stood when the counter passed (R455). -/
structure Raised where
  /-- 64; 18 R456; as raised. array cycle of the request -/
  cycle : Nat
  /-- 8; 18 R455; as raised. TARGET of the launch that ran at the counter's unit, 0xFF without one -/
  target : Nat := 0xFF
  /-- 48; 18 R455; as raised. address of its list -/
  listVa : Nat := 0
  /-- 48; 18 R455; as raised. address of the command in progress -/
  pc : Nat := 0
  /-- 8; 18 R455; as raised. bytes of a command of the list -/
  size : Nat := 0
  deriving DecidableEq, Repr

/-- A counter (R448 to R455). -/
structure Counter where
  /-- 8; 18 R449; DESIGN CHOICE 0, OFF (log entry 4). event -/
  event : BitVec 8 := 0
  /-- 48; 18 R454; 0. sampling period -/
  period : Nat := 0
  /-- 48; 18 R448; 0. value -/
  value : Nat := 0
  /-- 32; 18 R450; 0. carried remainder of the event's unit -/
  carry : Nat := 0
  /-- 1; 18 R450; 0. WRAPPED -/
  wrapped : Bool := false
  /-- opt; 18 R455 R456; none. a sample request that has no record yet -/
  request : Option Raised := none
  /-- opt; 18 R451; none. the last array cycle that changed the counter, and its value and WRAPPED before it -/
  old : Option (Nat × Nat × Bool) := none
  deriving DecidableEq, Repr

/-- One copy of the counter window (R452). -/
structure PmWin where
  /-- 32; 18 R452; 0. PM_SEL -/
  sel : Nat := 0
  /-- 32; 18 R452; 0. PM_VAL_LO -/
  lo : Reg := 0
  /-- 32; 18 R452; 0. PM_VAL_HI -/
  hi : Reg := 0
  deriving DecidableEq, Repr

/-- Performance counters and collector (ch. 18). -/
structure Pm where
  /-- 544×48; 18 R448; as Counter. counters -/
  ctr : Vector Counter 544 := Vector.replicate 544 {}
  /-- 3×32; 18 R452; 0. BAR0 window -/
  bar0 : PmWin := {}
  /-- 3×32; 18 R452; 0. LIST window -/
  list : PmWin := {}
  /-- 1; 18 R452; 0. RUNNING -/
  running : Bool := false
  /-- 20; 18 R459; 0. INTERVAL_US -/
  intervalUs : Nat := 0
  /-- 64×10; 18 R459; empty. list of counters -/
  items : List Nat := []
  /-- 48; 18 R459; 0. RING_VA -/
  ringVa : Nat := 0
  /-- 32; 18 R459; 0. RING_BYTES -/
  ringBytes : Nat := 0
  /-- 24; 18 R452; 0. PM_RING_WR -/
  wr : Nat := 0
  /-- 24; 18 R452; 0. PM_RING_RD -/
  rd : Nat := 0
  /-- 1; 18 R460; 0. PM_RING_RD was set to a value not reached by stepping forward to WR -/
  strayRd : Bool := false
  /-- 48; 18 R457; 0. SEQ of the next record -/
  seq : Nat := 0
  /-- 32; 18 R459; 0. DROPPED, saturating -/
  dropped : Nat := 0
  /-- 32; 18 R459; 0. SKIPPED, saturating -/
  skipped : Nat := 0
  /-- 32; 18 R459; 0. SAMPLES, saturating -/
  samples : Nat := 0
  /-- 32; 18 R459; 0. records dropped since the last RING_FULL -/
  fullDropped : Nat := 0
  /-- opt; 18 R456; none. a latched snapshot without its record: array cycle, WHEN, values -/
  snap : Option (Nat × List Word × List Word) := none
  /-- 1; 18 R460; 0. the ring overlaps a destination of a launch, a command list or a package -/
  ringMet : Bool := false
  /-- opt 64; MODEL's own (log entry 94); none. counter at the array edge that ARRAY_CYCLE_COUNT has counted -/
  countedAt : Option Nat := none
  /-- opt 64; 18 R449; none. array cycle in which OVERRUNS was counted last -/
  overrunAt : Option Nat := none
  /-- opt 64; 18 R449; none. array cycle in which DEADLINE_MISSED was counted last -/
  missedAt : Option Nat := none
  /-- opt; 18 R456; none. time line at the last array edge; after a step backward, just before the new reading -/
  edgeLine : Option Int := none
  /-- opt; 18 R453; none. the last write to PM_RING_RD through the LIST window: array cycle, RD before it, value -/
  listRd : Option (Nat × Nat × Reg) := none
  deriving DecidableEq, Repr

/-- What a bus read answered. -/
inductive BusRead where
  | reg (v : Reg)
  /-- an 8-byte register access (R352): the register at the offset in bits 31:0 -/
  | wide (v : Word)
  | bytes (bs : List Byte)
  /-- Completer Abort (R342) -/
  | abort
  /-- Unsupported Request (R340, R352) -/
  | unsupportedRequest
  deriving DecidableEq, Repr

/-- Pins of the interfaces with a reset state (R461). -/
inductive IfPin where
  | peTx | xspiCk | xspiCsN | xspiResetN | xspiDs | xspiDq
  | csi (n : Fin 12) | ethTx (n : Fin 4) | canTx (n : Fin 2)
  | spiSclk (n : Fin 4) | spiMosi (n : Fin 4) | spiCsN (n : Fin 4)
  | chainUpTx | chainDownTx | jtagTdo
  deriving DecidableEq, Repr

/-- Reset states of such pins (R461). -/
inductive RestLevel where
  | low | high | input | electricalIdle | terminationOff | highImpedance
  deriving DecidableEq, Repr

/-- Output pins that hold a level of their own, and the outside of the block (ch. 19; MODEL's own: lastRead, sent). -/
structure Pins where
  /-- 8; 19 R461, 03 R74; 0. BCN -/
  bcn : BitVec 8 := 0
  /-- 8×opt; 03 R74; none. pending fall of each BCN pin: instant in 2^-48 ns, and the characteristic that drove it -/
  falls : Vector (Option (Int × Nat)) 8 := Vector.replicate 8 none
  /-- 1; 19 R461, 03 R75; low. HEARTBEAT -/
  heartbeat : Bool := false
  /-- 1; 19 R461, 16 R393; released (1). THERM_TRIP_N -/
  thermTripN : Bool := true
  /-- 4; 19 R461 R465; 10. ARRAY_VID -/
  arrayVid : BitVec 4 := 10
  /-- 4; 19 R465, 17 R434; 10. code that the keeper wants; ARRAY_VID moves to it one step in 100 µs -/
  vidTarget : BitVec 4 := 10
  /-- 64; 19 R465; 0. counter at the last change of ARRAY_VID -/
  vidAt : Nat := 0
  /-- opt; MODEL's own (log entry 7); none. what the last bus read answered -/
  lastRead : Option BusRead := none
  /-- list; MODEL's own (log entry 7); empty. what the block has sent, oldest first -/
  sent : List Sent := []
  deriving DecidableEq, Repr

/-- The state of the block. -/
structure State where
  /-- list; MODEL's own (log entry 1); empty. commands that wait, first in, first out -/
  pending : List Instr := []
  /-- chapter 02; as Time. time line, servo and counter -/
  time : Time := {}
  /-- chapter 02; as Ptp. PTP -/
  ptp : Ptp := {}
  /-- chapter 02; as Pps. PPS_IN and PPS_OUT -/
  pps : Pps := {}
  /-- 4 characteristics; 03 R62; as Char. characteristics -/
  chars : Vector Char 4 := Vector.replicate 4 {}
  /-- chapter 03; as Budget. budget governor -/
  budget : Budget := {}
  /-- chapter 04; as LightList. sensor ports and light list -/
  ll : LightList := {}
  /-- 64 queues; 05 R118; as Queue. ingress queues -/
  iq : Vector Queue 64 := Vector.replicate 64 {}
  /-- chapter 06; as Tiles. tensor tiles -/
  tiles : Tiles := {}
  /-- chapter 07; as Layout. layout engine -/
  layout : Layout := {}
  /-- chapter 08; as Cloud. point-cloud engine -/
  cloud : Cloud := {}
  /-- chapter 09; as Ego. ego estimator -/
  ego : Ego := {}
  /-- chapter 09; as Buoys. buoy table -/
  buoys : Buoys := {}
  /-- chapter 10; as Solver. batched solver -/
  solver : Solver := {}
  /-- chapter 11; as Calib. calibration refinement -/
  calib : Calib := {}
  /-- chapter 12; as Kv. attention unit and key-value cache -/
  kv : Kv := {}
  /-- chapter 13; as Mem. memory -/
  mem : Mem := {}
  /-- chapter 14; as Criser. mailboxes -/
  criser : Criser := {}
  /-- chapter 14; as Dev. device state and launches -/
  dev : Dev := {}
  /-- chapter 15; as Chain. chain -/
  chain : Chain := {}
  /-- chapter 16; as Boot. reset, boot, security -/
  boot : Boot := {}
  /-- chapter 17; as Faults. spares, faults, fog -/
  faults : Faults := {}
  /-- chapter 18; as Pm. performance counters -/
  pm : Pm := {}
  /-- chapter 19; as Pins. pins and the outside -/
  pins : Pins := {}
  /-- 64; MODEL's own (log entry 8); DESIGN CHOICE 0. free values used so far -/
  free : Nat := 0
  deriving DecidableEq, Repr

/-- Why a step could stop with a fault. The V7F's own faults are events of its state (fault log, FAULTED launches), so
no meaning of this model answers with it. -/
inductive Fault where
  /-- raised by no meaning; safe -/
  | none
  deriving DecidableEq, Repr

/-- Why a step could be refused. -/
inductive Refusal where
  /-- a command whose meaning the model does not have yet: raised by Dispatch only; safe -/
  | notModelled (mnemonic : String)
  deriving DecidableEq, Repr

/-- The block at the start of the full reset that power-on begins (R389, R390): every field at its reset value, the
device DARK with RESET_CAUSE POWER_ON and every clock domain held in reset. -/
def State.reset : State := {}

end Sys2Proof.Machine
end

