-- ==== Sys2Proof/Machine/Operands.lean ====
section
/-! DEFINITION. Operand forms: bit fields of words (R7, R8), byte order (R8), stamps (R26), and instants. -/
namespace Sys2Proof.Machine

/-- Bits hi:lo of a word (R7). -/
def bits (w : Word) (hi lo : Nat) : Nat := (w.toNat >>> lo) % 2 ^ (hi - lo + 1)

/-- Bit i of a word. -/
def bit (w : Word) (i : Nat) : Bool := w.getLsbD i

/-- Word i of a list, 0 beyond its end. -/
def wAt (ws : List Word) (i : Nat) : Word := ws.getD i 0

/-- Two's complement reading of an n-bit field. -/
def sgn (n v : Nat) : Int := if v < 2 ^ (n - 1) then (v : Int) else (v : Int) - (2 ^ n : Nat)

/-- A word from a number, modulo 2^64. -/
def wd (n : Nat) : Word := BitVec.ofNat 64 n

/-- A word from a signed number, modulo 2^64. -/
def wdI (i : Int) : Word := BitVec.ofInt 64 i

/-- A register from a number, modulo 2^32. -/
def rg (n : Nat) : Reg := BitVec.ofNat 32 n

/-- A bit as a number. -/
def b2n (b : Bool) : Nat := if b then 1 else 0

/-- A word made of fields, each given as (value, hi, lo); a value is cut to its field. -/
def pack (fs : List (Nat × Nat × Nat)) : Word :=
  wd (fs.foldl (fun a f => a + (f.1 % 2 ^ (f.2.1 - f.2.2 + 1)) * 2 ^ f.2.2) 0)

/-- A signed value as the unsigned pattern of an n-bit field. -/
def fld (n : Nat) (i : Int) : Nat := (i % (2 ^ n : Nat)).toNat

/-- Little-endian bytes of a number (R8). -/
def leBytes : Nat → Nat → List Byte
  | 0, _ => []
  | k + 1, n => BitVec.ofNat 8 n :: leBytes k (n / 256)

/-- The number that little-endian bytes spell. -/
def leNat : List Byte → Nat
  | [] => 0
  | b :: bs => b.toNat + 256 * leNat bs

/-- The number that big-endian bytes spell. -/
def beNat (bs : List Byte) : Nat := bs.foldl (fun a b => a * 256 + b.toNat) 0

/-- The bytes of words, each little-endian (R8). -/
def wordBytes (ws : List Word) : List Byte := (ws.map fun w => leBytes 8 w.toNat).flatten

/-- Words read from bytes, each little-endian; a rest shorter than 8 bytes is dropped. -/
def bytesWords : Nat → List Byte → List Word
  | 0, _ => []
  | k + 1, bs => wd (leNat (bs.take 8)) :: bytesWords k (bs.drop 8)

/-- `n` bytes from offset `o`, 0 beyond the end. -/
def sliceB (bs : List Byte) (o n : Nat) : List Byte :=
  let r := (bs.drop o).take n
  r ++ List.replicate (n - r.length) 0

/-- Units of 2^-48 ns in one second, and of 2^-16 ns in one second. -/
def sec48 : Int := 1000000000 * 281474976710656
def sec16 : Int := 1000000000 * 65536

/-- The full stamp of an instant (R26). -/
def Inst.stamp (i : Inst) : Stamp :=
  let r := i.t % sec16
  { w0 := wdI (i.t / sec16)
    w1 := pack [(i.flags.toNat, 63, 48), ((r % 65536).toNat, 47, 32), ((r / 65536).toNat, 31, 0)] }

/-- The two words of an instant's full stamp. -/
def Inst.words (i : Inst) : List Word := [i.stamp.w0, i.stamp.w1]

/-- The instant that a full stamp names, with its flags (R26). -/
def instOf (w0 w1 : Word) : Inst :=
  { t := (w0.toNat : Int) * sec16 + (bits w1 31 0 : Int) * 65536 + (bits w1 47 32 : Int)
    flags := BitVec.ofNat 16 (bits w1 63 48) }

/-- GEN and UPTIME_EPOCH of flags: what R29 compares. -/
def epochOf (f : BitVec 16) : Nat := f.toNat / 4096 * 2 + f.toNat % 2

/-- Rounding division to nearest, ties to even. -/
def divRne (a : Int) (b : Nat) : Int :=
  let q := a / (b : Int)
  let r := a % (b : Int)
  if 2 * r < b then q else if 2 * r > b then q + 1 else if q % 2 = 0 then q else q + 1

/-- Element i of a vector by a plain number, the default beyond its end. -/
def at_ {α : Type} {n : Nat} (v : Vector α n) (i : Nat) (d : α) : α := v.toArray.getD i d

/-- A vector with element i replaced, unchanged beyond its end. -/
def put {α : Type} {n : Nat} (v : Vector α n) (i : Nat) (x : α) : Vector α n := v.setIfInBounds i x

/-- A list keyed by numbers: the entry of a key. -/
def look {α : Type} : List (Nat × α) → Nat → Option α
  | [], _ => none
  | (k, x) :: r, i => if k = i then some x else look r i

/-- A list keyed by rising numbers, with the entry of a key set. -/
def insertKey {α : Type} : List (Nat × α) → Nat → α → List (Nat × α)
  | [], i, x => [(i, x)]
  | (k, y) :: r, i, x => if i < k then (i, x) :: (k, y) :: r else if i = k then (i, x) :: r else (k, y) :: insertKey r i x

/-- A keyed list without a key. -/
def eraseKey {α : Type} (l : List (Nat × α)) (i : Nat) : List (Nat × α) := l.filter fun p => p.1 != i

/-- Codes of the device states (R366). -/
def DevState.code : DevState → Nat
  | .dark => 0 | .optionLoad => 1 | .keeperBoot => 2 | .standby => 3
  | .armed => 4 | .running => 5 | .fog => 6 | .faultHalt => 7

/-- Codes of the servo states (R40). -/
def ServoState.code : ServoState → Nat
  | .free => 0 | .acquiring => 1 | .settling => 2 | .locked => 3 | .holdover => 4

/-- Codes of the servo sources (R37). -/
def Source.code : Source → Nat
  | .none => 0 | .ptp => 1 | .ppsIn => 2 | .chainUp => 3

/-- portState codes of IEEE 1588-2019. -/
def PtpState.code : PtpState → Nat
  | .initializing => 1 | .faulty => 2 | .disabled => 3 | .listening => 4 | .preMaster => 5
  | .master => 6 | .passive => 7 | .uncalibrated => 8 | .slave => 9

/-- Bits of the clock domains (R396). -/
def domBit : Domain → Nat
  | .core => 0 | .mem => 1 | .svc => 2 | .chain => 3 | .sensor => 4

end Sys2Proof.Machine
end

