-- ==== Sys2Proof/Machine/Crypto.lean ====
section
/-! DEFINITION. The functions that ch. 16 names by their standards (R406, R408, R416): SHA-384 and SHA-256 (FIPS 180-4), HMAC and the
deterministic nonce of RFC 6979, ECDSA on P-384 (FIPS 186-5, SP 800-186), LMS and LM-OTS (RFC 8554, SP 800-208). What they
compute is PRESUMED from those standards (log entry 6). -/
namespace Sys2Proof.Machine

/-! ### Bytes -/

/-- Bytes of a number, the most significant first. -/
def beBytes (n v : Nat) : List Byte := (leBytes n v).reverse

/-! ### SHA-2 -/

/-- Bytes of a word of SHA-512 and SHA-384 (`wide`), or of SHA-256; and the number of its values. -/
def shaBytes (wide : Bool) : Nat := if wide then 8 else 4
def shaMod (wide : Bool) : Nat := if wide then 0x10000000000000000 else 0x100000000

/-- Exclusive-or of three rotations of a word, or of two and a shift, to the right. -/
def shaTurns (wide : Bool) (i j k x : Nat) : Nat :=
  let y := x * (shaMod wide + 1)
  (y >>> i ^^^ y >>> j ^^^ y >>> k) % shaMod wide
def shaTurnsShift (wide : Bool) (i j k x : Nat) : Nat :=
  let y := x * (shaMod wide + 1)
  (y >>> i ^^^ y >>> j ^^^ x >>> k) % shaMod wide

/-- The constants of SHA-512; those of SHA-256 are the upper halves of the first 64. -/
def shaK : List Nat :=
  [0x428a2f98d728ae22, 0x7137449123ef65cd, 0xb5c0fbcfec4d3b2f, 0xe9b5dba58189dbbc, 0x3956c25bf348b538,
   0x59f111f1b605d019, 0x923f82a4af194f9b, 0xab1c5ed5da6d8118, 0xd807aa98a3030242, 0x12835b0145706fbe,
   0x243185be4ee4b28c, 0x550c7dc3d5ffb4e2, 0x72be5d74f27b896f, 0x80deb1fe3b1696b1, 0x9bdc06a725c71235,
   0xc19bf174cf692694, 0xe49b69c19ef14ad2, 0xefbe4786384f25e3, 0x0fc19dc68b8cd5b5, 0x240ca1cc77ac9c65] ++
  [0x2de92c6f592b0275, 0x4a7484aa6ea6e483, 0x5cb0a9dcbd41fbd4, 0x76f988da831153b5, 0x983e5152ee66dfab,
   0xa831c66d2db43210, 0xb00327c898fb213f, 0xbf597fc7beef0ee4, 0xc6e00bf33da88fc2, 0xd5a79147930aa725,
   0x06ca6351e003826f, 0x142929670a0e6e70, 0x27b70a8546d22ffc, 0x2e1b21385c26c926, 0x4d2c6dfc5ac42aed,
   0x53380d139d95b3df, 0x650a73548baf63de, 0x766a0abb3c77b2a8, 0x81c2c92e47edaee6, 0x92722c851482353b] ++
  [0xa2bfe8a14cf10364, 0xa81a664bbc423001, 0xc24b8b70d0f89791, 0xc76c51a30654be30, 0xd192e819d6ef5218,
   0xd69906245565a910, 0xf40e35855771202a, 0x106aa07032bbd1b8, 0x19a4c116b8d2d0c8, 0x1e376c085141ab53,
   0x2748774cdf8eeb99, 0x34b0bcb5e19b48a8, 0x391c0cb3c5c95a63, 0x4ed8aa4ae3418acb, 0x5b9cca4f7763e373,
   0x682e6ff3d6b2b8a3, 0x748f82ee5defb2fc, 0x78a5636f43172f60, 0x84c87814a1f0ab72, 0x8cc702081a6439ec] ++
  [0x90befffa23631e28, 0xa4506cebde82bde9, 0xbef9a3f7b2c67915, 0xc67178f2e372532b, 0xca273eceea26619c,
   0xd186b8c721c0c207, 0xeada7dd6cde0eb1e, 0xf57d4f7fee6ed178, 0x06f067aa72176fba, 0x0a637dc5a2c898a6,
   0x113f9804bef90dae, 0x1b710b35131c471b, 0x28db77f523047d84, 0x32caab7b40c72493, 0x3c9ebe0a15c9bebc,
   0x431d67c49c100d4c, 0x4cc5d4becb3e42b6, 0x597f299cfc657e2a, 0x5fcb6fab3ad6faec, 0x6c44198c4a475817]

/-- A round: a constant, a word of the message schedule, and the eight working words. -/
def shaRound (wide : Bool) (k w : Nat) : List Nat → List Nat
  | [a, b, c, d, e, f, g, h] =>
    let s1 := if wide then shaTurns wide 14 18 41 e else shaTurns wide 6 11 25 e
    let s0 := if wide then shaTurns wide 28 34 39 a else shaTurns wide 2 13 22 a
    let t1 := h + s1 + (g ^^^ (e &&& (f ^^^ g))) + k + w
    let t2 := s0 + (a &&& b ||| c &&& (a ||| b))
    [(t1 + t2) % shaMod wide, a, b, c, (d + t1) % shaMod wide, e, f, g]
  | st => st

/-- The next word of the message schedule, from the last 16. -/
def shaNext (wide : Bool) (ws : List Nat) : Nat :=
  let a := if wide then shaTurnsShift wide 1 8 7 (ws.getD 1 0) else shaTurnsShift wide 7 18 3 (ws.getD 1 0)
  let b := if wide then shaTurnsShift wide 19 61 6 (ws.getD 14 0) else shaTurnsShift wide 17 19 10 (ws.getD 14 0)
  (ws.getD 0 0 + a + ws.getD 9 0 + b) % shaMod wide

/-- The rounds of one block; `ws` are 16 words of the schedule. -/
def shaRounds (wide : Bool) : List Nat → List Nat → List Nat → List Nat
  | [], _, st => st
  | k :: ks, ws, st => shaRounds wide ks (ws.tail ++ [shaNext wide ws]) (shaRound wide k (ws.getD 0 0) st)

/-- One block of 16 words. -/
def shaBlock (wide : Bool) (st : List Nat) (block : List Byte) : List Nat :=
  let n := shaBytes wide
  let ks := if wide then shaK else (shaK.take 64).map (· >>> 32)
  let ws := (List.range 16).map fun i => beNat ((block.drop (i * n)).take n)
  List.zipWith (fun a b => (a + b) % shaMod wide) st (shaRounds wide ks ws st)

/-- The padded message: a bit 1, bits 0, and the length in bits, in blocks of 16 words. -/
def shaPad (wide : Bool) (bs : List Byte) : List Byte :=
  let block := 16 * shaBytes wide
  let tail := 2 * shaBytes wide
  bs ++ (0x80 :: (List.replicate ((2 * block - 1 - tail - bs.length % block) % block) 0 ++ beBytes tail (8 * bs.length)))

/-- The blocks of a padded message, first to last. -/
def shaBlocks (wide : Bool) : Nat → List Byte → List Nat → List Nat
  | 0, _, st => st
  | k + 1, bs, st => shaBlocks wide k (bs.drop (16 * shaBytes wide)) (shaBlock wide st bs)

/-- A digest as its words. -/
def sha (wide : Bool) (init : List Nat) (bs : List Byte) : List Nat :=
  let p := shaPad wide bs
  shaBlocks wide (p.length / (16 * shaBytes wide)) p init

/-- SHA-384. -/
def sha384 (bs : List Byte) : BitVec 384 :=
  BitVec.ofNat 384 (((sha true [0xcbbb9d5dc1059ed8, 0x629a292a367cd507, 0x9159015a3070dd17, 0x152fecd8f70e5939,
    0x67332667ffc00b31, 0x8eb44a8768581511, 0xdb0c2e0d64f98fa7, 0x47b5481dbefa4fa4] bs).take 6).foldl (fun a x => a * 2 ^ 64 + x) 0)

/-- The bytes of SHA-256. -/
def sha256 (bs : List Byte) : List Byte :=
  ((sha false [0x6a09e667, 0xbb67ae85, 0x3c6ef372, 0xa54ff53a, 0x510e527f, 0x9b05688c, 0x1f83d9ab, 0x5be0cd19] bs).map
    (beBytes 4)).flatten

/-! ### HMAC and the nonce of RFC 6979 -/

/-- HMAC with SHA-384, for keys of at most 128 bytes. -/
def hmac384 (key msg : List Byte) : List Byte :=
  let pad := fun (x : Byte) => (key ++ List.replicate (128 - key.length) 0).map (· ^^^ x)
  beBytes 48 (sha384 (pad 0x5C ++ beBytes 48 (sha384 (pad 0x36 ++ msg)).toNat)).toNat

/-! ### P-384 -/

/-- The prime of the field, the order of the base point, and the constant b of the curve y² = x³ - 3x + b. -/
def p384 : Nat := 2 ^ 384 - 2 ^ 128 - 2 ^ 96 + 2 ^ 32 - 1
def n384 : Nat :=
  0xffffffffffffffffffffffffffffffffffffffffffffffffc7634d81f4372ddf581a0db248b0a77aecec196accc52973
def b384 : Nat :=
  0xb3312fa7e23ee7e4988e056be3f82d19181d9c6efe8141120314088f5013875ac656398d8a2ed19d2a85c8edd3ec2aef

/-- A point in Jacobian coordinates: x = X / Z², y = Y / Z³; the point at infinity where Z is 0. -/
abbrev JPoint := Nat × Nat × Nat

/-- The base point. -/
def g384 : JPoint :=
  (0xaa87ca22be8b05378eb1c71ef320ad746e1d3b628ba79b9859f741e082542a385502f25dbf55296c3a545e3872760ab7,
   0x3617de4a96262c6f5d9e98bf9292dc29f8f41dbd289a147ce9da3113b5f0b8c00a60b1ce1d7e819d7a431d7c90ea0e5f, 1)

/-- A difference modulo `m` of reduced numbers. -/
def subMod (m a b : Nat) : Nat := (a + (m - b)) % m

/-- A power modulo `m`, over the bits of the exponent from `bits` of them on. -/
def powMod (m b e : Nat) : Nat → Nat
  | 0 => 1
  | k + 1 =>
    let x := powMod m b (e / 2) k
    x * x % m * (if e % 2 = 1 then b else 1) % m

/-- The inverse modulo a prime of at most 384 bits (by Fermat). -/
def invMod (m a : Nat) : Nat := powMod m a (m - 2) 384

/-- The double of a point. -/
def JPoint.double : JPoint → JPoint
  | (x, y, z) =>
    let zz := z * z % p384
    let yy := y * y % p384
    let m := 3 * subMod p384 x zz * (x + zz) % p384
    let s := 4 * x * yy % p384
    let x3 := subMod p384 (m * m % p384) (2 * s % p384)
    (x3, subMod p384 (m * subMod p384 s x3 % p384) (8 * yy * yy % p384), 2 * y * z % p384)

/-- The sum of two points. -/
def JPoint.add : JPoint → JPoint → JPoint
  | (x1, y1, z1), (x2, y2, z2) =>
    if z1 = 0 then (x2, y2, z2) else if z2 = 0 then (x1, y1, z1) else
    let a := z1 * z1 % p384
    let b := z2 * z2 % p384
    let u := x1 * b % p384
    let h := subMod p384 (x2 * a % p384) u
    let s := y1 * z2 % p384 * b % p384
    let r := subMod p384 (y2 * z1 % p384 * a % p384) s
    if h = 0 then (if r = 0 then JPoint.double (x1, y1, z1) else (1, 1, 0)) else
    let hh := h * h % p384
    let v := u * hh % p384
    let x3 := subMod p384 (subMod p384 (r * r % p384) (hh * h % p384)) (2 * v % p384)
    (x3, subMod p384 (r * subMod p384 v x3 % p384) (s * hh % p384 * h % p384), z1 * z2 % p384 * h % p384)

/-- A multiple of a point, over the bits of the factor. -/
def JPoint.mul (q : JPoint) (e : Nat) : Nat → JPoint
  | 0 => (1, 1, 0)
  | k + 1 =>
    let d := (q.mul (e / 2) k).double
    if e % 2 = 1 then d.add q else d

/-- The affine coordinates of a point that is not at infinity. -/
def JPoint.affine : JPoint → Nat × Nat
  | (x, y, z) =>
    let i := invMod p384 z
    (x * (i * i % p384) % p384, y * (i * i % p384 * i % p384) % p384)

/-- ECDSA on P-384: a signature of a digest verifies with an uncompressed public key of 97 bytes. -/
def ecdsaVerify (key : List Byte) (z : Nat) (sig : List Byte) : Bool :=
  let x := beNat ((key.drop 1).take 48)
  let y := beNat ((key.drop 49).take 48)
  let r := beNat (sig.take 48)
  let s := beNat ((sig.drop 48).take 48)
  if !(key.head? == some 0x04 && decide (x < p384 ∧ y < p384) && y * y % p384 == (x * x * x + (p384 - 3) * x + b384) % p384 &&
      decide (1 ≤ r ∧ r < n384 ∧ 1 ≤ s ∧ s < n384)) then false else
  let w := invMod n384 s
  let q := (g384.mul (z * w % n384) 384).add (JPoint.mul (x, y, 1) (r * w % n384) 384)
  q.2.2 != 0 && q.affine.1 % n384 == r

/-- The next K and V of the generator of RFC 6979. -/
def rfcNext (k v more : List Byte) : List Byte × List Byte :=
  let k := hmac384 k (v ++ more)
  (k, hmac384 k v)

/-- ECDSA on P-384 with the nonce of RFC 6979: r and s of a digest under a private key. A nonce that does not serve gives way to
the next, as often as `fuel` says. -/
def ecdsaSignFrom (d z : Nat) : Nat → List Byte → List Byte → Nat × Nat
  | 0, _, _ => (0, 0)
  | fuel + 1, k, v =>
    let v := hmac384 k v
    let n := beNat v
    let r := (g384.mul n 384).affine.1 % n384
    let s := invMod n384 n * ((z + r * d) % n384) % n384
    if 1 ≤ n ∧ n < n384 ∧ r ≠ 0 ∧ s ≠ 0 then (r, s) else
    let (k, v) := rfcNext k v [0x00]
    ecdsaSignFrom d z fuel k v

/-- The signature of a digest: r and s of 48 bytes each. -/
def ecdsaSign (d z : Nat) : List Byte :=
  let seed := beBytes 48 d ++ beBytes 48 (z % n384)
  let (k, v) := rfcNext (List.replicate 48 0) (List.replicate 48 1) (0x00 :: seed)
  let (k, v) := rfcNext k v (0x01 :: seed)
  let (r, s) := ecdsaSignFrom d z 64 k v
  beBytes 48 r ++ beBytes 48 s

/-! ### LMS_SHA256_M24_H20 with LMOTS_SHA256_N24_W4 -/

/-- SHA-256 cut to 24 bytes. -/
def hash24 (bs : List Byte) : List Byte := (sha256 bs).take 24

/-- Type codes of LMOTS_SHA256_N24_W4 and LMS_SHA256_M24_H20. -/
def otsType : Nat := 0x07
def lmsType : Nat := 0x0D

/-- A hash chain of an element: steps `j` on, `k` of them. -/
def otsChain (idq : List Byte) (i : Nat) : Nat → Nat → List Byte → List Byte
  | 0, _, x => x
  | k + 1, j, x => otsChain idq i k (j + 1) (hash24 (idq ++ (beBytes 2 i ++ (beBytes 1 j ++ x))))

/-- The 51 digits of 4 bits that a message hash of 24 bytes has with its checksum. -/
def otsDigits (h : List Byte) : List Nat :=
  let a := (h.map fun b => [b.toNat / 16, b.toNat % 16]).flatten
  let c := (a.map (15 - ·)).sum
  a ++ [c / 256 % 16, c / 16 % 16, c % 16]

/-- The digits that a signature with the randomizer `c` signs. -/
def otsMessage (idq c msg : List Byte) : List Nat := otsDigits (hash24 (idq ++ ([0x81, 0x81] ++ (c ++ msg))))

/-- The public key of a leaf, from the ends of its chains. -/
def otsKey (idq : List Byte) (ends : List (List Byte)) : List Byte := hash24 (idq ++ ([0x80, 0x80] ++ ends.flatten))

/-- The node above a node, its sibling and its number being given; up to the root. -/
def lmsUp (id : List Byte) : List (List Byte) → Nat → List Byte → List Byte
  | [], _, x => x
  | y :: r, n, x =>
    lmsUp id r (n / 2) (hash24 (id ++ (beBytes 4 (n / 2) ++ ([0x83, 0x83] ++ if n % 2 = 1 then y ++ x else x ++ y))))

/-- The hash of the leaf with a node number. -/
def lmsLeaf (id : List Byte) (n : Nat) (key : List Byte) : List Byte := hash24 (id ++ (beBytes 4 n ++ ([0x82, 0x82] ++ key)))

/-- Pieces of 24 bytes. -/
def pieces24 (n : Nat) (bs : List Byte) : List (List Byte) := (List.range n).map fun i => (bs.drop (24 * i)).take 24

/-- The root that a signature of a message leads to. -/
def lmsRoot (id msg sig : List Byte) : List Byte :=
  let q := beNat (sig.take 4)
  let idq := id ++ sig.take 4
  let ends := List.zipWith (fun (x : Nat × Nat) y => otsChain idq x.1 (15 - x.2) x.2 y)
    ((otsMessage idq ((sig.drop 8).take 24) msg).zipIdx.map fun x => (x.2, x.1)) (pieces24 51 (sig.drop 32))
  lmsUp id (pieces24 20 (sig.drop 1260)) (2 ^ 20 + q) (lmsLeaf id (2 ^ 20 + q) (otsKey idq ends))

/-- An LMS signature of 1,740 bytes of a message verifies with a public key of 48 bytes. -/
def lmsVerify (key msg sig : List Byte) : Bool :=
  key.take 8 == beBytes 4 lmsType ++ beBytes 4 otsType && decide (beNat (sig.take 4) < 2 ^ 20) &&
    (sig.drop 4).take 4 == beBytes 4 otsType && (sig.drop 1256).take 4 == beBytes 4 lmsType &&
    lmsRoot ((key.drop 8).take 16) msg sig == key.drop 24

/-- A node of the tree of a private key: `h` levels above the leaves. `elt q i` is element `i` of leaf `q`. -/
def lmsNode (id : List Byte) (elt : Nat → Nat → List Byte) : Nat → Nat → List Byte
  | 0, n =>
    let q := n - 2 ^ 20
    let idq := id ++ beBytes 4 q
    lmsLeaf id n (otsKey idq ((List.range 51).map fun i => otsChain idq i 15 0 (elt q i)))
  | h + 1, n => hash24 (id ++ (beBytes 4 n ++ ([0x83, 0x83] ++ (lmsNode id elt h (2 * n) ++ lmsNode id elt h (2 * n + 1)))))

/-- The public key of a private key. -/
def lmsPublic (id : List Byte) (elt : Nat → Nat → List Byte) : List Byte :=
  beBytes 4 lmsType ++ (beBytes 4 otsType ++ (id ++ lmsNode id elt 20 1))

/-- The signature of a message by leaf `q` with the randomizer `c`: leaf, one-time signature, type, path to the root. -/
def lmsSign (id : List Byte) (elt : Nat → Nat → List Byte) (q : Nat) (c msg : List Byte) : List Byte :=
  let idq := id ++ beBytes 4 q
  let ys := ((otsMessage idq c msg).zipIdx.map fun x => otsChain idq x.2 x.1 0 (elt q x.2)).flatten
  let path := ((List.range 20).map fun h => lmsNode id elt h (((2 ^ 20 + q) / 2 ^ h) ^^^ 1)).flatten
  beBytes 4 q ++ (beBytes 4 otsType ++ (c ++ (ys ++ (beBytes 4 lmsType ++ path))))

end Sys2Proof.Machine
end

