-- ==== Sys2Proof/Machine/Flags.lean ====
section
/-! DEFINITION. Status registers and flag words, each computed from the state: stamp flags (R27), the registers of the
windows, and the output pins that follow the state. -/
namespace Sys2Proof.Machine

/-- Stamp flags of the time line with CYCLE_RES and MAPPED clear (R27, R40). -/
def Time.flags (t : Time) : BitVec 16 :=
  BitVec.ofNat 16 (t.gen.toNat * 4096 + (if t.state = .holdover then 4 else 0) + b2n t.disciplined * 2 + b2n t.uptime)

/-- The time line in units of 2^-16 ns. -/
def Time.now16 (t : Time) : Int := t.line / 4294967296

/-- What a keeper cycle adds to the time line (R31 to R33). -/
def Time.rate (t : Time) : Int := 51200 * (4294967296 + (if t.uptime then 0 else t.freq))

/-- This keeper edge is an array edge: every fourth one is (R15). Which of the four is the model's choice (log entry 94). -/
def State.arrayEdge (s : State) : Bool := s.time.counter % 4 = 0

/-- The time line at the last array edge, this one included (R15, R69). -/
def State.lineAtArray (s : State) : Int := s.time.line - (s.time.counter % 4 : Nat) * s.time.rate

/-- Keeper cycles to the next array edge after this keeper edge (R15). -/
def State.toArrayEdge (s : State) : Nat := 4 - s.time.counter % 4

/-- A reading of the time line at keeper-cycle resolution (R27, R36). -/
def State.now (s : State) : Inst := { t := s.time.now16, flags := s.time.flags ||| 32#16 }

/-- The mailboxes are open (R352). -/
def State.mailOpen (s : State) : Bool := 3 ≤ s.dev.state.code

/-- The keeper's work goes on: the mailboxes are open and a keeper pair works (R352, R438). -/
def State.keeperUp (s : State) : Bool := s.mailOpen && !s.faults.keeperDead

/-- The pair that does the work of pair 0 (A) or 1 (B): the other one once a pair has stopped for good (R348, R430). -/
def State.pairFor (s : State) (k : Nat) : Nat :=
  match s.faults.pairDown with
  | some .a => 1
  | some .b => 0
  | none => k

/-- The pair that does this work is out for the self-test of R430, which takes 10 µs. -/
def State.pairAway (s : State) (k : Nat) : Bool :=
  match at_ s.faults.pairOut (s.pairFor k) none with
  | some c => decide (s.time.counter < c + 12800)
  | none => false

/-- The firmware that runs the governor runs. -/
def State.governs (s : State) : Bool := s.keeperUp && !s.boot.romServes

/-- Words that an outbound ring holds (R360). -/
def Channel.fill (c : Channel) : Nat := (c.outWr + 512 - c.outRd) % 512

/-- PENDING (R352). -/
def Channel.pending (c : Channel) : Nat :=
  c.queue.length + (if c.await.isSome then 1 else 0) + (c.outbox.filter (·.counted)).length

/-- SVC_READY (R361): the outbound ring of at least one channel holds a word. -/
def State.svcReady (s : State) : Bool :=
  s.mailOpen && ((List.range 32).any fun i => (at_ s.criser.ch i {}).fill != 0)

/-- MB_READY (R352). -/
def State.mbReady (s : State) : Reg :=
  rg ((List.range 32).foldl (fun a i => a + b2n ((at_ s.criser.ch i {}).fill != 0) * 2 ^ i) 0)

/-- MB_DEV_STATE (R352). -/
def State.mbDevState (s : State) : Reg := rg (s.dev.state.code + b2n s.dev.fogPending * 16)

/-- MB_ID (R352). -/
def State.mbId (s : State) : Reg :=
  rg (0x01000000 + b2n s.boot.otp.part128 * 256 + (if s.boot.otp.part128 then 128 else 64))

/-- MB_CH_STATUS (R352). -/
def Channel.status (c : Channel) : Reg :=
  rg (c.noteDropped * 65536 + b2n c.inWriteLost * 1024 + b2n c.ringLost * 512 + b2n c.inBusy * 256 + c.pending)

/-- TL_STATUS (R36). -/
def Time.status (t : Time) : Reg :=
  rg (t.state.code * 1048576 + t.source.code * 65536 + t.flags.toNat)

/-- RB_RESET_CAUSE (R419). -/
def Boot.resetCauseReg (b : Boot) : Reg := rg (b2n b.warm * 16 + b.cause.toNat)

/-- RB_BOOT_STATUS (R419). -/
def Boot.statusReg (b : Boot) : Reg :=
  rg (b.pllUnlocked.toNat * 16777216 + b.wdCount * 65536 + b.slot1Error.toNat * 4096 + b.slot0Error.toNat * 256 +
    b.slot * 2 + b2n b.strapIgnored)

/-- RB_STRAP (R419). -/
def Boot.strapReg (b : Boot) : Reg :=
  rg (b2n b.watchdogOn * 128 + b2n b.serviceOn * 64 + b2n b.member * 32 + b2n b.chainBoot * 16 + b.strap.toNat)

/-- SAFE_STOP_N is released (R440). -/
def State.safeStopN (s : State) : Bool :=
  !(s.dev.state = .faultHalt || (s.ego.lost && (s.dev.state = .armed || s.dev.state = .running || s.dev.state = .fog)))

/-- FOG_N is released (R367, R439). -/
def State.fogN (s : State) : Bool := s.dev.state != .fog

/-- The Reset column of the signal pins (R461). -/
def IfPin.resetLevel : IfPin → RestLevel
  | .peTx | .ethTx _ | .chainUpTx | .chainDownTx => .electricalIdle
  | .xspiCk | .xspiResetN | .spiSclk _ | .spiMosi _ => .low
  | .xspiCsN | .canTx _ | .spiCsN _ => .high
  | .xspiDs | .xspiDq => .input
  | .csi _ => .terminationOff
  | .jtagTdo => .highImpedance

/-- The function of a pin has started (R392, R461): that of a link with its training, that of the boot flash with the reading of an
image from it, every other with STANDBY or FAULT_HALT. JTAG_TDO drives in boundary scan only (log entry 102). -/
def State.pinStarted (s : State) : IfPin → Bool
  | .peTx => s.boot.linkUp
  | .xspiCk | .xspiCsN | .xspiResetN | .xspiDs | .xspiDq => s.mailOpen || (s.dev.state == .keeperBoot && !s.boot.chainBoot)
  | .chainUpTx => (at_ s.chain.ports 0 {}).state != .down
  | .chainDownTx => (at_ s.chain.ports 1 {}).state != .down
  | .jtagTdo => false
  | .csi _ | .ethTx _ | .canTx _ | .spiSclk _ | .spiMosi _ | .spiCsN _ => s.mailOpen

/-- The reset state that a pin holds (R461), until its function drives it. -/
def State.pinRest (s : State) (p : IfPin) : Option RestLevel := if s.pinStarted p then none else some p.resetLevel

/-- Depth in words of a queue (R118). -/
def Queue.depth (q : Queue) : Nat := if q.depthCode = 0 then 0 else 64 * 2 ^ (q.depthCode - 1)

/-- Words a queue holds over all its rings, gap markers included (R121, R126). -/
def Queue.occupancy (q : Queue) : Nat := q.rings.toList.foldl (fun a r => a + r.words.length) 0

/-- IQ_STATUS (R127). -/
def Queue.statusReg (q : Queue) : Reg :=
  rg (b2n q.armed * 524288 + b2n (q.rings.toList.any (·.gapOpen)) * 262144 + b2n q.flag * 131072 + q.occupancy)

/-- XOFF[7:0] (R126): a pin is high while the flag of a queue that drives it is asserted, and low in FAULT_HALT. -/
def State.xoff (s : State) : BitVec 8 :=
  if s.dev.state = .faultHalt ∨ ¬ s.mailOpen then 0 else
  s.iq.toList.foldl (fun a q => if q.xoffEn && q.flag then a ||| BitVec.ofNat 8 (2 ^ q.xoffPin) else a) 0

/-- The runs of launches at a target sequencer: 0 to 15 groups, 16 with the target code of a unit. -/
def Launch.runOn (l : Launch) (target group : Nat) : Option Run :=
  if !l.issued then none
  else if group < 16 then (if l.target.toNat ≤ 16 then l.runs.find? (·.group = group) else none)
  else if l.target.toNat = target then l.runs.head? else none

/-- RUNNING, WAITING and PREEMPTED of a target (R158, R179, R211, R272, R318). -/
def State.classBits (s : State) (target group : Nat) : Nat :=
  s.dev.launches.foldl (fun a l =>
    match l.runOn target group with
    | none => a
    | some r =>
      let b := match r.status with
        | .running => 2 ^ (8 + l.cls) | .waiting => if l.withheld then 0 else 2 ^ (4 + l.cls) | .preempted => 2 ^ l.cls | .done => 0
      a ||| b) 0

/-- TT_GROUP_STATUS (R158). -/
def State.groupStatus (s : State) (g : Nat) : Reg :=
  let nib (v : BitVec 64) := (v.toNat >>> (4 * g)) % 16
  rg (nib s.faults.tileSubst * 1048576 + (15 - nib s.faults.tileIn) * 65536 +
    b2n (at_ s.tiles.groups g {}).gated * 32768 + s.classBits g g)

/-- XE_STATUS (R179). -/
def State.xeStatus (s : State) : Reg := rg (s.layout.mode * 65536 + s.classBits 0x22 16)

/-- FLAGS of the point-cloud frame (R207). -/
def Cloud.flags (c : Cloud) : Nat :=
  b2n c.truncated + b2n c.noEgoRef * 2 + b2n c.queueLost * 4 + b2n c.bookTruncated * 8 + b2n (c.overflow != 0) * 16

/-- VX_STATUS (R211). -/
def State.vxStatus (s : State) (op : Nat) : Reg :=
  rg (op * 65536 + b2n s.cloud.isOpen * 4096 + s.classBits 0x20 16)

/-- BT_STATUS (R240). -/
def State.btStatus (s : State) (active : Bool) : Reg :=
  rg (s.buoys.live * 65536 + b2n active * 16 + b2n s.ego.aligning * 8 + b2n s.ego.lost * 4 +
    b2n (!s.ego.hist.isEmpty) * 2 + b2n s.buoys.configured)

/-- Bits set in a number below 2^n. -/
def popN : Nat → Nat → Nat
  | 0, _ => 0
  | k + 1, v => v % 2 + popN k (v / 2)

/-- Lanes in service (R272). -/
def State.lanes (s : State) : Nat := popN 16 s.faults.laneIn.toNat

/-- SV_STATUS (R272). -/
def State.svStatus (s : State) (kind : Nat) : Reg :=
  rg (s.lanes * 131072 + b2n s.faults.laneSubst.isSome * 65536 + kind * 4096 + s.classBits 0x21 16)

/-- KV_STATUS (R318). -/
def State.kvStatus (s : State) (op : Nat) : Reg := rg (op * 65536 + s.classBits 0x23 16)

/-- PM_STATUS (R452). -/
def State.pmStatus (s : State) : Reg := rg (b2n (s.pm.ctr.toList.any (·.period != 0)) * 2 + b2n s.pm.running)

end Sys2Proof.Machine
end

