-- ==== Sys2Proof/Machine/Ops.lean ====
section
/-! DEFINITION. Named operations over the state: outcomes, free values, notifications and completions (ch. 14), the fault
log (R442), performance counters (R448 to R454), memory and translation (ch. 13). -/
namespace Sys2Proof.Machine

/-- The parts of the state that a command may change. `cells` is what memory holds, `devState` the device state with its
FROM and SINCE, `otp` the fuses; `mem`, `dev` and `boot` are the rest of those structures. -/
inductive Part where
  | time | ptp | pps | chars | budget | ll | iq | tiles | layout | cloud | ego | buoys | solver | calib | kv | mem | cells
  | criser | devState | dev | chain | boot | otp | faults | pm | pins | free
  deriving DecidableEq, Repr

/-- The named parts as they are in `t`, everything else, the queue included, as it is in `s`. -/
def State.only (s t : State) (ps : List Part) : State where
  pending := s.pending
  time := if ps.contains .time then t.time else s.time
  ptp := if ps.contains .ptp then t.ptp else s.ptp
  pps := if ps.contains .pps then t.pps else s.pps
  chars := if ps.contains .chars then t.chars else s.chars
  budget := if ps.contains .budget then t.budget else s.budget
  ll := if ps.contains .ll then t.ll else s.ll
  iq := if ps.contains .iq then t.iq else s.iq
  tiles := if ps.contains .tiles then t.tiles else s.tiles
  layout := if ps.contains .layout then t.layout else s.layout
  cloud := if ps.contains .cloud then t.cloud else s.cloud
  ego := if ps.contains .ego then t.ego else s.ego
  buoys := if ps.contains .buoys then t.buoys else s.buoys
  solver := if ps.contains .solver then t.solver else s.solver
  calib := if ps.contains .calib then t.calib else s.calib
  kv := if ps.contains .kv then t.kv else s.kv
  mem := { (if ps.contains .mem then t.mem else s.mem) with
    cells := if ps.contains .cells then t.mem.cells else s.mem.cells }
  criser := if ps.contains .criser then t.criser else s.criser
  dev := { (if ps.contains .dev then t.dev else s.dev) with
    state := if ps.contains .devState then t.dev.state else s.dev.state
    from_ := if ps.contains .devState then t.dev.from_ else s.dev.from_
    since := if ps.contains .devState then t.dev.since else s.dev.since }
  chain := if ps.contains .chain then t.chain else s.chain
  boot := { (if ps.contains .boot then t.boot else s.boot) with
    otp := if ps.contains .otp then t.boot.otp else s.boot.otp }
  faults := if ps.contains .faults then t.faults else s.faults
  pm := if ps.contains .pm then t.pm else s.pm
  pins := if ps.contains .pins then t.pins else s.pins
  free := if ps.contains .free then t.free else s.free

/-- What a notification may change: the channel's ring, or the chain port that it leaves by. -/
def noteParts : List Part := [.criser, .chain, .pm, .pins, .free]

/-- What the completion of a command may change. -/
def ansParts : List Part := noteParts ++ [.dev]

/-- What an entry of the fault log with its notification may change. -/
def logParts : List Part := noteParts ++ [.faults]

/-- What a unit that goes on in its list, or ends it, may change. -/
def unitParts : List Part := ansParts ++ [.faults, .mem, .budget, .calib]

/-- What a reset may change: everything but the fuses. -/
def resetParts : List Part := [.time, .ptp, .pps, .chars, .budget, .ll, .iq, .tiles, .layout, .cloud, .ego, .buoys, .solver,
  .calib, .kv, .mem, .cells, .criser, .devState, .dev, .chain, .boot, .faults, .pm, .pins]

/-- The outcome of a command that comes to `t` and may change the named parts: the command's frame. -/
def fin (s : State) (ps : List Part) (t : State) : Host.Outcome State Fault Refusal := .next (s.only t ps)

/-- Take `n` free values; answer the index of the first. -/
def State.take (s : State) (n : Nat) : Nat × State := (s.free, { s with free := s.free + n })

/-- Free bytes from an index on. -/
def freeBytes (i n : Nat) : List Byte := (List.range n).map fun k => Config.freeByte (i + k)

/-- A quotient that the spec states without its rounding: either neighbouring integer, freely (log entry 10). -/
def divFree (k : Nat) (a : Int) (b : Nat) : Int := if a % (b : Int) = 0 then a / (b : Int) else a / (b : Int) + (Config.freeNat k % 2 : Nat)

/-- `n` bytes from offset `o`; bytes beyond the end are free. -/
def grab (k : Nat) (bs : List Byte) (o n : Nat) : List Byte :=
  let r := (bs.drop o).take n
  r ++ freeBytes k (n - r.length)

/-- Keeper cycles in one second, one millisecond and one microsecond of counter time (R479). -/
def cycSec : Nat := 1280000000
def cycMs : Nat := 1280000
def cycUs : Nat := 1280

/-! ### Performance counters (R448 to R454) -/

/-- Occurrences that make one unit of an event (R449). -/
def unitOf (ev : Nat) : Nat :=
  if ev = 0x30 ∨ ev = 0x34 ∨ ev = 0x46 ∨ ev = 0x98 ∨ ev = 0x99 ∨ ev = 0x9A ∨ ev = 0x9B then 64
  else if ev = 0x31 ∨ ev = 0x33 ∨ ev = 0x72 ∨ ev = 0x73 ∨ ev = 0x75 then 16
  else if ev = 0x41 ∨ ev = 0x42 ∨ ev = 0x43 ∨ ev = 0x44 ∨ ev = 0x54 then 8
  else if ev = 0x45 ∨ ev = 0x53 then 256
  else if ev = 0x64 then 512
  else if ev = 0x69 ∨ ev = 0x70 ∨ ev = 0x71 then 2048
  else if ev = 0x78 ∨ ev = 0x79 then 8192
  else 1

/-- Add `n` units to a counter; answer it with the sample requests raised (R450, R454). -/
def Counter.add (c : Counter) (n : Nat) : Counter × Nat :=
  let v := c.value + n
  if v < 2 ^ 48 then ({ c with value := v }, 0)
  else if c.period = 0 then ({ c with value := v % 2 ^ 48, wrapped := true }, 0)
  else
    let excess := v - 2 ^ 48
    ({ c with value := 2 ^ 48 - c.period + excess % c.period }, 1 + excess / c.period)

/-- Value and WRAPPED that a latch in an array cycle takes: those from before any addition, and before a PM_SET, of that
cycle (R451). -/
def Counter.latched (c : Counter) (now : Nat) : Nat × Bool :=
  match c.old with
  | some (n, v, w) => if n = now then (v, w) else (c.value, c.wrapped)
  | none => (c.value, c.wrapped)

/-- What a counter held before the array cycle `now`, kept when the cycle changes it. -/
def Counter.before (c : Counter) (now : Nat) : Option (Nat × Nat × Bool) := some (now, c.latched now)

/-- The launch target and sequencer of a counter's block, and the bytes of its commands (R455). -/
def sampleUnit (i : Nat) : Option (Nat × Nat × Nat) :=
  let b := (i - 272) / 8
  if i < 256 then some (i / 16, i / 16, 32)
  else if i < 272 then none
  else if b < 16 then some (b, b, 32)
  else if b = 16 then some (0x21, 16, 128) else if b = 17 then some (0x20, 16, 128) else if b = 18 then some (0x22, 16, 128)
  else if b = 19 ∨ b = 20 then some (0x23, 16, 128) else none

/-- The unit that the counters of a spare tile watch: the group of the position that it serves. -/
def State.spareUnit (s : State) (i : Nat) : Option (Nat × Nat × Nat) :=
  if i < 256 ∨ 272 ≤ i then none else
  let q := (i - 256) / 4
  ((List.range 16).find? fun k => s.faults.tileSubst.getLsbD (16 * q + k)).map fun k =>
    ((16 * q + k) / 4, (16 * q + k) / 4, 32)

/-- A sample request of a counter (R455): TARGET, list and command in progress of its unit, or an idle unit. -/
def State.raise (s : State) (i : Nat) : Raised :=
  let at_ : Raised := { cycle := s.time.counter / 4 }
  match (sampleUnit i).or (s.spareUnit i) with
  | none => at_
  | some (t, g, size) =>
    match s.dev.launches.find? fun l => (l.runOn t g).any (·.status = .running) with
    | none => at_
    | some l =>
      if l.ego then { at_ with target := l.target.toNat } else
      let pc := ((l.runOn t g).map (·.pc)).getD l.listVa
      { at_ with target := l.target.toNat, listVa := l.listVa, pc := pc, size := size }

/-- One counter counts `n` occurrences of an event (R450, R451, R454, R455, R458). -/
def State.countOne (s : State) (i ev n : Nat) : State :=
  let c := at_ s.pm.ctr i {}
  if c.event.toNat ≠ ev ∨ n = 0 then s else
  let u := unitOf ev
  let tot := c.carry + n
  let (c', reqs) := Counter.add { c with carry := tot % u } (tot / u)
  let skipped := if reqs = 0 then 0 else if !s.pm.running then reqs else if c.request.isSome then reqs else reqs - 1
  { s with pm := { s.pm with
      ctr := put s.pm.ctr i { c' with
        request := if c.request.isSome then c.request else if reqs != 0 && s.pm.running then some (s.raise i) else none
        old := c.before (s.time.counter / 4) }
      samples := sat32 (s.pm.samples + reqs)
      skipped := sat32 (s.pm.skipped + skipped)
      seq := if s.pm.running then (s.pm.seq + skipped) % 2 ^ 48 else s.pm.seq } }

/-- A block counts `n` occurrences of an event in its 8 counters; counters hold in other states than STANDBY, ARMED and
RUNNING (R451). -/
def State.count (s : State) (block ev n : Nat) : State :=
  if s.dev.state = .standby ∨ s.dev.state = .armed ∨ s.dev.state = .running then
    (List.range 8).foldl (fun s c => s.countOne (272 + 8 * block + c) ev n) s
  else s

/-- OVERRUNS counts the array cycles in which at least one occurs (R449). -/
def State.countOverrun (s : State) : State :=
  let now := s.time.counter / 4
  if s.pm.overrunAt = some now then s else { s with pm := { s.pm with overrunAt := some now } }.count 31 0x92 1
/-- DEADLINE_MISSED (R449): likewise. -/
def State.countMissed (s : State) : State :=
  let now := s.time.counter / 4
  if s.pm.missedAt = some now then s else { s with pm := { s.pm with missedAt := some now } }.count 31 0x93 1

/-- A tile counts `n` occurrences of an event in its 4 counters. -/
def State.countTile (s : State) (tile ev n : Nat) : State :=
  if s.dev.state = .standby ∨ s.dev.state = .armed ∨ s.dev.state = .running then
    (List.range 4).foldl (fun s c => s.countOne (4 * tile + c) ev n) s
  else s

/-! ### Flits of the chain ports (R374, R375, R449) -/

/-- Flit classes (R375). -/
def flitTime : Nat := 1
def flitControl : Nat := 2
def flitTensor : Nat := 3

/-- Flits that a message of some bytes takes: 240 bytes of payload each (R374). -/
def flitsOf (bytes : Nat) : Nat := max 1 ((bytes + 239) / 240)

/-- The flits of a message: 240 bytes of payload each, the message complete with the last (R374). -/
def flitsFor (cls : Nat) (bs : List Byte) (x : Option Sent) : List Flit :=
  let n := flitsOf bs.length
  (List.range n).map fun i =>
    { cls := cls, data := (bs.drop (240 * i)).take 240, carries := if i + 1 = n then x else none }

/-- One bit of the CRC of ECMA-182 (R262, R374). -/
def crcBit (c : BitVec 64) (b : Bool) : BitVec 64 :=
  if c.msb != b then (c <<< 1) ^^^ 0x42F0E1EBA9EA3693#64 else c <<< 1

def crcByte (c : BitVec 64) (b : Byte) : BitVec 64 := [7, 6, 5, 4, 3, 2, 1, 0].foldl (fun c i => crcBit c (b.getLsbD i)) c

def crc64 (bs : List Byte) : Word := bs.foldl crcByte 0

/-- The `n`-th flit of a port as it is sent (R374): 8 bytes of header and 240 of payload with their CRC-64. What the header
holds, and the payload beyond a message, the spec does not give (log entry 76). -/
def Flit.sent (f : Flit) (port n : Nat) : Flit :=
  let own := fun (k : Nat) => Config.flitByte port n k
  let bs := (List.range 8).map own ++ f.data ++ (List.range (240 - f.data.length)).map fun k => own (8 + k)
  { f with image := bs ++ leBytes 8 (crc64 bs).toNat }

/-- A port sends flits: counted, and kept in the replay buffer of the last 64 (R374). -/
def State.putFlits (s : State) (port : Nat) (fs : List Flit) : State :=
  let p := at_ s.chain.ports port {}
  let held := p.replay ++ fs.zipIdx.map fun x => x.1.sent port (p.flits + x.2)
  let p := { p with replay := held.drop (held.length - 64), flits := p.flits + fs.length }
  let s := { s with
    chain := { s.chain with ports := put s.chain.ports port p }
    pins := { s.pins with sent := s.pins.sent ++ fs.filterMap Flit.carries } }
  s.count 33 (if port = 0 then 0xA2 else 0xA0) fs.length

/-- A message leaves by a port: at once while it is up; while it retrains, or stops for a spare lane, its flits wait (R377); a
port that is down, or has not trained yet, carries nothing. -/
def State.sendMsg (s : State) (port cls : Nat) (bs : List Byte) (x : Option Sent) : State :=
  let p := at_ s.chain.ports port {}
  if p.state = .up ∧ ¬ p.stopped then s.putFlits port (flitsFor cls bs x)
  else if p.state = .up ∨ (p.state = .training ∧ p.retrain) then
    { s with chain := { s.chain with
      ports := put s.chain.ports port { p with waiting := p.waiting ++ flitsFor cls bs x } } }
  else s

/-- CONTROL flits among TENSOR flits: at most 1 slot in 16 while TENSOR flits wait (R375). -/
def mixFlits : List Flit → List Flit → List Flit
  | [], ts => ts
  | c :: cs, ts => c :: ts.take 15 ++ mixFlits cs (ts.drop 15)

/-- The order in which waiting flits take the slots of a port (R375): TIME first, CONTROL before TENSOR within its share; within
a class the order in which they came. -/
def slotOrder (fs : List Flit) : List Flit :=
  let of := fun (k : Nat) => fs.filter fun f => f.cls == k
  of flitTime ++ mixFlits (of flitControl) (of flitTensor)

/-- A port receives flits. -/
def State.recvFlits (s : State) (port n : Nat) : State := s.count 33 (if port = 0 then 0xA3 else 0xA1) n

/-- A chain port carries traffic. -/
def State.portUp (s : State) (port : Nat) : Bool :=
  let p := at_ s.chain.ports port {}
  p.state = .up && !p.stopped

/-- The block has put something on a wire. -/
def State.emit (s : State) (x : Sent) : State := { s with pins := { s.pins with sent := s.pins.sent ++ [x] } }

/-! ### Notifications (R355, R358, R360, R362, R365, R380) -/

/-- A message placed in a channel's outbound ring (R360). -/
def Channel.place (c : Channel) (msg : List Word) : Channel :=
  { c with
    ring := (msg.zipIdx).foldl (fun r p => Machine.put r ((c.outWr + p.2) % 256) p.1) c.ring
    outWr := (c.outWr + msg.length) % 512 }

/-- The same, if the whole of it fits (R360). -/
def Channel.put (c : Channel) (msg : List Word) : Option Channel :=
  if c.fill + msg.length ≤ 256 then some (c.place msg) else none

/-- The words of a message as a channel's ring takes them: after a stray OUT_RD what the controller reads is free (R372.1). -/
def State.ringWords (s : State) (c : Channel) (msg : List Word) : List Word × State :=
  if c.strayRd then
    let (k, s) := s.take (2 * msg.length)
    ((List.range msg.length).map fun j => Config.freeReg (k + 2 * j) ++ Config.freeReg (k + 2 * j + 1), s)
  else (msg, s)

/-- A message header (R354). -/
def header (op kind len seq tag : Nat) : Word :=
  pack [(op, 63, 52), (kind, 49, 48), (len, 47, 32), (seq, 31, 16), (tag, 15, 0)]

/-- A member with its service port strapped off (R380). -/
def State.toLead (s : State) : Bool := s.boot.member && !s.boot.serviceOn

/-- A member's notification goes to the lead, or is dropped before an enumeration (R380). -/
def State.noteToLead (s : State) (msg : List Word) : State :=
  if s.chain.enumerated then s.sendMsg 0 flitControl (wordBytes msg) (some (.noteToLead msg)) else s

/-- Write one notification now (R358, R360, R362, R380). A member without a service port drops it before an enumeration and
while it is cut off. After a stray OUT_RD its words are free, and whether it is dropped too (R372.1). -/
def State.writeNote (s : State) (n : Note) : State :=
  let sub := at_ s.criser.subj (n.opcode / 256) (0, false)
  if !s.keeperUp || !sub.2 then s else
  let i := if s.toLead then 32 else sub.1
  let c := at_ s.criser.ch i {}
  let (k, s) := s.take (b2n c.strayRd)
  let lost := c.strayRd && Config.freeNat k % 2 == 1
  let seq := c.noteCtr + 1
  let msg := header n.opcode 2 n.words.length seq.toNat 0 :: n.words
  if s.toLead then
    State.noteToLead { s with criser := { s.criser with ch := put s.criser.ch 32 { c with noteCtr := seq } } } msg
  else
    let (msg, s) := s.ringWords c msg
    let x := { c with noteCtr := seq }
    let c' := match (if lost then none else if c.strayRd then some (x.place msg) else x.put msg) with
      | some c' => c'
      | none => { x with noteDropped := min 255 (c.noteDropped + 1) }
    { s with criser := { s.criser with ch := put s.criser.ch i c' } }

/-- A waiting notification goes before one of this opcode's subject (R365). -/
def Criser.waits (c : Criser) (opcode : Nat) : Bool := c.later.any fun p => p.2.opcode / 256 == opcode / 256

/-- Generate a notification: at once, after the completion of the command being applied, or after an earlier one of its
subject that still waits for such a completion (R365). -/
def State.notify (s : State) (opcode : Nat) (ws : List Word) : State :=
  let n : Note := { opcode := opcode, words := ws }
  match s.criser.hold with
  | some ns => { s with criser := { s.criser with hold := some (ns ++ [n]) } }
  | none =>
    if s.criser.waits opcode then { s with criser := { s.criser with later := s.criser.later ++ [(none, n)] } }
    else s.writeNote n

/-- Write the waiting notifications that wait for no completion and for no earlier one of their subject (R365); the others,
after subjects that already wait, stay in order. -/
def flushNotes : List (Option Nat × Note) → List Nat → State → State × List (Option Nat × Note)
  | [], _, s => (s, [])
  | (w, n) :: r, stuck, s =>
    if w.isSome || stuck.contains (n.opcode / 256) then
      let x := flushNotes r (n.opcode / 256 :: stuck) s
      (x.1, (w, n) :: x.2)
    else flushNotes r stuck (s.writeNote n)

/-- The completion of a command has been written: its notifications follow (R365). -/
def State.completed (s : State) (order : Nat) : State :=
  let ns := s.criser.later.map fun p => if p.1 = some order then (none, p.2) else p
  let x := flushNotes ns [] { s with criser := { s.criser with later := [] } }
  { x.1 with criser := { x.1.criser with later := x.2 } }

/-- Bits of PCI Express' uncorrectable error status that an answer sets (R351, log entry 97). -/
def BusRead.aer : BusRead → BitVec 32
  | .abort => 0x8000
  | .unsupportedRequest => 0x100000
  | .reg _ | .wide _ | .bytes _ => 0

/-- What a read over the service port answers. -/
def State.answerBus (s : State) (r : BusRead) : State :=
  { s with pins := { s.pins with lastRead := some r }
           boot := { s.boot with svc := { s.boot.svc with aer := s.boot.svc.aer ||| r.aer } } }

/-- May one more event of this kind be sent, when at most `n` are sent in a second (R479)? -/
def State.rateOk (s : State) (key obj n : Nat) : Bool :=
  match s.criser.rate.find? (fun r => r.1 == key && r.2.1 == obj) with
  | none => true
  | some r => (r.2.2.filter fun t => s.time.counter < t + cycSec).length < n

/-- Record that an event of this kind has been sent. -/
def State.rateMark (s : State) (key obj : Nat) : State :=
  let old := match s.criser.rate.find? (fun r => r.1 == key && r.2.1 == obj) with | none => [] | some r => r.2.2
  let ts := s.time.counter :: old.filter fun t => s.time.counter < t + cycSec
  { s with criser := { s.criser with
      rate := (key, obj, ts) :: s.criser.rate.filter fun r => !(r.1 == key && r.2.1 == obj) } }

/-- Generate a notification of a kind that is sent at most `n` times per second for an object. -/
def State.notifyLimited (s : State) (opcode event obj n : Nat) (ws : List Word) : State :=
  if s.rateOk (opcode * 256 + event) obj n then (s.rateMark (opcode * 256 + event) obj).notify opcode ws else s

/-- An event notification of the common form: w0, the stamp of now in w1 and w2, and a value in w3. -/
def State.event (s : State) (opcode : Nat) (w0 w3 : Word) : State :=
  s.notify opcode ([w0] ++ s.now.words ++ [w3])

/-- The same, at most `n` times per second for an object. -/
def State.eventLimited (s : State) (opcode ev obj n : Nat) (w0 w3 : Word) : State :=
  s.notifyLimited opcode ev obj n ([w0] ++ s.now.words ++ [w3])

/-- TIME_EVENT (R59, R60). -/
def State.timeEvent (s : State) (ev : Nat) (value : Int) : State :=
  let w0 := pack [(s.time.source.code, 11, 8), (ev, 7, 0)]
  if ev = 6 then s.eventLimited 0x1F0 6 0 1 w0 (wdI value) else s.event 0x1F0 w0 (wdI value)

/-! ### The fault log (R442, R445) -/

/-- Write a fault-log entry and send FL_EVENT, at most 64 per second. WHEN is the stamp of detection: now, or where the fault was
detected before, `seen`. -/
def State.log (s : State) (cls action unit target addr detail : Nat) (seen : Option Stamp := none) : State :=
  if s.faults.keeperDead then s else
  let w := seen.getD s.now.stamp
  let f := s.faults
  let e : LogEntry :=
    { w0 := w.w0, w1 := w.w1
      w2 := pack [(f.next, 63, 32), (cls, 31, 24), (action, 23, 20), (unit, 19, 8)]
      w3 := pack [(target, 63, 56), (addr, 47, 0)], w4 := wd detail }
  let full := 256 ≤ f.log.length
  let s := { s with faults := { f with
    log := (if full then f.log.drop 1 else f.log) ++ [(f.next, e)]
    next := (f.next + 1) % 2 ^ 32
    overwrites := if full then sat32 (f.overwrites + 1) else f.overwrites } }
  s.notifyLimited 0xBF0 0 0 64
    [pack [(cls, 31, 24), (action, 23, 20), (unit, 19, 8)], e.w0, e.w1, wd f.next]

/-! ### Memory (ch. 13) -/

/-- The byte at a device address (R323, R390: an unlisted byte is 0). -/
def memGet : List Host.Cell → Nat → Byte
  | [], _ => 0
  | (k, b) :: r, a => if k = a then b else if a < k then 0 else memGet r a

/-- The cells with one byte written, in canonical form. -/
def memSet : List Host.Cell → Nat → Byte → List Host.Cell
  | [], a, v => if v = 0 then [] else [(a, v)]
  | (k, b) :: r, a, v =>
    if a < k then (if v = 0 then (k, b) :: r else (a, v) :: (k, b) :: r)
    else if a = k then (if v = 0 then r else (a, v) :: r)
    else (k, b) :: memSet r a v

/-- Bytes from a device address on. -/
def memBytes (m : List Host.Cell) (a n : Nat) : List Byte := (List.range n).map fun i => memGet m (a + i)

/-- The cells with bytes written from a device address on. -/
def memPut (m : List Host.Cell) (a : Nat) : List Byte → List Host.Cell
  | [] => m
  | b :: bs => memPut (memSet m a b) (a + 1) bs

/-- The canonical form of memory: addresses rise strictly and no listed byte is 0. -/
def memWf : List Host.Cell → Bool
  | [] => true
  | [(_, b)] => b != 0
  | (a, b) :: (c, d) :: r => b != 0 && decide (a < c) && memWf ((c, d) :: r)

/-- Targets of the device address map (R323). -/
inductive Place where
  | lpddr | reserve | near | regs | gather | scatter | hole
  deriving DecidableEq, Repr

/-- The target of a device address (R323). -/
def place (part128 : Bool) (a : Nat) : Place :=
  let top := if part128 then 0x1FC0000000 else 0x0FC0000000
  if a < top then .lpddr
  else if a < top + 0x40000000 then .reserve
  else if 0x4000000000 ≤ a ∧ a < 0x4040000000 then .near
  else if 0x5000000000 ≤ a ∧ a < 0x5000100000 then .regs
  else if 0x200000000000 ≤ a ∧ a < 0x400000000000 then .gather
  else if 0x400000000000 ≤ a ∧ a < 0x600000000000 then .scatter
  else .hole

/-- Faults of an access (R333, R336, R436). -/
inductive MemFault where
  | translation | protection | uncorrectable | unavailable
  deriving DecidableEq, Repr

/-- Permissions an access needs (R336). -/
inductive Need where
  | rd | wr | ls
  deriving DecidableEq, Repr

/-- Size in bytes of the region that entry words map. -/
def regionSize (w0 w2 : Word) : Nat := bits w2 31 0 * 2 ^ bits w0 56 52

/-- A valid entry covers a virtual address (R334, R336). -/
def regionCovers (w0 w2 : Word) (va : Nat) : Bool :=
  bit w0 63 && decide (bits w0 47 0 ≤ va ∧ va < bits w0 47 0 + regionSize w0 w2)

/-- Translate one virtual address (R334, R336). -/
def State.translate (s : State) (va : Nat) (need : Need) : Except MemFault Nat :=
  match s.mem.regions.find? fun r => regionCovers r.2.1 r.2.2.2 va with
  | none => .error .translation
  | some (_, w0, w1, _) =>
    let ok := match need with | .rd => bit w0 62 | .wr => bit w0 61 | .ls => bit w0 60
    if ok then .ok (bits w1 47 0 + (va - bits w0 47 0)) else .error .protection

/-- The LPDDR5X channel of a device address (R328). -/
def chanOf (a : Nat) : Nat :=
  let b := a / 256
  (b ^^^ (b >>> 6) ^^^ (b >>> 12)) % 64

/-- The LPDDR5X bank and row of a device address within its channel (R481). -/
def bankRowOf (a : Nat) : Nat × Nat :=
  let k := (a / 256) >>> 6
  (((k >>> 3) ^^^ (k >>> 17)) % 16, k >>> 7)

/-- Split an access at 4 KiB boundaries: pieces of (virtual address, length) (R336). -/
def pieces : Nat → Nat → Nat → List (Nat × Nat)
  | 0, _, _ => []
  | _, _, 0 => []
  | fuel + 1, va, len =>
    let n := min len (4096 - va % 4096)
    (va % 2 ^ 48, n) :: pieces fuel ((va + n) % 2 ^ 48) (len - n)

/-- The pieces of an access of any length. -/
def split4k (va len : Nat) : List (Nat × Nat) := pieces (len / 4096 + 2) (va % 2 ^ 48) len

/-- Two lists of byte runs overlap. -/
def runsMeet (a b : List (Nat × Nat)) : Bool :=
  a.any fun x => b.any fun y => decide (x.1 < y.1 + y.2 ∧ y.1 < x.1 + x.2)

/-- Two of several lists of byte runs overlap. -/
def pairsMeet : List (List (Nat × Nat)) → Bool
  | [] => false
  | a :: r => r.any (runsMeet a) || pairsMeet r

/-- A byte run before others; it is one with the first of them where they touch. -/
def joinRun (p : Nat × Nat) : List (Nat × Nat) → List (Nat × Nat)
  | q :: r => if p.1 + p.2 = q.1 then (p.1, p.2 + q.2) :: r else p :: q :: r
  | [] => [p]

/-- The device addresses behind runs of virtual addresses, so that two virtual names of one place are seen as one (R334);
what no region covers has none. -/
def State.places (s : State) (rs : List (Nat × Nat)) : List (Nat × Nat) :=
  (((rs.map fun r => split4k r.1 r.2).flatten).filterMap fun p =>
    (s.mem.regions.find? fun r => regionCovers r.2.1 r.2.2.2 p.1).map fun r =>
      (bits r.2.2.1 47 0 + (p.1 - bits r.2.1 47 0), p.2)).foldr joinRun []

/-- Two lists of virtual runs share a place. -/
def State.meet (s : State) (a b : List (Nat × Nat)) : Bool := runsMeet (s.places a) (s.places b)

/-- The bytes behind runs of virtual addresses as memory holds them, without an access. -/
def State.peek (s : State) (va n : Nat) : List Byte :=
  ((s.places [(va, n)]).map fun p => memBytes s.mem.cells p.1 p.2).flatten

/-- Two of several lists of virtual runs share a place. -/
def State.anyMeet (s : State) (rs : List (List (Nat × Nat))) : Bool := pairsMeet (rs.map s.places)

/-- A piece of an access that a unit makes: its device address and target, or its fault. -/
def State.target (s : State) (va : Nat) (need : Need) : Except MemFault (Nat × Place) :=
  match s.translate va need with
  | .error e => .error e
  | .ok da =>
    match place s.boot.otp.part128 da with
    | .hole => .error .translation
    | .reserve => .error .translation
    | .regs => .error .protection
    | .lpddr => if s.mem.reachable then .ok (da, .lpddr) else .error .unavailable
    | p => .ok (da, p)

/-- The words of 8 bytes that a list of erroneous words shares with an access. -/
def hits (ws : List Nat) (da n : Nat) : List Nat := ws.filter fun w => decide (w < da + n ∧ da < w + 8)

/-! ### Row and bank sparing of near SRAM (R431, R480) -/

/-- Bank, tier and row of a near-SRAM device address, and the device address of a row's lowest byte (R325, R480). -/
def nearOf (da : Nat) : Nat × Nat × Nat :=
  let o := da - 0x4000000000
  (o / 0x1000000, (o / 128) % 4, (o / 4096) % 4096)
def nearBase (bank tier row : Nat) : Nat := 0x4000000000 + bank * 0x1000000 + row * 4096 + tier * 128

/-- A class has used half of its spares (R434): written once per class. -/
def State.wearHalf (s : State) (cls unit used total : Nat) : State :=
  if 2 * used < total ∨ s.faults.wearHalf.contains (BitVec.ofNat 8 cls) then s else
  { s with faults := { s.faults with wearHalf := BitVec.ofNat 8 cls :: s.faults.wearHalf } }.log 0x11 0 unit 0 0 0

/-- A bank needs its quadrant's spare bank (R431): a background copy begins, or the bank is kept (R426). -/
def State.spareBank (s : State) (bank : Nat) : State :=
  let f := s.faults
  if f.bankCopy.any (·.1 == bank) ∨ f.bankKept.getLsbD bank then s
  else if f.bankSpareGone.getLsbD (bank / 16) ∨ f.bankSubst.getLsbD bank then
    { s with faults := { f with bankKept := f.bankKept ||| BitVec.ofNat 64 (2 ^ bank) } }.log 0x06 0 bank 0
      (nearBase bank 0 0) 0
  else { s with faults := { f with
    bankCopy := f.bankCopy ++ [(bank, s.now.stamp)], bankSpareGone := f.bankSpareGone ||| BitVec.ofNat 4 (2 ^ (bank / 16)) } }

/-- A near-SRAM row is spared (R431); a row already on a spare row stays there. The bank is spared when 3 rows of one tier
need sparing within 1 s, or when the tier's spare rows have run out. -/
def State.spareNearRow (s : State) (bank tier row : Nat) : State :=
  let f := s.faults
  if f.nearRows.contains (bank, tier, row) then s
  else if 32 ≤ (f.nearRows.filter fun r => r.1 == bank && r.2.1 == tier).length then s.spareBank bank
  else
    let times := (bank, tier, s.time.counter) :: f.nearTimes.filter fun r => decide (s.time.counter < r.2.2 + cycSec)
    let s := { s with faults := { f with nearRows := f.nearRows ++ [(bank, tier, row)], nearTimes := times } }
    let s := s.log 0x05 1 bank 0 (nearBase bank tier row) 0
    let s := s.wearHalf 0x05 bank s.faults.nearRows.length 8192
    if 3 ≤ (times.filter fun r => r.1 == bank && r.2.1 == tier).length then s.spareBank bank else s

/-- An uncorrectable error met at a device address: counted, latched and notified (R333); a near-SRAM row with one is
spared (R431). -/
def State.meetUe (s : State) (da : Nat) : State :=
  let m := s.mem
  let n := nearOf da
  let s := { s with mem := { m with
    ue := sat32 (m.ue + 1), ueTotal := sat32 (m.ueTotal + 1)
    ueDa := if m.ue = 0 then da else m.ueDa, ueScrub := if m.ue = 0 then false else m.ueScrub } }
  let s := s.eventLimited 0x8F0 1 0 1 (wd 1) (wd da)
  if place s.boot.otp.part128 da = .near then s.spareNearRow n.1 n.2.1 n.2.2 else s

/-- Correctable errors met: counted (R333). -/
def State.meetCe (s : State) (n : Nat) : State :=
  if n = 0 then s else
  { s with mem := { s.mem with ce := sat32 (s.mem.ce + n), ceTotal := sat32 (s.mem.ceTotal + n) } }

/-- The bytes of an access in each 256-byte block: channel and number (R328). -/
def chanRuns (da n : Nat) : List (Nat × Nat) :=
  (List.range ((da + n + 255) / 256 - da / 256)).map fun i =>
    let a := max da ((da / 256 + i) * 256)
    (chanOf a, min (da + n) ((da / 256 + i + 1) * 256) - a)

/-- An access to LPDDR5X by BAR2 or a launch wakes its channels (R329) and is counted in their blocks (R449). -/
def State.touchLpddr (s : State) (da n : Nat) (write : Bool) : State :=
  let rs := chanRuns da n
  let mask := rs.foldl (fun m r => m ||| BitVec.ofNat 64 (2 ^ r.1)) 0
  let s := { s with mem := { s.mem with
    lastLpddr := s.time.counter
    asleep := if s.dev.state = DevState.fog then s.mem.asleep else s.mem.asleep &&& ~~~ mask } }
  (List.range 4).foldl (fun s g =>
    let k := ((rs.filter fun r => r.1 / 16 == g).map fun r => r.2).sum
    if k = 0 then s else s.count (21 + g) (if write then 0x71 else 0x70) k) s

/-- An access to near SRAM is counted in its bank's quadrant: as local where the position that makes it lies below that
bank, else as remote (R131, R449; log entry 87). -/
def State.touchNear (s : State) (da n : Nat) : State :=
  let b := (nearOf da).1
  s.count (25 + b / 16) (if s.tiles.at_ = some b then 0x78 else 0x79) n

/-- An access to memory by its place. -/
def State.touch (s : State) (pl : Place) (da n : Nat) (write : Bool) : State :=
  if pl = .lpddr then s.touchLpddr da n write else if pl = .near then s.touchNear da n else s

/-- The end of a list that continues at an address: behind the next END in its region, as memory now holds it; a list
without one there is seen up to its present command (log entry 96). -/
def State.listEnd (s : State) (va size : Nat) : Nat :=
  match s.mem.regions.find? fun r => regionCovers r.2.1 r.2.2.2 va with
  | none => va + size
  | some r =>
    let base := bits r.2.1 47 0
    let da := bits r.2.2.1 47 0 + (va - base)
    match s.mem.cells.find? fun c => decide (da + 7 ≤ c.1 ∧ c.1 < bits r.2.2.1 47 0 + regionSize r.2.1 r.2.2.2) &&
        (c.1 - da - 7) % size == 0 && c.2 == 1 with
    | some c => va + (c.1 - da - 7) + size
    | none => va + size

/-- The command lists of the outstanding launches, as runs of bytes. -/
def State.listRuns (s : State) : List (Nat × Nat) :=
  ((s.dev.launches.filter fun l => !l.ego).map fun l =>
    let size := if l.target.toNat ≤ 0x10 then 32 else 128
    if l.runs.isEmpty then [(l.listVa, s.listEnd l.listVa size - l.listVa)]
    else (l.runs.filter fun r => r.status != .done).map fun r => (l.listVa, s.listEnd r.pc size - l.listVa)).flatten

/-- Computations of a unit that read and write memory: a fault keeps the state reached. -/
abbrev TaskM := ExceptT MemFault (StateM State)

/-- Read `len` bytes at a virtual address with LIST privilege (R333, R334, R336). Reads of the point-cloud windows by any
access other than a tile MATMUL operand give 0 (R204). -/
def readRaw (va len : Nat) (need : Need) : TaskM (List Byte) := do
  let mut out : List (List Byte) := []
  for p in split4k va len do
    let s ← get
    match s.target p.1 need with
    | .error e => throw e
    | .ok (da, pl) =>
      match pl with
      | .gather | .scatter => out := List.replicate p.2 0 :: out
      | _ =>
        match hits s.mem.ueWords da p.2 with
        | w :: _ =>
          set ((s.touch pl da p.2 false).meetUe w)
          throw .uncorrectable
        | [] =>
          let s := s.meetCe (hits s.mem.ceWords da p.2).length
          set (s.touch pl da p.2 false)
          out := memBytes s.mem.cells da p.2 :: out
  return out.reverse.flatten

/-! ### Packages and the ring (R423, R460) -/

/-- The device range of an installed package. -/
def Package.run (m : Mem) (p : Package) : Nat × Nat :=
  match look m.regions p.region with
  | some (w0, w1, _) => (bits w1 47 0 + (p.va - bits w0 47 0), p.bytes)
  | none => (0, 0)

/-- The device ranges of the installed packages, each with its slot. -/
def State.packageRuns (s : State) : List (Nat × (Nat × Nat)) :=
  s.boot.packages.toList.zipIdx.filterMap fun x => x.1.map fun p => (x.2, p.run s.mem)

/-- The packages that an access to device memory meets. -/
def State.packagesAt (s : State) (da n : Nat) : BitVec 16 :=
  (s.packageRuns.filter fun x => runsMeet [x.2] [(da, n)]).foldl (fun m x => m ||| BitVec.ofNat 16 (2 ^ x.1)) 0

/-- What a launch reads at pieces: free bytes inside the given device ranges. -/
def State.spoilPieces (s : State) (runs : List (Nat × Nat)) : Nat → List (Nat × Nat) → List Byte → List Byte
  | _, [], _ => []
  | k, p :: r, bs =>
    let da := ((s.places [p]).headD (0, 0)).1
    ((bs.take p.2).zipIdx.map fun x =>
      if runsMeet runs [(da + x.2, 1)] then Config.freeByte (k + x.2) else x.1) ++
      s.spoilPieces runs (k + p.2) r (bs.drop p.2)

/-- Bytes at a virtual address, free inside the given device ranges. -/
def State.freeIn (s : State) (runs : List (Nat × Nat)) (va : Nat) (bs : List Byte) : List Byte × State :=
  if runs.isEmpty || !runsMeet (s.places [(va, bs.length)]) runs then (bs, s) else
  let (k, s) := s.take bs.length
  (s.spoilPieces runs k (split4k va bs.length) bs, s)

/-- The launches that run. -/
def State.running (s : State) : List Launch := s.dev.launches.filter fun l => l.runs.any (·.started)

/-- A launch has run at the same time as one that runs, or is it. -/
def State.counts (s : State) (id : Nat) : Bool := s.running.any fun l => l.id == id || l.beside.contains id

/-- The notes that still count. -/
def State.live (s : State) (es : List Use) : List Use := es.filter fun e => s.counts e.2.2

/-- The places of notes. -/
def usePlaces (es : List Use) : List (Nat × Nat) := es.map fun e => (e.1, e.2.1)

/-- The places that other launches than one have used while it ran. -/
def State.others (s : State) (i : Nat) (es : List Use) : List Use := if es.all (·.2.2 == i) then [] else (s.live es).filter (·.2.2 != i)

/-- Note a place that a launch uses. -/
def State.note (s : State) (es : List Use) (da n i : Nat) : List Use :=
  match es with
  | e :: r => if e.2.2 = i ∧ e.1 + e.2.1 = da then (e.1, e.2.1 + n, i) :: r else (da, n, i) :: s.live (e :: r)
  | [] => [(da, n, i)]

/-- The places that launches have written, after a further write (log entry 70). -/
def State.wroteAt (s : State) (da n : Nat) : List Use :=
  match s.mem.who with
  | some i => if s.mem.outside then s.mem.wrote else s.note s.mem.wrote da n i
  | none => s.mem.wrote

/-- Bytes of memory at device addresses take free values, with no access (R5). -/
def State.freeAt (s : State) (ps : List (Nat × Nat)) : State :=
  ps.foldl (fun s p => match place s.boot.otp.part128 p.1 with
    | .lpddr | .near =>
      let (k, s) := s.take p.2
      { s with mem := { s.mem with cells := memPut s.mem.cells p.1 (freeBytes k p.2) } }
    | _ => s) s

/-- The outputs of launches are undefined from now on, those already in memory too (R161, R182, R346). -/
def State.taint (s : State) (ids : List Nat) : State :=
  let new := ids.eraseDups.filter fun i => !s.mem.tainted.contains i
  if new.isEmpty then s else
  let s := s.freeAt (usePlaces (s.mem.wrote.filter fun e => new.contains e.2.2))
  { s with mem := { s.mem with tainted := new ++ s.mem.tainted.filter s.counts } }

/-- The launches among some notes that used one of some places. -/
def usersOf (es : List Use) (ps : List (Nat × Nat)) : List Nat := (es.filter fun e => runsMeet [(e.1, e.2.1)] ps).map (·.2.2)

/-- What a launch reads: free bytes in a package that has been written through another region, since its outputs are then
undefined (R423), and where BAR2, another device or a launch beside it has written while it ran (R161, R182, R346). -/
def State.spoil (s : State) (va : Nat) (bs : List Byte) : List Byte × State :=
  if s.mem.outside then (bs, s) else
  let packages := if s.mem.spoilt = 0 then [] else (s.packageRuns.filter fun x => s.mem.spoilt.getLsbD x.1).map fun x => x.2
  match s.mem.who with
  | none => s.freeIn packages va bs
  | some i =>
    let (bs, s) := s.freeIn (packages ++ usePlaces (s.mem.crossed.filter (·.2.2 == i)) ++ usePlaces (s.others i s.mem.wrote)) va bs
    (bs, { s with mem := { s.mem with reads := (s.places [(va, bs.length)]).foldl (fun es p => s.note es p.1 p.2 i) s.mem.reads } })

/-- Read `len` bytes at a virtual address. -/
def readM (va len : Nat) (need : Need := .rd) : TaskM (List Byte) := do
  let bs ← readRaw va len need
  let s ← get
  let (bs, s) := s.spoil va bs
  set s
  return bs

/-- Words of 8 bytes that a write covers only in part (R332). -/
def partWords (ws : List Nat) (da n : Nat) : List Nat :=
  (hits ws da n).filter fun w => !decide (da ≤ w ∧ w + 8 ≤ da + n)

/-- Check a write: every piece translates and no partly written word holds an uncorrectable error (R332, R336). -/
def checkWrite (va len : Nat) : TaskM (List (Nat × Nat × Place)) := do
  let mut out := []
  for p in split4k va len do
    let s ← get
    match s.target p.1 .wr with
    | .error e => throw e
    | .ok (da, pl) =>
      match (if pl = .gather ∨ pl = .scatter then [] else partWords s.mem.ueWords da p.2) with
      | w :: _ =>
        set ((s.touch pl w 8 false).meetUe w)
        throw .uncorrectable
      | [] => out := (da, p.2, pl) :: out
  return out.reverse

/-- Write bytes at checked places; a word written in part is read first, and a correctable error in it counts (R332, R333).
Writes to the point-cloud windows by any access other than a tile MATMUL are dropped
(R203, R204). -/
def State.writeAt : State → List (Nat × Nat × Place) → List Byte → State
  | s, [], _ => s
  | s, (da, n, pl) :: r, bs =>
    if pl = .gather ∨ pl = .scatter then s.writeAt r (bs.drop n) else
    let m := s.mem
    let whole := fun w => decide (da ≤ w ∧ w + 8 ≤ da + n)
    let s := s.meetCe (partWords m.ceWords da n).length
    let s := { s with mem := { s.mem with
      cells := memPut m.cells da (bs.take n)
      ueWords := m.ueWords.filter fun w => !whole w
      ceWords := m.ceWords.filter fun w => !decide (w < da + n ∧ da < w + 8)
      spoilt := m.spoilt ||| s.packagesAt da n
      wrote := s.wroteAt da n } }
    (s.touch pl da n true).writeAt r (bs.drop n)

/-- Write bytes at pieces in order. -/
def writePieces : List (Nat × Nat) → List Byte → TaskM Unit
  | [], _ => pure ()
  | p :: r, bs => do
    let ps ← checkWrite p.1 p.2
    modify fun s => s.writeAt ps (bs.take p.2)
    writePieces r (bs.drop p.2)

/-- The ring of the collector overlaps what is not its own: what it holds is free from now on (R460.1). -/
def State.meetRing (s : State) : State :=
  let t := s.freeAt (s.places [(s.pm.ringVa, s.pm.ringBytes)])
  { t with pm := { t.pm with ringMet := true } }

/-- What a launch stores: free bytes where the destination meets the ring of a collector that runs (R460.1), where its outputs
are undefined, and where BAR2, another device or a launch beside it has written while it ran; one beside it that has read there
has undefined outputs (R161, R182, R346). -/
def State.stored (s : State) (va : Nat) (bs : List Byte) : List Byte × State :=
  if s.mem.outside then (bs, s)
  else if s.pm.running && s.meet [(va, bs.length)] [(s.pm.ringVa, s.pm.ringBytes)] then
    let (k, s) := s.meetRing.take bs.length
    (freeBytes k bs.length, s)
  else match s.mem.who with
  | none => (bs, s)
  | some i =>
    let read := s.others i s.mem.reads
    let s := if read.isEmpty then s else s.taint (usersOf read (s.places [(va, bs.length)]))
    if s.mem.tainted.contains i then
      let (k, s) := s.take bs.length
      (freeBytes k bs.length, s)
    else s.freeIn (usePlaces (s.mem.crossed.filter (·.2.2 == i)) ++ usePlaces (s.others i s.mem.wrote)) va bs

/-- Write bytes at a virtual address: each 4 KiB piece is an access of its own (R336), and a fault ends the write with the
pieces before it made. -/
def writeM (va : Nat) (bs : List Byte) : TaskM Unit := do
  let s ← get
  let (bs, s) := s.stored va bs
  set s
  writePieces (split4k va bs.length) bs

/-- Read words at a virtual address. -/
def readWords (va n : Nat) (need : Need := .rd) : TaskM (List Word) := do
  return bytesWords n (← readM va (8 * n) need)

/-- Write words at a virtual address. -/
def writeWords (va : Nat) (ws : List Word) : TaskM Unit := writeM va (wordBytes ws)

/-- Run a computation of a unit. -/
def TaskM.go {α : Type} (x : TaskM α) (s : State) : Except MemFault α × State := x.run s

/-- Use the region table with which a MOVE or a camera frame began (R339). -/
def withRegions {α : Type} (regs : List (Nat × Word × Word × Word)) (x : TaskM α) : TaskM α := fun s =>
  let now := s.mem.regions
  let (r, t) := x { s with mem := { s.mem with regions := regs } }
  (r, { t with mem := { t.mem with regions := now } })

/-- Memory used by a launch. -/
def State.byLaunch (s : State) (i : Nat) : State := { s with mem := { s.mem with who := some i } }

/-- The end of such a use. -/
def State.byNone (s : State) : State := { s with mem := { s.mem with who := none } }

/-- Memory used by an agent other than a launch. -/
def State.outsideLaunch (s : State) : State := { s with mem := { s.mem with outside := true } }

/-- The end of such a use. -/
def State.backIn (s t : State) : State := { t with mem := { t.mem with outside := s.mem.outside } }

/-- The idle time of LPDDR5X runs on (R329): accesses of the keeper do not count for it. -/
def State.keepIdle (s t : State) : State :=
  { t with mem := { t.mem with lastLpddr := s.mem.lastLpddr, outside := s.mem.outside } }

/-- A SECDED-checked read for the keeper on a controller's behalf (R338): its bytes, or none where it faults. -/
def State.keeperRead (s : State) (va len : Nat) (need : Need := .rd) : Option (List Byte) × State :=
  match (readM va len need).go s.outsideLaunch with
  | (.ok b, t) => (some b, s.keepIdle t)
  | (.error _, t) => (none, s.keepIdle t)

/-- A write for the keeper on a controller's behalf (R338): whether it was made. -/
def State.keeperWrite (s : State) (va : Nat) (bs : List Byte) : Bool × State :=
  match (writeM va bs).go s.outsideLaunch with
  | (.ok _, t) => (true, s.keepIdle t)
  | (.error _, t) => (false, s.keepIdle t)

end Sys2Proof.Machine
end

