-- ==== Sys2Proof/Machine/Criser.lean ====
section
/-! DEFINITION. The Criser protocol (ch. 14): how a command is offered, begun and completed, and the register accesses of
the mailboxes. -/
namespace Sys2Proof.Machine

/-- The command opcodes (R371) with the device states that allow them: bit 0 STANDBY, 1 ARMED, 2 RUNNING, 3 FOG,
4 FAULT_HALT. -/
def opIndex : List (Nat × Nat) := [
  (0x000, 31), (0x001, 31), (0x002, 1), (0x003, 2), (0x004, 12), (0x005, 2), (0x006, 31), (0x007, 31), (0x008, 31),
  (0x009, 31), (0x010, 6), (0x100, 31), (0x101, 7), (0x102, 7), (0x103, 2), (0x104, 31), (0x110, 3), (0x111, 7),
  (0x112, 31), (0x120, 7), (0x121, 7), (0x200, 7), (0x201, 6), (0x202, 6), (0x203, 31), (0x210, 15), (0x211, 3)] ++ [
  (0x212, 31), (0x300, 3), (0x301, 31), (0x302, 31), (0x303, 6), (0x304, 14), (0x310, 3), (0x320, 1), (0x321, 1),
  (0x330, 1), (0x331, 3), (0x332, 31), (0x420, 3), (0x421, 2), (0x422, 31), (0x430, 3), (0x431, 2), (0x432, 31),
  (0x440, 3), (0x441, 7), (0x442, 3), (0x443, 31), (0x500, 31), (0x501, 3), (0x640, 3), (0x641, 3), (0x642, 31)] ++ [
  (0x700, 3), (0x701, 6), (0x702, 6), (0x703, 14), (0x704, 6), (0x705, 6), (0x706, 31), (0x707, 31), (0x708, 31),
  (0x800, 7), (0x801, 7), (0x802, 31), (0x810, 15), (0x820, 31), (0x900, 31), (0x901, 1), (0x902, 31), (0x903, 7),
  (0x904, 1), (0xA00, 3), (0xA01, 31), (0xA02, 1), (0xA10, 15), (0xA20, 1), (0xA21, 1), (0xA30, 31), (0xB00, 31),
  (0xB01, 31), (0xB02, 3), (0xB03, 3), (0xC00, 7), (0xC01, 7), (0xC02, 15), (0xC03, 31)]

/-- Opcodes that the boot ROM serves in a FAULT_HALT entered from KEEPER_BOOT (R409). -/
def romOps : List Nat := [0x000, 0x001, 0x006, 0x007, 0x008, 0x009, 0x100, 0xA30, 0xB00]

/-- The bit of a device state in `opIndex`. -/
def DevState.allowBit : DevState → Nat
  | .standby => 1 | .armed => 2 | .running => 4 | .fog => 8 | .faultHalt => 16
  | .dark => 0 | .optionLoad => 0 | .keeperBoot => 0

/-- The device state allows an opcode (R371, R409). -/
def State.allows (s : State) (op : Nat) : Bool :=
  match look opIndex op with
  | none => false
  | some m => (m &&& s.dev.state.allowBit) != 0 && (!s.boot.romServes || romOps.contains op)

/-- What applying a command answers: a status that carries effects (OK, FAULTED, or a refusal that a chapter gives a
response word or a notification), the response payload, and what the completion waits for. -/
structure CrRes where
  status : Nat := 0
  resp : List Word := []
  wait : Wait := .room
  deriving DecidableEq, Repr

/-- The result of a command: a status other than OK and FAULTED with its ARG_WORD leaves the device as it was (R356). -/
abbrev Ans := Except (Nat × Nat) (State × CrRes)

/-- WRONG_STATE, BAD_ARG naming a payload word, NO_RESOURCE, DENIED (R356, R484). -/
def wrongState : Ans := .error (1, 0xFFFF)
def badArg (w : Nat) : Ans := .error (2, w)
def noResource : Ans := .error (3, 0xFFFF)
def denied : Ans := .error (4, 0xFFFF)

/-- OK without and with a response. -/
def ok (s : State) : Ans := .ok (s, {})
def okWith (s : State) (resp : List Word) : Ans := .ok (s, { resp := resp })

/-- Field checks: the lowest payload word with a failing check is named (R484); each check is (payload word, holds). -/
def checked (cs : List (Nat × Bool)) (k : Ans) : Ans :=
  match (cs.filter fun c => !c.2).map (·.1) with
  | [] => k
  | w :: ws => badArg (ws.foldl min w)

/-- A chapter's check that gives WRONG_STATE where it does not hold. -/
def stateCheck (b : Bool) (k : Ans) : Ans := if b then k else wrongState

/-- Channel of a number: 0 to 31 the service port's, 32 the chain channel of a member (R379). -/
def State.chan (s : State) (i : Nat) : Channel := at_ s.criser.ch i {}
def State.setChan (s : State) (i : Nat) (c : Channel) : State :=
  { s with criser := { s.criser with ch := put s.criser.ch i c } }

/-- The security engine has had its time (R414, R415). -/
def State.engineDone (s : State) : Wait → Bool
  | .engine due => decide (due ≤ s.time.counter)
  | _ => false

/-- The commands in progress on the units: launch, unit and address of each (R339). -/
def State.heldRuns (s : State) : List (Nat × Nat × Nat) :=
  (s.dev.launches.map fun l => (l.runs.filter (·.held.isSome)).map fun r => (l.id, r.group, r.pc)).flatten

/-- A wait has ended: ring room is tested when the completion is written. -/
def State.waitOver (s : State) : Wait → Bool
  | .room => true
  | .counter c => decide (c ≤ s.time.counter)
  | .engine due => s.boot.job.isNone && decide (due ≤ s.time.counter)
  | .launches ids => !(s.dev.launches.any fun l => ids.contains l.id)
  | .retrain p => (at_ s.chain.ports p {}).state != .training
  | .agents held frames => !(frames.any fun (i, q) => (at_ s.ll.entries i {}).frame.isSome && (at_ s.ll.entries i {}).seq == q) &&
    !(held.any s.heldRuns.contains)
  | .chain _ => s.portUp 1 || decide ((at_ s.chain.ports 1 {}).state = .down)

/-- The message of a completion (R355, R356). -/
def State.completionMsg (s : State) (a : Await) : List Word :=
  header a.cmd.opcode 1 (1 + a.resp.length) a.cmd.seq.toNat a.cmd.tag.toNat ::
  pack [(a.status.toNat, 63, 56), (s.dev.state.code, 51, 48), (a.arg.toNat, 47, 32),
    (sat32 ((a.begunAt - a.cmd.ringAt) / cycUs), 31, 0)] :: a.resp

/-- The channel with a completion's message in its ring, if it fits; the chain channel sends it to the lead. -/
def State.sendCompletion (s : State) (i : Nat) (a : Await) : Option State :=
  if i = 32 then
    let msg := s.completionMsg a
    some (s.sendMsg 0 flitControl (wordBytes msg) (some (.completionToLead msg)))
  else
    let (msg, t) := s.ringWords (s.chan i) (s.completionMsg a)
    ((s.chan i).put msg).map (t.setChan i)

/-- Write the completion of a command that has begun if it can be written, then the notifications it caused (R365);
otherwise it waits and later commands of the channel do not begin (R360). A DEV_RESET asks for its reset from its
completion on (R369); a second one does not put off the first. -/
def State.complete (s : State) (i : Nat) (a : Await) : State :=
  let s := s.setChan i { s.chan i with await := some a }
  if !s.waitOver a.wait then s else
  match s.sendCompletion i a with
  | none => s
  | some t =>
    let t := t.setChan i { t.chan i with await := none }
    let t := if a.cmd.opcode = 6 ∧ a.status = 0 then
        { t with dev := { t.dev with resetAt := some (t.dev.resetAt.getD (t.time.counter, i == 32)) } } else t
    t.completed a.cmd.order

/-- Write a completion of a command that never begins (BUSY, TIMEOUT), or keep it until it fits. -/
def State.completeUnbegun (s : State) (i : Nat) (a : Await) : State :=
  if (s.chan i).outbox.isEmpty then
    match s.sendCompletion i a with
    | some t => t
    | none => s.setChan i { s.chan i with outbox := [a] }
  else s.setChan i { s.chan i with outbox := (s.chan i).outbox ++ [a] }

/-- A command of another channel goes before one: it was accepted earlier, or in the same keeper cycle on a lower channel, or
has begun and still runs (R363). -/
def State.subjectBusy (s : State) (i : Nat) (c : Cmd) : Bool :=
  (List.range 33).any fun j => j != i &&
    (((s.chan j).queue.any fun d => d.opcode / 256 == c.opcode / 256 &&
        (decide (d.acceptedAt < c.acceptedAt) || (d.acceptedAt == c.acceptedAt && decide (j < i)))) ||
     match (s.chan j).await with
     | some a => a.cmd.opcode / 256 == c.opcode / 256 && a.wait != .room && !s.waitOver a.wait
     | none => false)

/-- A command has waited WAIT_MS without beginning (R364). -/
def Channel.expired (x : Channel) (c : Cmd) (now : Nat) : Bool := decide (c.acceptedAt + x.waitMs * cycMs ≤ now)

/-- The command that a channel may begin now: none while the completion of an earlier one waits for room (R360, R363), none
that has waited WAIT_MS (R364), and none while pair B is out (R430). -/
def State.front (s : State) (i : Nat) : Option Cmd :=
  let x := s.chan i
  if !s.keeperUp || s.pairAway 1 || x.await.isSome then none else
  match x.queue with
  | [] => none
  | c :: _ =>
    if s.subjectBusy i c || (x.outbox.any fun a => decide (a.cmd.order < c.order)) || x.expired c s.time.counter then none
    else some c

/-- The keeper pair that runs Criser (R348, R430), as its counter block. -/
def State.criserBlock (s : State) : Nat := if s.faults.pairDown = some .b then 29 else 30

/-- The state as a command begins: taken from its queue, counted. -/
def State.beginCmd (s : State) (i : Nat) : State :=
  (s.setChan i { s.chan i with queue := (s.chan i).queue.drop 1 }).count s.criserBlock 0x86 1

/-- What a command that begins answers, by the tests of R357 from the second on. -/
def State.apply (s : State) (op need : Nat) (c : Cmd) (h : Cmd → State → Ans) : Ans :=
  if !s.allows op then wrongState
  else if 255 < c.len then badArg c.len
  else if c.len < need then badArg c.len
  else h c { s with criser := { s.criser with hold := some [] } }

/-- A command has been applied: the notifications that it caused wait for its completion (R365). -/
def State.release (s : State) (c : Cmd) : State :=
  { s with criser := { s.criser with
    hold := none, later := s.criser.later ++ (s.criser.hold.getD []).map fun n => (some c.order, n) } }

/-- Begin the oldest accepted command of a channel if it is one of `op`, apply it and complete it. `need` is the number
of payload words its payload table lists (R357). If no such command may begin, nothing occurs. -/
def State.serve (s : State) (ch : Fin 33) (op need : Nat) (h : Cmd → State → Ans) : State :=
  match s.front ch.val with
  | none => s
  | some c =>
    if c.opcode ≠ op ∨ c.kind ≠ 0 then s else
    let b := s.beginCmd ch.val
    let a : Await := { cmd := c, begunAt := s.boot.aon, status := 0, arg := 0xFFFF, resp := [], wait := .room
                       counted := true }
    match b.apply op need c h with
    | .error (st, arg) => b.complete ch.val { a with status := BitVec.ofNat 8 st, arg := BitVec.ofNat 16 arg }
    | .ok (t, r) =>
      (t.release c).complete ch.val { a with status := BitVec.ofNat 8 r.status, resp := r.resp, wait := r.wait }

/-- A command whose KIND is not COMMAND or whose opcode is no command opcode of the index (R357). -/
def Cmd.unsupported (c : Cmd) : Bool := c.kind != 0 || (look opIndex c.opcode).isNone

/-- UNSUPPORTED (R357, R371). -/
def execUnsupported (ch : Fin 33) (s : State) : Host.Outcome State Fault Refusal :=
  fin s ansParts <| match s.front ch.val with
  | none => s
  | some c =>
    if !c.unsupported then s else
    (s.beginCmd ch.val).complete ch.val
      { cmd := c, begunAt := s.boot.aon, status := 9, arg := 0xFFFF, resp := [], wait := .room, counted := true }

/-- TIMEOUT (R364): the oldest command of the channel that has waited WAIT_MS without beginning. -/
def execTimeout (ch : Fin 33) (s : State) : Host.Outcome State Fault Refusal :=
  let c := s.chan ch.val
  fin s noteParts <| if !s.keeperUp then s else
  match c.queue.find? fun d => c.expired d s.time.counter with
  | none => s
  | some d =>
    let s := s.setChan ch.val { c with queue := c.queue.filter fun e => e.order != d.order }
    s.completeUnbegun ch.val
      { cmd := d, begunAt := s.boot.aon, status := 8, arg := 0xFFFF, resp := [], wait := .room, counted := true }

/-! ### Offering a command (R359) -/

/-- The command that message words spell (R354), offered at an instant of `aon`. -/
def cmdOf (ws : List Word) (order at_ : Nat) : Cmd :=
  let h := wAt ws 0
  { opcode := bits h 63 52, kind := bits h 49 48, len := bits h 47 32, seq := BitVec.ofNat 16 (bits h 31 16)
    tag := BitVec.ofNat 16 (bits h 15 0), words := (ws.drop 1).take (min (bits h 47 32) 255), order := order
    ringAt := at_, acceptedAt := at_ }

/-- Accept a command into a channel's queue, or complete it with BUSY when 16 are pending. -/
def State.accept (s : State) (i : Nat) (ws : List Word) (ringAt : Nat) : State :=
  let c := { cmdOf ws s.criser.order ringAt with acceptedAt := s.time.counter }
  let s := { s with criser := { s.criser with order := s.criser.order + 1 } }
  if 16 ≤ (s.chan i).pending then
    s.completeUnbegun i
      { cmd := c, begunAt := ringAt, status := 5, arg := 0xFFFF, resp := [], wait := .room, counted := false }
  else s.setChan i { s.chan i with queue := (s.chan i).queue ++ [c] }

/-- A write of 1 to RING of a channel of the service port (R359): the write sets IN_BUSY and the buffer is copied; IN_BUSY
clears when a keeper cycle passes (log entry 11). With no keeper pair left nothing is copied (R438). -/
def State.ring (s : State) (i : Nat) : State :=
  let c := s.chan i
  if !s.boot.linkUp then s
  else if !s.mailOpen then
    (if c.held.isSome then s else s.setChan i { c with held := some s.boot.aon })
  else if !s.keeperUp then s
  else if c.inBusy then s.setChan i { c with ringLost := true }
  else (s.setChan i { c with inBusy := true }).accept i c.inBuf.toList s.boot.aon

/-- RING (R359). On the chain channel of a member (32) the command comes in CONTROL flits (R379): `chain` are its words. -/
def execRing (ch : Fin 33) (chain : List Word) (s : State) : Host.Outcome State Fault Refusal :=
  fin s noteParts <|
  if ch.val = 32 then
    (if s.boot.member && s.portUp 0 && s.keeperUp then
      (s.recvFlits 0 (flitsOf (8 * chain.length))).accept 32 chain s.boot.aon
    else s)
  else s.ring ch.val

/-- Serve a RING held before the mailboxes opened: the inbound buffer then reads 0 (R359). -/
def State.serveHeld (s : State) (i : Nat) : State :=
  match (s.chan i).held with
  | none => s
  | some at_ => (s.setChan i { s.chan i with held := none }).accept i (s.chan i).inBuf.toList at_

/-- A write to a channel's window (R352, R353, R359): 8 or 4 bytes at an aligned offset of the inbound buffer; the outbound
ring, from 0x800 on, ignores writes. -/
def State.inboundWrite (s : State) (i off : Nat) (wide : Bool) (v : Word) : State :=
  let c := s.chan i
  let old := at_ c.inBuf (off / 8) 0
  if !s.boot.linkUp || !s.mailOpen then s
  else if off % (if wide then 8 else 4) ≠ 0 ∨ 2048 ≤ off then s
  else if c.inBusy then s.setChan i { c with inWriteLost := true }
  else
    let w := if wide then v
      else if off % 8 = 0 then pack [(bits old 63 32, 63, 32), (bits v 31 0, 31, 0)]
      else pack [(bits v 31 0, 63, 32), (bits old 31 0, 31, 0)]
    s.setChan i { c with inBuf := put c.inBuf (off / 8) w }

/-- MB_INBOUND_WRITE. -/
def execMbInboundWrite (ch : Fin 32) (off : BitVec 11) (wide : Bool) (v : Word) (s : State) :
    Host.Outcome State Fault Refusal :=
  fin s [.criser] (s.inboundWrite ch.val off.toNat wide v)

/-- A write of OUT_RD (R360). A value that stepping forward from OUT_RD to OUT_WR does not reach leaves the messages then
read, and the notifications dropped, undefined (R372.1): the ring holds free words from then on, until OUT_RD is within 256
words of OUT_WR again. -/
def State.outRdWrite (s : State) (i : Nat) (v : Reg) : State :=
  let c := s.chan i
  let rd := v.toNat % 512
  let d := (rd + 512 - c.outRd) % 512
  if !s.boot.linkUp || !s.mailOpen then s
  else if d ≤ c.fill then
    let c := { c with outRd := rd }
    s.setChan i { c with strayRd := c.strayRd && decide (256 < c.fill) }
  else
    let (k, s) := s.take 512
    let ring := Vector.ofFn fun (j : Fin 256) =>
      (Config.freeReg (k + 2 * j.val)) ++ (Config.freeReg (k + 2 * j.val + 1))
    s.setChan i { c with outRd := rd, ring := ring, strayRd := true }

/-- MB_CH_OUT_RD_WRITE. -/
def execMbChOutRdWrite (ch : Fin 32) (v : Reg) (s : State) : Host.Outcome State Fault Refusal :=
  fin s [.criser, .free] (s.outRdWrite ch.val v)

/-- A write of MB_CH_STATUS (R9, R352): W1C of IN_WRITE_LOST and RING_LOST. -/
def State.chStatusWrite (s : State) (i : Nat) (v : Reg) : State :=
  let c := s.chan i
  if !s.boot.linkUp || !s.mailOpen then s else
  s.setChan i { c with inWriteLost := c.inWriteLost && !v.getLsbD 10, ringLost := c.ringLost && !v.getLsbD 9 }

/-- MB_CH_STATUS_WRITE. -/
def execMbChStatusWrite (ch : Fin 32) (v : Reg) (s : State) : Host.Outcome State Fault Refusal :=
  fin s [.criser] (s.chStatusWrite ch.val v)

/-- A read of MB_CH_STATUS clears NOTE_DROPPED (R9, R352). -/
def State.chStatusTaken (s : State) (i : Nat) : State :=
  if s.mailOpen then s.setChan i { s.chan i with noteDropped := 0 } else s

/-- MB_CH_STATUS_READ: answers the register and clears NOTE_DROPPED. -/
def execMbChStatusRead (ch : Fin 32) (s : State) : Host.Outcome State Fault Refusal :=
  fin s [.criser, .pins, .boot] <| if !s.boot.linkUp then s.answerBus .unsupportedRequest
  else (s.chStatusTaken ch.val).answerBus (.reg (if s.mailOpen then (s.chan ch.val).status else 0))

end Sys2Proof.Machine
end

