-- ==== Sys2Proof/Machine/Launch.lean ====
section
/-! DEFINITION. Characteristics, launches, targets and beacons (R62 to R75, R137, R368), and what ends a launch. -/
namespace Sys2Proof.Machine

/-! ### Entries of a characteristic table (R63) -/

def eKind (e : Word × Word) : Nat := bits e.1 63 60
def eClass (e : Word × Word) : Nat := bits e.1 59 58
def eTelemetry (e : Word × Word) : Bool := bit e.1 56
def eTarget (e : Word × Word) : Nat := bits e.1 55 48
def eDeadline (e : Word × Word) : Nat := bits e.1 47 32
def eOffset (e : Word × Word) : Nat := bits e.1 31 0

/-- A time-line tick of R62, a microsecond and a millisecond, in units of 2^-48 ns. -/
def tick48 : Int := 51200 * 4294967296
def us48 : Int := 1000 * 281474976710656
def ms48 : Int := 1000000 * 281474976710656

/-- Length of a characteristic's period. -/
def Char.period48 (c : Char) : Int := c.periodUs * us48

/-- Entry `e` of the loaded table. -/
def Char.entry (c : Char) (e : Nat) : Word × Word := c.table.getD e (0, 0)

/-- Slot instant of entry `e` in the period that runs (R62). -/
def Char.periodSlot (c : Char) (e : Nat) : Int := c.periodStart + eOffset (c.entry e) * tick48

/-- Slot instant of the slot of entry `e` that is handled next (R62, R69): one left from an earlier period goes first. -/
def Char.slotAt (c : Char) (e : Nat) : Int := ((c.left.find? (·.1 == e)).map (·.2)).getD (c.periodSlot e)

/-- The reserved targets of R65. -/
def targetOk (t : Nat) : Bool := t ≤ 0x10 || (0x20 ≤ t && t ≤ 0x23)

/-- The checks of R66 that concern one entry, the period in microseconds given. -/
def entryOk (periodUs : Nat) (e : Word × Word) : Bool :=
  eKind e ≤ 4 &&
  !(eKind e = 1 && !targetOk (eTarget e)) &&
  !(eKind e = 2 && (bits e.2 9 8 = 3 || (bits e.2 9 8 = 2 && bits e.2 47 16 = 0))) &&
  !((eKind e = 2 || eKind e = 3) && eClass e != 0) &&
  eOffset e < periodUs * 1280 && eDeadline e ≤ periodUs &&
  !(eKind e = 1 && bits e.2 47 0 % 32 != 0)

/-- Offsets do not decrease from one entry to the next. -/
def offsetsRise : List (Word × Word) → Bool
  | a :: b :: r => eOffset a ≤ eOffset b && offsetsRise (b :: r)
  | _ => true

/-- The whole check of R66. -/
def tableOk (periodUs : Nat) (t : List (Word × Word)) : Bool := t.all (entryOk periodUs) && offsetsRise t

def State.char (s : State) (i : Nat) : Char := at_ s.chars i {}
def State.setChar (s : State) (i : Nat) (c : Char) : State := { s with chars := put s.chars i c }

/-- CHAR_EVENT (R83, R84). ENTRY and INDEX of a LIST_SUBMIT launch, which R83 does not give, are free (log entry 101). -/
def State.charEvent (s : State) (i entry ev : Nat) (value : Word) : State :=
  let (k, s) := if i < 4 then (s.free, s) else s.take 2
  let (x, y) := if i < 4 then (i, entry) else (Config.freeNat k % 4, Config.freeNat (k + 1) % 1024)
  let w0 := pack [(y, 25, 16), (x, 9, 8), (ev, 7, 0)]
  if ev = 2 ∨ ev = 4 ∨ ev = 5 then s.eventLimited 0x2F0 ev i 1 w0 value else s.event 0x2F0 w0 value

/-- BUDGET_EVENT (R83, R84). -/
def State.budgetEvent (s : State) (ev : Nat) : State :=
  let ws := [wd ev, pack [(fld 32 (s.budget.maxTj.toInt), 31, 0)]]
  if ev = 0x15 then s.notifyLimited 0x2F1 ev 0 1 ws else s.notify 0x2F1 ws

/-! ### Launches -/

/-- A launch is in flight once it has started on its target; a preempted launch is in flight (R67). -/
def Launch.inFlight (l : Launch) : Bool := l.runs.any (·.started)

/-- The governor counts power in units of 1/720,720 mW, in which the mean of up to 16 whole numbers of mW is exact. -/
def mWParts : Nat := 720720

/-- The powers measured over an entry's last 16 launches (R63). -/
def Budget.history (b : Budget) (char entry : Nat) : List Nat :=
  match b.powers.find? fun m => m.1 == (char, entry) with
  | some m => m.2
  | none => []

/-- One more launch of an entry has been measured (R63). -/
def Budget.measured (b : Budget) (char entry mw : Nat) : Budget :=
  { b with powers := ((char, entry), (mw :: b.history char entry).take 16) :: b.powers.filter fun m => m.1 != (char, entry) }

/-- Power of a launch: POWER, or the mean measured over the entry's last 16 launches where POWER is 0 (R63, R79); free
before the first of them is measured (log entry 10). Each LIST_SUBMIT is an entry of its own, with no launch before it. -/
def State.power (s : State) (char entry power : Nat) : Nat :=
  if power ≠ 0 then 50 * power * mWParts
  else match (if char = 4 then [] else s.budget.history char entry) with
    | [] => Config.unmeasured char entry * mWParts
    | h => h.sum * (mWParts / h.length)

/-- LIST_DONE of a submitted launch (R369): 0 DONE, 1 FAULTED, 2 DISCARDED. -/
def State.listDone (s : State) (l : Launch) (result : Nat) : State :=
  if l.char ≠ 4 then s else
  let late := l.late || (match l.deadline with | some d => decide (d < s.time.line) | none => false)
  s.notify 0x0F1 (pack [(bits l.tag 31 0, 63, 32), (l.target.toNat, 15, 8), (b2n late, 2, 2), (result, 1, 0)] :: s.now.words)

/-- The state without a launch. -/
def State.dropLaunch (s : State) (id : Nat) : State :=
  { s with dev := { s.dev with launches := s.dev.launches.filter fun l => l.id != id } }

/-- No list launch on target 0x21 is running or preempted (R279). -/
def State.solverQuiet (s : State) : Bool :=
  !s.dev.launches.any fun l => l.target = 0x21 && !l.ego && l.runs.any fun r => r.status = .running || r.status = .preempted

/-- A launch completes: its power counts as completed in the window (R79), HEARTBEAT toggles for an EGO launch that
completes by its deadline without a fault (R75, R219), a quiet point comes about (R279), and a submitted launch is reported
(R369). -/
def State.endLaunch (s : State) (l : Launch) (faulted : Bool) : State :=
  let inTime := match l.deadline with | some d => decide (s.time.line ≤ d) | none => true
  let s := s.dropLaunch l.id
  let s := { s with budget := { s.budget with
    completedMw := s.budget.completedMw + s.power l.char l.entry l.power } }
  let s := if l.ego && !faulted && inTime then { s with pins := { s.pins with heartbeat := !s.pins.heartbeat } } else s
  let s := if l.target = 0x21 && !l.ego && s.dev.state = .running && s.solverQuiet then { s with calib := { s.calib with quiet := true } } else s
  s.listDone l (b2n faulted)

/-- Discard every launch of a kind that is not in flight (R67): it never starts and is counted nowhere. -/
def State.discardUnstarted (s : State) (p : Launch → Bool) : State :=
  let gone := s.dev.launches.filter fun l => p l && !l.inFlight
  let s := { s with dev := { s.dev with launches := s.dev.launches.filter fun l => !(p l && !l.inFlight) } }
  gone.foldl (fun s l => s.listDone l 2) s

/-- Replace a launch. -/
def State.setLaunch (s : State) (l : Launch) : State :=
  { s with dev := { s.dev with launches := s.dev.launches.map fun m => if m.id = l.id then l else m } }

/-- End one sequencer's run of a launch; the launch completes when every run has ended, FAULTED when any run faulted
(R140). -/
def State.endRun (s : State) (l : Launch) (group : Nat) (faulted : Bool) : State :=
  let runs := l.runs.map fun r => if r.group = group then { r with status := .done, faulted := r.faulted || faulted } else r
  let l := { l with runs := runs }
  if runs.all (·.status = .done) then s.endLaunch l (runs.any (·.faulted)) else s.setLaunch l

/-- A target sequencer is in service (R160, R266, R435): a group with a position in service, an engine in service. -/
def State.inService (s : State) (target group : Nat) : Bool :=
  if group < 16 then (s.faults.tileIn.toNat >>> (4 * group)) % 16 != 0
  else if target = 0x20 then s.faults.engines.getLsbD 0
  else if target = 0x22 then s.faults.engines.getLsbD 1
  else if target = 0x23 then s.faults.engines.getLsbD 2 && s.faults.engines.toNat / 8 != 0
  else s.lanes != 0

/-- The run of a launch at a sequencer whose status is one of some. -/
def Launch.hasRun (l : Launch) (target group : Nat) (p : RunStatus → Bool) : Bool :=
  match l.runOn target group with
  | some r => p r.status
  | none => false

/-- The launch that runs at a sequencer. -/
def State.runningAt (s : State) (target group : Nat) : Option Launch :=
  s.dev.launches.find? fun l => l.hasRun target group (· = .running)

/-- All launches running or waiting at a unit that leaves service complete FAULTED there (R160, R435). -/
def State.failTarget (s : State) (target group : Nat) : State :=
  (s.dev.launches.filter fun l => l.hasRun target group (· != .done)).foldl (fun s l => s.endRun l group true) s

/-- A task fault of a unit's command (R140, R174, R185, R265, R307): the run ends FAULTED and the keeper writes a TASK
entry. -/
def State.taskFault (s : State) (target group addr detail : Nat) : State :=
  let s := s.log 0x0B 4 target target addr detail
  match s.runningAt target group with
  | none => s
  | some l => s.endRun l group true

/-! ### Beacons (R74) -/

/-- Drive pins of a mask, dropping their pending falls. -/
def State.drivePins (s : State) (mask : BitVec 8) (high : Bool) (fall : Option (Int × Nat)) : State :=
  { s with pins := { s.pins with
    bcn := if high then s.pins.bcn ||| mask else s.pins.bcn &&& ~~~mask
    falls := Vector.ofFn fun (i : Fin 8) => if mask.getLsbD i.val then fall else s.pins.falls[i] } }

/-- Every beacon pin goes low at once. -/
def State.beaconsLow (s : State) : State := s.drivePins 0xFF#8 false none

/-- The pins with a pending fall that a characteristic (or any) set go low at once. -/
def State.pulsesLow (s : State) (p : Nat → Bool) : State :=
  let mask : BitVec 8 := (List.range 8).foldl (fun a i =>
    match at_ s.pins.falls i none with
    | some (_, c) => if p c then a ||| BitVec.ofNat 8 (2 ^ i) else a
    | none => a) 0
  s.drivePins mask false none

/-! ### Start instants (R68) -/

/-- Advance the start instant of a PENDING characteristic that lies less than 50 µs ahead. -/
def State.advanceStart (s : State) (i : Nat) : State :=
  let c := s.char i
  let late := s.time.line + 50 * us48 - c.start
  if c.state ≠ .pending ∨ late ≤ 0 ∨ c.periodUs = 0 then s else
  let k := ((late + c.period48 - 1) / c.period48).toNat
  let s := s.setChar i { c with start := c.start + k * c.period48, advanced := sat32 (c.advanced + k) }
  s.charEvent i 0 3 (wd k)

/-- The device enters RUNNING, or FOG from ARMED. -/
def State.advanceAll (s : State) : State := (List.range 4).foldl State.advanceStart s

/-! ### Messages (R66, R67, R83) -/

/-- CHAR_LOAD (R66, R67). The entries of a new table have had no launch. -/
def charLoad (c : Cmd) (s : State) : Ans :=
  let w0 := wAt c.words 0
  let i := bits w0 49 48
  let count := bits w0 42 32
  let period := bits w0 19 0
  let va := bits (wAt c.words 1) 47 0
  checked [(0, decide (1 ≤ count ∧ count ≤ 1024)), (0, decide (1000 ≤ period ∧ period ≤ 1000000)), (1, va % 16 = 0)] <|
  let ch := s.char i
  stateCheck (ch.state = .empty || ch.state = .loaded) <|
  match s.keeperRead va (16 * count) .ls with
  | (none, s) => .ok (s, { status := 7 })
  | (some bs, t) =>
    let ws := bytesWords (2 * count) bs
    let table := (List.range count).map fun k => (wAt ws (2 * k), wAt ws (2 * k + 1))
    if tableOk period table then
      let t := { t with budget := { t.budget with powers := t.budget.powers.filter fun m => m.1.1 != i } }
      ok (t.setChar i { ch with state := .loaded, periodUs := period, table := table, next := 0, ahead := [], left := [] })
    else badArg 1
def execCharLoad (ch : Fin 33) (s : State) : Host.Outcome State Fault Refusal :=
  fin s (ansParts ++ [.chars, .budget, .mem, .faults]) (s.serve ch 0x200 2 charLoad)

/-- CHAR_START (R67, R68): in RUNNING a start instant less than 50 µs ahead is advanced. -/
def charStart (c : Cmd) (s : State) : Ans :=
  let i := bits (wAt c.words 0) 1 0
  let ch := s.char i
  checked [(2, bits (wAt c.words 2) 31 0 < 1000000000)] <|
  stateCheck (ch.state = .loaded) <|
  let start := (instOf (wAt c.words 1) (wAt c.words 2)).t * 4294967296
  let s := s.setChar i { ch with state := .pending, start := start, periods := 0, stopAtEnd := false }
  ok (if s.dev.state = .running then s.advanceStart i else s)
def execCharStart (ch : Fin 33) (s : State) : Host.Outcome State Fault Refusal :=
  fin s (ansParts ++ [.chars]) (s.serve ch 0x201 3 charStart)

/-- A RUNNING characteristic makes no further launch (R67, R74). -/
def State.stopChar (s : State) (i : Nat) : State :=
  let s := s.discardUnstarted fun l => l.char == i
  let s := s.pulsesLow (· == i)
  s.setChar i { s.char i with state := .loaded, stopAtEnd := false }

/-- CHAR_STOP (R67). -/
def charStop (c : Cmd) (s : State) : Ans :=
  let w := wAt c.words 0
  let i := bits w 1 0
  let ch := s.char i
  match ch.state with
  | .pending => ok (s.setChar i { ch with state := .loaded })
  | .running => ok (if bit w 8 then s.stopChar i else s.setChar i { ch with stopAtEnd := true })
  | _ => wrongState
def execCharStop (ch : Fin 33) (s : State) : Host.Outcome State Fault Refusal :=
  fin s (ansParts ++ [.chars]) (s.serve ch 0x202 1 charStop)

/-- Codes of R83. -/
def CharState.code : CharState → Nat
  | .empty => 0 | .loaded => 1 | .pending => 2 | .running => 3

/-- NEXT_START_NS (R83): time line minus next period start, in ns toward minus infinity. -/
def State.nextStartNs (s : State) (c : Char) : Int :=
  match c.state with
  | .pending => (s.time.line - c.start) / 281474976710656
  | .running => (s.time.line - (c.periodStart + c.period48)) / 281474976710656
  | _ => 0

/-- CHAR_GET_STATUS (R83). -/
def charGetStatus (c : Cmd) (s : State) : Ans :=
  let ch := s.char (bits (wAt c.words 0) 1 0)
  okWith s [wd ch.state.code, wd ch.periods, pack [(ch.withheld, 63, 32), (ch.missed, 31, 0)],
    pack [(ch.overrun, 63, 32), (ch.advanced, 31, 0)], wdI (s.nextStartNs ch)]
def execCharGetStatus (ch : Fin 33) (s : State) : Host.Outcome State Fault Refusal :=
  fin s ansParts (s.serve ch 0x203 1 charGetStatus)

/-- LIST_SUBMIT (R368): a launch of characteristic index 4, which falls due at the first array edge after the command
begins; the command completes then. ARG_WORD names the word that holds the failing field. -/
def listSubmit (c : Cmd) (s : State) : Ans :=
  let e := (wAt c.words 0, wAt c.words 1)
  checked [(0, eKind e = 1), (0, targetOk (eTarget e)), (0, eClass e != 0), (1, bits e.2 47 0 % 32 = 0)] <|
  if 16 ≤ (s.dev.launches.filter (·.char == 4)).length then noResource else
  let cls := eClass e
  let at_ := s.time.line + s.toArrayEdge * s.time.rate
  let l : Launch := {
    id := s.dev.nextLaunch, char := 4, entry := 0, ego := false, cls := cls, telemetry := eTelemetry e
    target := BitVec.ofNat 8 (eTarget e), power := bits e.2 63 52, shedStep := bits e.2 51 48, listVa := bits e.2 47 0
    slotAt := at_, deadline := if eDeadline e = 0 then none else some (at_ + eDeadline e * us48)
    dueAt := s.time.counter + s.toArrayEdge
    withheld := (cls = 3 && s.budget.thermal != .normal) || (cls = 2 && s.budget.thermal = .hot)
    tag := pack [(c.seq.toNat, 31, 16), (c.tag.toNat, 15, 0)], order := s.dev.nextLaunch }
  .ok ({ s with dev := { s.dev with launches := s.dev.launches ++ [l], nextLaunch := s.dev.nextLaunch + 1 } },
    { wait := .counter l.dueAt })
def execListSubmit (ch : Fin 33) (s : State) : Host.Outcome State Fault Refusal :=
  fin s ansParts (s.serve ch 0x010 2 listSubmit)

/-! ### Periods and slots -/

/-- CHAR_PERIOD_START (R67): period 0 begins at the start instant, in RUNNING or FOG. -/
def execCharPeriodStart (i : Fin 4) (s : State) : Host.Outcome State Fault Refusal :=
  let c := s.char i.val
  fin s [.chars] <| if c.state = .pending ∧ s.keeperUp ∧ (s.dev.state = .running ∨ s.dev.state = .fog) ∧ c.start ≤ s.time.line then
    s.setChar i.val { c with state := .running, periodStart := c.start, next := 0, ahead := [], left := [], periods := c.periods + 1 }
  else s

/-- An entry of the running period has fallen due and been handled. -/
def Char.passed (c : Char) (e : Nat) : Bool := decide (e < c.next) || c.ahead.contains e

/-- The slots of the running period that are not handled. -/
def Char.rest (c : Char) : List (Nat × Int) :=
  ((List.range c.table.length).filter fun e => !c.passed e).map fun e => (e, c.periodSlot e)

/-- An entry has a slot that is not handled, of the running period or left from an earlier one. -/
def Char.waits (c : Char) (e : Nat) : Bool := (!c.passed e && e < c.table.length) || c.left.any (·.1 == e)

/-- CHAR_PERIOD_BEGUN (R69, R83): a later period begins; slots of the period before that are not handled keep their place. -/
def execCharPeriodBegun (i : Fin 4) (s : State) : Host.Outcome State Fault Refusal :=
  let c := s.char i.val
  fin s [.chars] <| if c.state = .running ∧ s.keeperUp ∧ (s.dev.state = .running ∨ s.dev.state = .fog) ∧ ¬ c.stopAtEnd ∧
      c.periodStart + c.period48 ≤ s.time.line then
    s.setChar i.val { c with
      periodStart := c.periodStart + c.period48, next := 0, ahead := [], left := c.left ++ c.rest, periods := c.periods + 1 }
  else s

/-- The first entry that has not fallen due, and those above it that have. -/
def skipAhead : Nat → Nat → List Nat → Nat × List Nat
  | 0, n, l => (n, l)
  | k + 1, n, l => if l.contains n then skipAhead k (n + 1) (l.erase n) else (n, l)

/-- The next slot of an entry has been handled. -/
def Char.pass (c : Char) (e : Nat) : Char :=
  if c.left.any (·.1 == e) then { c with left := c.left.eraseP (·.1 == e) } else
  let r := skipAhead (c.ahead.length + 1) c.next (e :: c.ahead)
  { c with next := r.1, ahead := r.2 }

/-- A slot is due: the first array edge at or after its instant has come, or for a BEACON the first keeper edge (R69, R74),
and it has not been handled. Only BEACON edges go on while pair A is out (R430). -/
def State.slotReady (s : State) (i e : Nat) : Bool :=
  let c := s.char i
  c.state = .running && s.keeperUp && (s.dev.state = .running || s.dev.state = .fog) && c.waits e &&
  (eKind (c.entry e) = 2 || !s.pairAway 0) && decide (c.slotAt e ≤ if eKind (c.entry e) = 2 then s.time.line else s.lineAtArray)

/-- CHAR_PERIOD_END (R67): a characteristic stopping under MODE 0 becomes LOADED at its period end. BEACON and MARK slots that
have fallen due are handled first; a LIST or EGO slot that still waits for its array edge or for the keeper makes a launch that
would be discarded at once. -/
def execCharPeriodEnd (i : Fin 4) (s : State) : Host.Outcome State Fault Refusal :=
  let c := s.char i.val
  fin s (ansParts ++ [.chars]) <| if c.state = .running ∧ s.keeperUp ∧ c.stopAtEnd ∧ c.periodStart + c.period48 ≤ s.time.line ∧
      (List.range c.table.length).all (fun e => !c.waits e || (!s.slotReady i.val e && [0, 1, 3].contains (eKind (c.entry e)))) then
    s.stopChar i.val
  else s

/-- The place of a due slot in the order of R69, least first: BEACON edges, by the keeper cycle in which they fall due; then
the class, TELEMETRY, the characteristic index and the entry index. -/
def State.slotKey (s : State) (i e : Nat) : List Int :=
  let c := s.char i
  let en := c.entry e
  (if eKind en = 2 then [0, -((s.time.line - c.slotAt e) / s.time.rate)] else [1, (eClass en : Int)]) ++
    [(b2n (eTelemetry en) : Int), i, e]

/-- The place of a launch in the order of R69; of LIST_SUBMIT launches, by acceptance order (R368). -/
def Launch.slotKey (l : Launch) : List Int :=
  [1, l.cls, b2n l.telemetry, l.char, if l.char = 4 then l.order else l.entry]

/-- The places of all slots that are due. -/
def State.dueKeys (s : State) : List (List Int) :=
  ((List.range 4).map fun i =>
    ((List.range (s.char i).table.length).filter (s.slotReady i)).map (s.slotKey i)).flatten

/-- A budget window has begun that the governor has not decided on: its decision comes before any launch (R69, R76). -/
def State.windowPending (s : State) : Bool := s.governs && !s.pairAway 0 && s.lineAtArray / ms48 != s.budget.windowMs

/-- The slot of entry `e`, of a kind, is the next to be handled in the order of R69. -/
def State.slotDue (s : State) (i e kind : Nat) : Bool :=
  s.slotReady i e && eKind ((s.char i).entry e) = kind && (kind = 2 || !s.windowPending) &&
  s.dueKeys.all fun k => !decide (k < s.slotKey i e)

/-- The slot has fallen due. -/
def State.passSlot (s : State) (i e : Nat) : State := s.setChar i ((s.char i).pass e)

/-- The launch that a slot makes (R63, R70, R71, R78, R79). -/
def State.newLaunch (s : State) (i e : Nat) (ego : Bool) : Launch :=
  let c := s.char i
  let en := c.entry e
  let at_ := c.slotAt e
  let cls := eClass en
  { id := s.dev.nextLaunch, char := i, entry := e, ego := ego, cls := cls, telemetry := eTelemetry en
    target := if ego then 0x21 else BitVec.ofNat 8 (eTarget en)
    power := if ego then 0 else bits en.2 63 52, shedStep := if ego then 0 else bits en.2 51 48
    listVa := if ego then 0 else bits en.2 47 0, slotAt := at_
    deadline := some (if eDeadline en = 0 then at_ + c.period48 else at_ + eDeadline en * us48)
    withheld := !ego && ((cls = 3 && s.budget.thermal != .normal) || (cls = 2 && s.budget.thermal = .hot) ||
      (2 ≤ cls && s.budget.denied.contains (i, e))) }

/-- A LIST or EGO slot: R70 on the entry's previous launch, and the new launch. A launch still in flight from a table since
replaced counts as the outstanding launch of the entry of its index: the spec is silent (DESIGN CHOICE, log entry 101). -/
def State.makeLaunch (s : State) (i e : Nat) (ego : Bool) : State :=
  let l := s.newLaunch i e ego
  let add := fun (s : State) => { s with dev := { s.dev with
    launches := s.dev.launches ++ [{ l with id := s.dev.nextLaunch }], nextLaunch := s.dev.nextLaunch + 1 } }
  match s.dev.launches.find? fun m => m.char == i && m.entry == e with
  | none => add s
  | some m =>
    let c := s.char i
    if 2 ≤ m.cls ∧ m.inFlight = false then
      let s := s.setChar i { c with withheld := sat32 (c.withheld + 1) }
      add ((s.dropLaunch m.id).charEvent i e 4 0)
    else
      let s := s.setChar i { c with overrun := sat32 (c.overrun + 1) }
      (s.charEvent i e 5 0).countOverrun

/-- SLOT_DUE_LIST (R70): in FOG only EGO entries launch (R67). -/
def execSlotDueList (i : Fin 4) (e : Fin 1024) (s : State) : Host.Outcome State Fault Refusal :=
  fin s (ansParts ++ [.chars]) <| if s.slotDue i.val e.val 1 then
    (if s.dev.state = .fog then s.passSlot i.val e.val else (s.makeLaunch i.val e.val false).passSlot i.val e.val)
  else s

/-- SLOT_DUE_EGO (R64, R70). -/
def execSlotDueEgo (i : Fin 4) (e : Fin 1024) (s : State) : Host.Outcome State Fault Refusal :=
  fin s (ansParts ++ [.chars]) <| if s.slotDue i.val e.val 3 then (s.makeLaunch i.val e.val true).passSlot i.val e.val else s

/-- SLOT_DUE_BEACON (R69, R74): nothing is driven in FOG (R439). Entries that drive a pin in one keeper cycle act in the order
of R69, so the last of them sets the level. -/
def execSlotDueBeacon (i : Fin 4) (e : Fin 1024) (s : State) : Host.Outcome State Fault Refusal :=
  let c := s.char i.val
  let w := (c.entry e.val).2
  let mask := BitVec.ofNat 8 (bits w 7 0)
  fin s [.chars, .pins] <| if s.slotDue i.val e.val 2 then
    (if s.dev.state = .fog then s.passSlot i.val e.val
    else
      let d := match bits w 9 8 with
        | 0 => s.drivePins mask false none
        | 1 => s.drivePins mask true none
        | _ => s.drivePins mask true (some (c.slotAt e.val + bits w 47 16 * tick48, i.val))
      d.passSlot i.val e.val)
  else s

/-- BEACON_FALL (R74). -/
def execBeaconFall (pin : Fin 8) (s : State) : Host.Outcome State Fault Refusal :=
  fin s [.pins] <| match s.pins.falls[pin] with
  | none => s
  | some (t, _) => if t ≤ s.time.line then s.drivePins (BitVec.ofNat 8 (2 ^ pin.val)) false none else s

/-- A launch may be issued: it is due, not withheld, and the device state lets it launch (R366, R439). -/
def State.mayIssue (s : State) (l : Launch) : Bool :=
  !l.issued && !l.withheld && s.keeperUp && !s.pairAway 0 && decide (l.dueAt ≤ s.time.counter) &&
  (s.dev.state = .running || (s.dev.state = .armed && l.char = 4) || (s.dev.state = .fog && l.ego))

/-- SLOT_DUE_MARK (R64, R69): sent at its slot whatever the governor withholds, after the launches that go before it; in FOG
only EGO entries act. -/
def execSlotDueMark (i : Fin 4) (e : Fin 1024) (s : State) : Host.Outcome State Fault Refusal :=
  fin s (noteParts ++ [.chars]) <|
  if s.slotDue i.val e.val 4 && !(s.dev.launches.any fun l => s.mayIssue l && decide (l.slotKey < s.slotKey i.val e.val)) then
    (if s.dev.state = .fog then s.passSlot i.val e.val
    else (s.charEvent i.val e.val 1 ((s.char i.val).entry e.val).2).passSlot i.val e.val)
  else s

/-- SLOT_DUE_EMPTY (R64). -/
def execSlotDueEmpty (i : Fin 4) (e : Fin 1024) (s : State) : Host.Outcome State Fault Refusal :=
  fin s [.chars] <| if s.slotDue i.val e.val 0 then s.passSlot i.val e.val else s

/-! ### Issue, start, preemption, deadlines (R65, R69, R71, R137) -/

/-- The order of R69 between launches. -/
def Launch.before (a b : Launch) : Bool := decide (a.slotKey < b.slotKey)

/-- The first launch in the order of R69 among some. -/
def firstOf : List Launch → Option Launch
  | [] => none
  | l :: r => match firstOf r with
    | none => some l
    | some m => if m.before l then some m else some l

/-- The runs that a launch hands to its target (R135): those at units out of service have ended FAULTED (R160, R435). -/
def State.runsOf (s : State) (l : Launch) : List Run :=
  let t := l.target.toNat
  let gs := if t < 16 then [t] else if t = 16 then List.range 16 else [16]
  gs.map fun g =>
    if s.inService t g then { group := g, pc := l.listVa }
    else { group := g, pc := l.listVa, status := .done, faulted := true }

/-- LAUNCH_ISSUE (R69): at most one launch goes to its target in an array cycle, the first in the order of R69 among all
that have fallen due; slots that go before it are handled first. -/
def execLaunchIssue (s : State) : Host.Outcome State Fault Refusal :=
  fin s (ansParts ++ [.budget, .calib]) <| match firstOf (s.dev.launches.filter s.mayIssue) with
  | none => s
  | some l =>
    if s.windowPending || s.dev.issuedIn == some (s.time.counter / 4) || s.dueKeys.any (fun k => decide (k < l.slotKey)) then s else
    let s := { s with dev := { s.dev with issuedIn := some (s.time.counter / 4) } }
    let l := { l with issued := true, issueSeq := s.dev.nextLaunch, runs := s.runsOf l }
    let s := { s with dev := { s.dev with nextLaunch := s.dev.nextLaunch + 1 } }
    let s := (s.setLaunch l).count 31 0x90 1
    if l.runs.all (·.status = .done) then s.endLaunch l true else s

/-- The launch that a free sequencer takes: the highest class first, a preempted list of a class before its waiting
launches, and those in launch order (R65, R72, R137). At HOT a tile group takes no ELASTIC or BACKGROUND list (R78). -/
def State.nextAt (s : State) (target group : Nat) : Option Launch :=
  let ok := fun (l : Launch) =>
    (l.hasRun target group (· = .preempted) || (l.hasRun target group (· = .waiting) && !l.withheld)) &&
    !(group < 16 && s.budget.thermal = .hot && 2 ≤ l.cls)
  let key := fun (l : Launch) => [l.cls, if l.hasRun target group (· = .preempted) then 0 else 1, l.issueSeq]
  (s.dev.launches.filter ok).foldl (fun a l => match a with
    | none => some l
    | some b => if decide (key l < key b) then some l else some b) none

/-- The unit that a (target, group) operand pair names: a group for target codes up to 0x10, else the one unit (16). -/
def unitGroup (target : BitVec 8) (g : Fin 16) : Nat := if target.toNat ≤ 16 then g.val else 16

/-- A launch runs from now on beside those that run (R161, R182). -/
def State.startBeside (s : State) (id : Nat) : State :=
  let ids := s.running.map (·.id)
  let meet := fun (m : Launch) =>
    if m.id = id then { m with beside := (ids.filter (· != id)) ++ m.beside.filter fun j => !ids.contains j }
    else if ids.contains m.id && !m.beside.contains id then { m with beside := id :: m.beside } else m
  { s with dev := { s.dev with launches := s.dev.launches.map meet } }

/-- LAUNCH_START (R137): the state set of the class takes its defaults at the start of a launch (R145). A list on the solver waits
until a quiet point has begun (R279); with no keeper pair left no EGO launch starts (R438). -/
def execLaunchStart (target : BitVec 8) (g : Fin 16) (s : State) : Host.Outcome State Fault Refusal :=
  let t := target.toNat
  let u := unitGroup target g
  fin s [.tiles, .dev, .pm] <|
  if (s.runningAt t u).isSome || !s.inService t u || (u < 16 && (at_ s.tiles.groups u {}).gated) then s else
  match s.nextAt t u with
  | none => s
  | some l =>
    if (t = 0x21 && !l.ego && s.dev.state = .running && s.calib.quiet) || (l.ego && !s.keeperUp) then s else
    let fresh := l.hasRun t u (· = .waiting)
    let l := { l with runs := l.runs.map fun r => if r.group = u then { r with status := .running, started := true } else r }
    let s := (s.setLaunch l).startBeside l.id
    if !fresh then s
    else if u < 16 then
      let gr := at_ s.tiles.groups u {}
      { s with tiles := { s.tiles with groups := put s.tiles.groups u { gr with sets := put gr.sets l.cls {} } } }.count u 0x25 1
    else if l.ego then s.count 16 0x36 1 else s

/-- PREEMPTION (R65, R78): every command of a unit is one step, so a boundary always holds, but for a MOVE whose remote
accesses are outstanding. -/
def execPreemption (target : BitVec 8) (g : Fin 16) (s : State) : Host.Outcome State Fault Refusal :=
  let t := target.toNat
  let u := unitGroup target g
  fin s [.dev, .pm] <| match s.runningAt t u with
  | none => s
  | some l =>
    let higher := s.dev.launches.any fun m =>
      decide (m.cls < l.cls) && ((m.hasRun t u (· = .waiting) && !m.withheld) || m.hasRun t u (· = .preempted))
    let hot := u < 16 && s.budget.thermal = .hot && 2 ≤ l.cls
    let busy := t = 0x22 && s.layout.move.isSome
    if !(higher || hot) || l.ego || busy then s else
    let s := s.setLaunch
      { l with runs := l.runs.map fun r => if r.group = u then { r with status := .preempted } else r }
    if u < 16 then s.count u 0x24 1 else s

/-- DEADLINE_MISSED (R71): counted and notified whatever the class. A solver launch counts in the solver's figures; an EGO
launch that has not written its state stops (R219). -/
def execDeadlineMissed (id : Nat) (s : State) : Host.Outcome State Fault Refusal :=
  fin s (ansParts ++ [.chars]) <| match s.dev.launches.find? fun l => l.id == id with
  | none => s
  | some l =>
    match l.deadline with
    | none => s
    | some d =>
      if l.late || !decide (d < s.time.line) then s else
      let s := s.setLaunch { l with late := true }
      let s := if l.char < 4 then
          let c := s.char l.char
          s.setChar l.char { c with missed := sat32 (c.missed + 1) }
        else s
      let s := s.charEvent l.char l.entry 2 0
      let s := s.countMissed
      let s := if l.target = 0x21 then s.count 16 0x35 1 else s
      if l.ego then s.dropLaunch l.id else s

end Sys2Proof.Machine
end

