-- ==== Sys2Proof/Machine/Time.lean ====
section
/-! DEFINITION. Time line, servo, PTP and PPS (ch. 02). -/
namespace Sys2Proof.Machine

/-! ### Steps (R41 to R48, R109) -/

/-- A value of OFFSET, which is signed 64-bit (R107); what one beyond that range becomes is free (log entry 95). -/
def offset64 (k : Nat) (o : Int) : Int :=
  if -9223372036854775808 ≤ o ∧ o ≤ 9223372036854775807 then o else (Config.freeReg k ++ Config.freeReg (k + 1)).toInt

/-- A clock model after the time line stepped by `d` units of 2^-16 ns (R109); OFFSET of a SYNCED entry stays 0 (R107). -/
def Entry.stepModel (e : Entry) (d : Int) (k : Nat) : Entry :=
  if bits (at_ e.w 0 0) 51 50 ≠ 1 ∨ e.model.window = [] then e else
  { e with model := { e.model with
      offset := offset64 k (e.model.offset + d), window := e.model.window.map fun p => (p.1, p.2 + d) } }

/-- Samples of every source that wait are discarded, complete or not (R41, R45). -/
def State.dropSamples (s : State) : State :=
  { s with
    time := { s.time with samples := [] }
    ptp := { s.ptp with ports := s.ptp.ports.map fun q => { q with sync := none } }
    chain := { s.chain with exch := s.chain.exch.map fun e => { e with stale := true } } }

/-- A port forgets the stamps of exchanges that it took before a step (R45). -/
def PtpPort.afterStep (q : PtpPort) : PtpPort :=
  { q with lastSync := none, delayReq := none, stamp := q.stamp.map fun x => { x with stale := true } }

/-- A step of the line backward makes the instants from its new reading on come again (R456). -/
def Pm.afterStep (p : Pm) (line : Int) : Pm := { p with edgeLine := p.edgeLine.map fun x => min x (line - 1) }

/-- Step the time line by `d` units of 2^-48 ns: GEN counts, samples that wait are discarded and so is what else was stamped
before, clock models follow. How a step of no whole number of 2^-16 ns moves a model, whose OFFSET has that resolution, is not
stated (R109): either neighbour, freely (log entry 10). -/
def State.stepLine (s : State) (d : Int) : State :=
  let (k, s) := s.dropSamples.take 129
  { s with
    time := { s.time with line := s.time.line + d, gen := s.time.gen + 1 }
    pm := s.pm.afterStep (s.time.line + d)
    ptp := { s.ptp with ports := s.ptp.ports.map PtpPort.afterStep }
    ll := { s.ll with entries := Vector.ofFn fun (i : Fin 64) =>
      s.ll.entries[i].stepModel (divFree k d 4294967296) (k + 1 + 2 * i.val) } }

/-- At initial acquisition start instants, slot instants, deadlines and pending beacon falls move by the step (R47, R68). -/
def State.shiftSlots (s : State) (d : Int) : State :=
  { s with
    chars := s.chars.map fun c => { c with start := c.start + d, periodStart := c.periodStart + d, left := c.left.map fun p => (p.1, p.2 + d) }
    dev := { s.dev with launches := s.dev.launches.map fun l =>
      { l with slotAt := l.slotAt + d, deadline := l.deadline.map (· + d) } }
    pins := { s.pins with falls := s.pins.falls.map (·.map fun f => (f.1 + d, f.2)) } }

/-- Enter SETTLING: the lock run starts at 0 and the holdover timeout runs anew (R41). -/
def Time.settle (t : Time) : Time := { t with state := .settling, lockRun := 0, holdFrom := t.counter }

/-- Initial acquisition by a step of `d` units of 2^-48 ns (R41, R47, R48). -/
def State.acquire (s : State) (d : Int) : State :=
  let before := s.now.stamp
  let s := (s.stepLine d).shiftSlots d
  let s := { s with time := { s.time with uptime := false }.settle }
  let s := { s with time := { s.time with acq := (before, s.now.stamp) } }
  s.timeEvent 1 0

/-- Limit of F (R33). -/
def fMax : Int := 2147483
def clampF (f : Int) : Int := if f > fMax then fMax else if f < -fMax then -fMax else f

/-- One loop update with an accepted offset (R38). -/
def State.loop (s : State) (o : Int) : State :=
  let t := s.time
  let i := t.iAcc - o / (2 ^ t.ki : Nat)
  let f := i - o / (2 ^ t.kp : Nat)
  if f = clampF f then { s with time := { t with iAcc := i, freq := f } }
  else { s with time := { t with freq := clampF f } }.timeEvent 7 o

/-- Entry to HOLDOVER (R33, R41). -/
def State.enterHoldover (s : State) : State :=
  let t := s.time
  let s := { s with time := { t with freq := clampF t.iAcc, state := .holdover } }
  let s := if clampF t.iAcc = t.iAcc then s else s.timeEvent 7 0
  s.timeEvent 4 0

/-- Count an accepted offset in the lock run (R41). -/
def Time.countRun (t : Time) (o : Int) : Time :=
  { t with lockRun := if o.natAbs ≤ t.lockNs * 65536 then t.lockRun + 1 else 0 }

/-- The servo takes one offset (R38, R41 to R43). R38 calls an offset a signed 64-bit value, which spans about 39 hours,
less than the first offset of a device that acquires the present date. The servo here steps and computes with the exact
offset, and LAST_OFFSET answers it modulo 2^64 (DEDUCED, log entry 93). -/
def State.servo (s : State) (o : Int) : State :=
  let t := s.time
  let s := { s with time := { t with lastOffset := o } }
  let accepted := fun (s : State) => { s with time := { s.time with
    accepted := sat32 (s.time.accepted + 1), lastAccepted := s.time.counter, holdFrom := s.time.counter } }
  match t.state with
  | .free => s
  | .acquiring =>
    let s := accepted (s.acquire (-o * 4294967296))
    { s with time := s.time.countRun o }
  | st =>
    if t.stepNs * 65536 < o.natAbs then
      { s with time := { s.time with refused := sat32 (t.refused + 1), lockRun := 0 } }.timeEvent 6 o
    else
      let s := accepted (s.loop o)
      match st with
      | .settling =>
        let s := { s with time := s.time.countRun o }
        if 8 ≤ s.time.lockRun then { s with time := { s.time with state := .locked, disciplined := true } }.timeEvent 2 0 else s
      | .locked =>
        if 4 * t.lockNs * 65536 < o.natAbs then
          { s with time := { s.time with disciplined := false }.settle.countRun o }.timeEvent 3 o
        else s
      | .holdover =>
        let s := if t.disciplined then { s with time := { s.time with state := .locked } }
          else { s with time := s.time.settle.countRun o }
        s.timeEvent 5 0
      | _ => s

/-- A change of source (R41); naming the source in force changes nothing. -/
def State.setSource (s : State) (src : Source) : State :=
  let t := s.time
  if src = t.source then s else
  let s := { s with time := { t with source := src } }
  let u := s.dropSamples
  match t.state with
  | .free => { s with time := { s.time with state := .acquiring } }
  | .acquiring => if src = .none then { s with time := { s.time with state := .free } } else u
  | .holdover => if src = .none then s else { u with time := { u.time with disciplined := false }.settle }
  | _ => if src = .none then u.enterHoldover else { u with time := { u.time with disciplined := false }.settle }

/-- SERVO_OFFSET (R41): the keeper hands the oldest sample to the servo, if it comes from the source in force (R37). -/
def execServoOffset (s : State) : Host.Outcome State Fault Refusal :=
  fin s (ansParts ++ [.time, .ptp, .chars, .ll]) <| if s.faults.keeperDead then s else match s.time.samples with
  | [] => s
  | p :: r =>
    let s := { s with time := { s.time with samples := r } }
    if p.src = s.time.source then s.servo p.o else s

/-- HOLDOVER_ENTERED (R41, R479): no accepted offset for the holdover timeout. The servo is hardware, so that it goes on where
the keeper has stopped. -/
def execHoldoverEntered (s : State) : Host.Outcome State Fault Refusal :=
  let t := s.time
  fin s (noteParts ++ [.time]) <| if (t.state = .settling ∨ t.state = .locked) ∧ t.holdFrom + t.holdoverMs * cycMs ≤ t.counter then s.enterHoldover else s

/-- The snapshot registers that a TAKE at an instant fills (R36). -/
def Inst.snap (i : Inst) : Snap :=
  let st := i.stamp
  { secLo := rg (bits st.w0 31 0), secHi := rg (bits st.w0 63 32), ns := rg (bits st.w1 31 0)
    aux := rg (bits st.w1 47 32 * 65536 + bits st.w1 63 48) }

/-- TL_SNAP_TAKE (R36). Through BAR0 a write is dropped until the mailboxes open (R352). -/
def execTlSnapTake (w : Win) (s : State) : Host.Outcome State Fault Refusal :=
  let sn := s.now.snap
  fin s [.time] <| match w with
  | .bar0 => if s.boot.linkUp && s.mailOpen then { s with time := { s.time with snapBar0 := sn } } else s
  | .list => { s with time := { s.time with snapList := sn } }

/-! ### Time messages (R58, R59) -/

/-- The port in SLAVE state. -/
def Ptp.slave (p : Ptp) : Option PtpPort := p.ports.toList.find? (·.state = .slave)

/-- TIME_GET_STATUS (R59). -/
def timeGetStatus (_ : Cmd) (s : State) : Ans :=
  let t := s.time
  let path : Int := if t.source = .ptp then (match s.ptp.slave with | some p => p.pathDelay.getD 0 | none => 0) else 0
  okWith s [wd t.status.toNat, wdI t.lastOffset, pack [(fld 32 t.freq, 31, 0)], wdI path,
    pack [(sat32 (s.ptp.ports.toList.foldl (fun a p => a + p.collisions) 0), 63, 32), (t.refused, 31, 0)],
    pack [(sat32 ((t.counter - t.lastAccepted) / cycMs), 63, 32), (t.accepted, 31, 0)]]
def execTimeGetStatus (ch : Fin 33) (s : State) : Host.Outcome State Fault Refusal :=
  fin s ansParts (s.serve ch 0x100 0 timeGetStatus)

/-- Source of a code (R37). -/
def sourceOf (n : Nat) : Source := if n = 1 then .ptp else if n = 2 then .ppsIn else if n = 3 then .chainUp else .none

/-- TIME_SET_SOURCE (R37, R41). -/
def timeSetSource (c : Cmd) (s : State) : Ans :=
  let n := bits (wAt c.words 0) 3 0
  checked [(0, n ≤ 3)] <| ok (s.setSource (sourceOf n))
def execTimeSetSource (ch : Fin 33) (s : State) : Host.Outcome State Fault Refusal :=
  fin s (ansParts ++ [.time, .ptp]) (s.serve ch 0x101 1 timeSetSource)

/-- TIME_SET_SERVO (R39, R41, R43, R59). -/
def timeSetServo (c : Cmd) (s : State) : Ans :=
  let w0 := wAt c.words 0
  let w1 := wAt c.words 1
  let lock := bits w1 63 32
  let step := bits w1 31 0
  let ho := bits (wAt c.words 2) 31 0
  checked [(1, decide (10 ≤ lock ∧ lock ≤ 1000000 ∧ lock ≤ step)), (1, decide (1000 ≤ step ∧ step ≤ 1000000000)),
    (2, decide (10 ≤ ho ∧ ho ≤ 60000))] <|
  ok { s with time := { s.time with
    ki := bits w0 12 8, kp := bits w0 4 0, lockNs := lock, stepNs := step, holdoverMs := ho } }
def execTimeSetServo (ch : Fin 33) (s : State) : Host.Outcome State Fault Refusal :=
  fin s (ansParts ++ [.time]) (s.serve ch 0x102 3 timeSetServo)

/-- TIME_STEP_FORCE (R41, R44, R45, R47, R48). A relative step to before second 0 is taken: the line is then negative, and
SECONDS of its stamps wrap modulo 2^64 (DESIGN CHOICE, log entry 93). -/
def timeStepForce (c : Cmd) (s : State) : Ans :=
  let w1 := wAt c.words 1
  let w2 := wAt c.words 2
  let relative := bit (wAt c.words 0) 0
  checked [(2, relative || decide (bits w2 31 0 ≤ 999999999))] <|
  let d : Int := if relative then w1.toInt * 4294967296 else (instOf w1 w2).t * 4294967296 - s.time.line
  let before := s.now.stamp
  let t := if s.time.uptime then s.acquire d
    else let t := s.stepLine d
      { t with time := { t.time with holdFrom := t.time.counter, lockRun := 0 } }
  let after := t.now.stamp
  let t := { t with time := { t.time with step := (before, after) } }.timeEvent 9 0
  okWith t [before.w0, before.w1, after.w0, after.w1]
def execTimeStepForce (ch : Fin 33) (s : State) : Host.Outcome State Fault Refusal :=
  fin s (ansParts ++ [.time, .ptp, .chars, .ll]) (s.serve ch 0x103 3 timeStepForce)

/-- TIME_GET_EPOCH (R48, R59). -/
def timeGetEpoch (_ : Cmd) (s : State) : Ans :=
  let t := s.time
  okWith s [t.acq.1.w0, t.acq.1.w1, t.acq.2.w0, t.acq.2.w1, t.step.1.w0, t.step.1.w1, t.step.2.w0, t.step.2.w1]
def execTimeGetEpoch (ch : Fin 33) (s : State) : Host.Outcome State Fault Refusal :=
  fin s ansParts (s.serve ch 0x104 0 timeGetEpoch)

/-! ### PTP (R49 to R53) -/

/-- State of a port as its configuration alone gives it. -/
def Ptp.idleState (p : Ptp) (q : PtpPort) : PtpState := if p.role = 0 ∨ ¬ q.enable then .disabled else .listening

/-- A port that starts anew: nothing heard, no delay known. -/
def Ptp.restart (p : Ptp) (q : PtpPort) : PtpPort :=
  { q with state := p.idleState q, best := none, foreign := [], parent := 0, parentPort := 0, pathDelay := none
           sync := none, lastSync := none, delayReq := none, sentAt := (none, none, none) }

/-- PTP_SET_CLOCK (R49, R59). -/
def ptpSetClock (c : Cmd) (s : State) : Ans :=
  let w0 := wAt c.words 0
  let w1 := wAt c.words 1
  let inRange := fun (v : Nat) (lo hi : Int) => decide (lo ≤ sgn 8 v ∧ sgn 8 v ≤ hi)
  checked [(0, bits w0 5 4 ≤ 1), (0, bits w0 1 0 ≤ 2), (1, 2 ≤ bits w1 31 24), (1, inRange (bits w1 23 16) (-4) 5),
    (1, inRange (bits w1 15 8) (-3) 4), (1, inRange (bits w1 7 0) (-4) 1)] <|
  let b8 := fun (n : Nat) => BitVec.ofNat 8 n
  let p := { s.ptp with
    accuracy := b8 (bits w0 47 40), clockClass := b8 (bits w0 39 32), prio2 := b8 (bits w0 31 24)
    prio1 := b8 (bits w0 23 16), domain := b8 (bits w0 15 8), transport := BitVec.ofNat 2 (bits w0 5 4)
    slaveOnly := bit w0 2, role := BitVec.ofNat 2 (bits w0 1 0), announceTimeout := b8 (bits w1 31 24)
    logDelayReq := b8 (bits w1 23 16), logAnnounce := b8 (bits w1 15 8), logSync := b8 (bits w1 7 0)
    clockId := wAt c.words 2 }
  ok { s with ptp := { p with ports := p.ports.map fun q => { p.restart q with annFrom := s.time.counter } } }
def execPtpSetClock (ch : Fin 33) (s : State) : Host.Outcome State Fault Refusal :=
  fin s (ansParts ++ [.ptp]) (s.serve ch 0x110 3 ptpSetClock)

def State.ptpPort (s : State) (i : Nat) : PtpPort := at_ s.ptp.ports i {}
def State.setPtpPort (s : State) (i : Nat) (p : PtpPort) : State := { s with ptp := { s.ptp with ports := put s.ptp.ports i p } }

/-- PTP_SET_PORT (R50, R59): a change of ENABLE restarts the port. -/
def ptpSetPort (c : Cmd) (s : State) : Ans :=
  let w0 := wAt c.words 0
  let i := bits w0 1 0
  let q := s.ptpPort i
  let r := { q with
    enable := bit w0 8, egress := bits (wAt c.words 1) 63 32, ingress := bits (wAt c.words 1) 31 0
    asym := (wAt c.words 2).toInt, ipv4 := BitVec.ofNat 32 (bits (wAt c.words 3) 31 0) }
  ok (s.setPtpPort i (if r.enable = q.enable then r else { s.ptp.restart r with annFrom := s.time.counter }))
def execPtpSetPort (ch : Fin 33) (s : State) : Host.Outcome State Fault Refusal :=
  fin s (ansParts ++ [.ptp]) (s.serve ch 0x111 4 ptpSetPort)

/-- The state of a port now: a PRE_MASTER port whose qualification time has passed is MASTER (R49; PRESUMED, log
entry 12). -/
def PtpPort.stateNow (q : PtpPort) (now : Nat) : PtpState :=
  if q.state = .preMaster ∧ q.preUntil ≤ now then .master else q.state

/-- A port follows a master: SLAVE, or UNCALIBRATED until its first path delay is known (R49, R53; log entry 12). -/
def PtpPort.follows (q : PtpPort) : Bool := q.state = .slave || q.state = .uncalibrated

/-- Keeper cycles of an interval of 2^e seconds (R59, R479). -/
def cycOfLog (e : BitVec 8) : Nat := if e.toInt < 0 then cycSec / 2 ^ e.toInt.natAbs else cycSec * 2 ^ e.toInt.toNat

/-- An interval has passed since a message was last sent; before the first one it has (log entry 12). -/
def State.due (s : State) (last : Option Nat) (e : BitVec 8) : Bool :=
  match last with
  | none => true
  | some c => decide (c + cycOfLog e ≤ s.time.counter)

/-- The source address of the messages that a port sends, where the transport is UDP over IPv4 (R49, R59). -/
def State.ptpIp (s : State) (q : PtpPort) : Option (BitVec 32) := if s.ptp.transport = 1 then some q.ipv4 else none

/-- PTP_GET_PORT (R59). -/
def ptpGetPort (c : Cmd) (s : State) : Ans :=
  let q := s.ptpPort (bits (wAt c.words 0) 1 0)
  okWith s [wd (q.stateNow s.time.counter).code, q.parent, wdI (q.pathDelay.getD 0), pack [(q.syncRx, 63, 32), (q.collisions, 31, 0)],
    pack [(b2n q.ptpTimescale, 17, 17), (b2n q.utcValid, 16, 16), (q.utcOffset.toNat, 15, 0)]]
def execPtpGetPort (ch : Fin 33) (s : State) : Host.Outcome State Fault Refusal :=
  fin s ansParts (s.serve ch 0x112 1 ptpGetPort)

/-- The device's clock identity: as configured, or EUI-64 derived from port 0's MAC address (R49; the form of the
derivation is PRESUMED, log entry 12). -/
def State.clockId (s : State) : BitVec 64 :=
  if s.ptp.clockId ≠ 0 then s.ptp.clockId else
  let m := (at_ s.ll.eth 0 {}).mac.toNat
  BitVec.ofNat 64 (m / 2 ^ 24 * 2 ^ 40 + 0xFFFE * 2 ^ 24 + m % 2 ^ 24)

/-- Ethernet, CSI, CAN and SPI ports have a clock, and the firmware that serves them runs (R348, R438). -/
def State.portsUp (s : State) : Bool := s.keeperUp && (at_ s.boot.dom 4 {}).up

/-- The lockstep pair that stamps a port (R52, R430). -/
def State.stampPair (s : State) (port : Nat) : Nat := s.pairFor (port / 2)

/-- STAMP_INTERRUPT (R50, R52): at handler entry the firmware forms the stamp. A delimiter event within 32 keeper cycles
of an earlier one of the pair is stamped late, and a PTP event message so stamped is a collision; so is one that arrives
while the pair is out (R430). -/
def execStampInterrupt (port : Fin 4) (tx event : Bool) (s : State) : Host.Outcome State Fault Refusal :=
  fin s [.ptp, .pm] <| if !s.portsUp then s else
  let k := s.stampPair port.val
  let away := s.pairAway k
  let late := away || match at_ s.ptp.pairLast k none with | some c => decide (s.time.counter < c + 32) | none => false
  let q := s.ptpPort port.val
  let sfd := s.time.now16 - 24 * 51200
  let st := if tx then sfd + q.egress else sfd - q.ingress
  let q := { q with
    stamp := some { t := st, flags := s.now.flags, late := late, tx := tx }
    collisions := if event && late then sat32 (q.collisions + 1) else q.collisions }
  let s := s.setPtpPort port.val q
  if away then s else
  let s := { s with ptp := { s.ptp with pairLast := put s.ptp.pairLast k (some s.time.counter) } }
  s.count (29 + k) 0x85 1

/-- A PTP message is for this port: PTP runs on it, and the domain and the transport are its own (R49). -/
def State.ptpHears (s : State) (port : Nat) (h : PtpHdr) : Bool :=
  s.portsUp && s.ptp.role != 0 && (s.ptpPort port).enable && h.domain == s.ptp.domain && h.udp == (s.ptp.transport == 1)

/-- A PTP timestamp in 2^-16 ns. -/
def ptpT16 (p : PtpTime) : Int := p.sec.toNat * sec16 + p.ns.toNat * 65536

/-- A complete Sync gives one offset once a path delay is known (R42, R53): o = t2 - t1 - corrections - delay. -/
def State.syncDone (s : State) (port : Nat) (t1 t2 : Int) : State :=
  let q := s.ptpPort port
  let s := s.setPtpPort port { q with sync := none, lastSync := some (t1, t2) }
  match q.pathDelay with
  | none => s
  | some d =>
    if s.time.source = .ptp then
      { s with time := { s.time with samples := s.time.samples ++ [{ src := .ptp, o := t2 - t1 - d }] } }
    else s

/-- PTP_SYNC_RX (R52, R53): the corrections and the port's asymmetry count with the origin time. SYNC_RX counts every Sync
of the domain that reaches the port, those discarded for a late stamp and those of other masters too (R59; DESIGN CHOICE,
log entry 93). -/
def execPtpSyncRx (port : Fin 4) (h : PtpHdr) (twoStep : Bool) (origin : PtpTime) (s : State) :
    Host.Outcome State Fault Refusal :=
  let q := s.ptpPort port.val
  fin s [.time, .ptp] <| match q.stamp with
  | none => s
  | some st =>
    if !s.ptpHears port.val h || st.tx then s else
    let q := { q with stamp := none, syncRx := sat32 (q.syncRx + 1) }
    let s := s.setPtpPort port.val q
    if st.late || st.stale || !q.follows || h.srcId != q.parent || h.srcPort != q.parentPort then s else
    let corr := h.corr.toInt + q.asym
    if twoStep then s.setPtpPort port.val { q with sync := some { seq := h.seq, t2 := st.t, corr := corr } }
    else s.syncDone port.val (ptpT16 origin + corr) st.t

/-- PTP_FOLLOW_UP_RX (R53). -/
def execPtpFollowUpRx (port : Fin 4) (h : PtpHdr) (origin : PtpTime) (s : State) : Host.Outcome State Fault Refusal :=
  let q := s.ptpPort port.val
  fin s [.time, .ptp] <| match q.sync with
  | none => s
  | some p =>
    if !s.ptpHears port.val h || h.seq != p.seq || h.srcId != q.parent || h.srcPort != q.parentPort then s else
    s.syncDone port.val (ptpT16 origin + h.corr.toInt + p.corr) p.t2

/-- PTP_DELAY_REQ_RX (R52, R53): a MASTER port answers with the receipt stamp. -/
def execPtpDelayReqRx (port : Fin 4) (h : PtpHdr) (s : State) : Host.Outcome State Fault Refusal :=
  let q := s.ptpPort port.val
  fin s [.ptp, .pins] <| match q.stamp with
  | none => s
  | some st =>
    if !s.ptpHears port.val h || st.tx then s else
    let s := s.setPtpPort port.val { q with stamp := none }
    if st.late ∨ q.stateNow s.time.counter ≠ .master then s else
    { s with pins := { s.pins with sent := s.pins.sent ++
        [.ptp port.val (s.ptpIp q) 9 h.seq [st.t, h.corr.toInt, h.srcId.toNat, h.srcPort.toNat]] } }

/-- The mean path delay after one more measurement (R53): an exponential average with weight 1/16, which the first
measurement starts at its full value (DESIGN CHOICE, log entry 93); how the divisions round is free (log entry 10). -/
def filterDelay (k : Nat) (old : Option Int) (d : Int) : Int :=
  match old with
  | none => d
  | some f => f + divFree k (d - f) 16

/-- PTP_DELAY_RESP_RX (R52, R53): the answer to the port's own Delay_Req gives a path-delay sample, unless its frame was
stamped late. With the first one an UNCALIBRATED port is SLAVE (log entry 12). -/
def execPtpDelayRespRx (port : Fin 4) (h : PtpHdr) (r : DelayResp) (s : State) : Host.Outcome State Fault Refusal :=
  let q := s.ptpPort port.val
  fin s [.ptp, .free] <| match q.stamp with
  | none => s
  | some st =>
    if !s.ptpHears port.val h || st.tx then s else
    let q := { q with stamp := none }
    let s := s.setPtpPort port.val q
    if st.late || !q.follows || h.srcId != q.parent || h.srcPort != q.parentPort || r.reqId != s.clockId ||
      r.reqPort.toNat != port.val + 1 then s else
    match q.delayReq, q.lastSync with
    | some (seq, t3), some (t1, t2) =>
      if h.seq != seq then s else
      let (k, s) := s.take 2
      let d := divFree k ((t2 - t1) + (ptpT16 r.t4 - t3 - h.corr.toInt)) 2
      s.setPtpPort port.val { q with delayReq := none, pathDelay := some (filterDelay (k + 1) q.pathDelay d), state := .slave }
    | _, _ => s

/-! #### The best master clock algorithm (R49: the default algorithm of IEEE 1588; PRESUMED, log entry 12) -/

/-- What two data sets are compared by, best first: priority1, class, accuracy, variance, priority2, grandmaster, steps,
sender. -/
def annRank (a : Announce) : List Nat :=
  [a.prio1.toNat, a.clockClass.toNat, a.accuracy.toNat, a.variance.toNat, a.prio2.toNat, a.gmId.toNat, a.steps.toNat,
   a.hdr.srcId.toNat, a.hdr.srcPort.toNat]

/-- The device's own data set. -/
def State.ownRank (s : State) : List Nat :=
  [s.ptp.prio1.toNat, s.ptp.clockClass.toNat, s.ptp.accuracy.toNat, 0xFFFF, s.ptp.prio2.toNat, s.clockId.toNat, 0,
   s.clockId.toNat, 0]

/-- A data set as the comparison of IEEE 1588-2019 reads it: what grandmasters are compared by, best first and the identity
last; steps removed; identities of the sending and of the receiving port. -/
structure PtpSet where
  gm : List Nat
  steps : Nat
  sender : Nat
  receiver : Nat
  deriving DecidableEq, Repr

/-- The data set of a message heard on a port. -/
def State.heardSet (s : State) (port : Nat) (a : Announce) : PtpSet :=
  { gm := (annRank a).take 6, steps := a.steps.toNat, sender := a.hdr.srcId.toNat * 65536 + a.hdr.srcPort.toNat
    receiver := s.clockId.toNat * 65536 + port + 1 }

/-- The data set of the device itself. -/
def State.ownSet (s : State) : PtpSet :=
  { gm := s.ownRank.take 6, steps := 0, sender := s.clockId.toNat * 65536, receiver := s.clockId.toNat * 65536 }

/-- What the comparison of two data sets says of the first. -/
inductive PtpCmp where
  | better | byTopology | worse | worseByTopology | same
  deriving DecidableEq, Repr

/-- Of two data sets of one grandmaster, the one with one more step removed is worse; by topology alone where its receiver's
identity lies above its sender's. -/
def PtpSet.farther (a : PtpSet) : PtpCmp :=
  if a.receiver < a.sender then .worse else if a.sender < a.receiver then .worseByTopology else .same

/-- The other side of a comparison. -/
def PtpCmp.flip : PtpCmp → PtpCmp
  | .better => .worse | .byTopology => .worseByTopology | .worse => .better | .worseByTopology => .byTopology | .same => .same

/-- The data set comparison of IEEE 1588-2019. -/
def PtpSet.compare (a b : PtpSet) : PtpCmp :=
  if a.gm.getLast? ≠ b.gm.getLast? then (if decide (a.gm < b.gm) then .better else .worse)
  else if b.steps + 1 < a.steps then .worse
  else if a.steps + 1 < b.steps then .better
  else if b.steps < a.steps then a.farther
  else if a.steps < b.steps then b.farther.flip
  else if a.sender ≠ b.sender then (if a.sender < b.sender then .byTopology else .worseByTopology)
  else if a.receiver < b.receiver then .byTopology
  else if b.receiver < a.receiver then .worseByTopology
  else .same

/-- Better, or better by topology. -/
def PtpSet.beats (a b : PtpSet) : Bool := a.compare b = .better || a.compare b = .byTopology

/-- The best data set heard on any port, with its port. -/
def State.ebest (s : State) : Option (Nat × Announce) :=
  s.ptp.ports.toList.zipIdx.foldl (fun a q => match a, q.1.best with
    | none, some b => some (q.2, b)
    | some (j, c), some b => if (s.heardSet q.2 b).beats (s.heardSet j c) then some (q.2, b) else some (j, c)
    | a, none => a) none

/-- Two Announce messages come from one sender. -/
def sameSender (a b : Announce) : Bool := a.hdr.srcId == b.hdr.srcId && a.hdr.srcPort == b.hdr.srcPort

/-- An instant of the counter within the last four announce intervals (R49; log entry 12). -/
def State.annFresh (s : State) (c : Nat) : Bool := decide (s.time.counter < c + 4 * cycOfLog s.ptp.logAnnounce)

/-- The senders heard within the last four announce intervals. -/
def State.freshMasters (s : State) (q : PtpPort) : List ForeignMaster :=
  (q.foreign.map fun f => { f with heard := f.heard.filter s.annFresh }).filter fun f => !f.heard.isEmpty

/-- The senders heard within the last four announce intervals, after one more message. -/
def State.hearAnnounce (s : State) (q : PtpPort) (a : Announce) : List ForeignMaster :=
  let olds := s.freshMasters q
  let old := match olds.find? fun f => sameSender f.ann a with | some f => f.heard | none => []
  { ann := a, heard := (s.time.counter :: old).take 2 } :: olds.filter fun f => !sameSender f.ann a

/-- The best data set that a port knows: of the senders heard twice in four announce intervals, and of the one that it had
before (R49; log entry 12). -/
def State.choose (s : State) (i : Nat) (q : PtpPort) : Option Announce :=
  let known := q.foreign.filter fun f => decide (2 ≤ f.heard.length) ||
    (match q.best with | some b => sameSender f.ann b | none => false)
  known.foldl (fun a f => match a with
    | none => some f.ann
    | some b => if (s.heardSet i f.ann).beats (s.heardSet i b) then some f.ann else some b) none

/-- What a MASTER or PRE_MASTER port has heard more than four announce intervals ago no longer counts (log entry 12). -/
def State.forgetOld (s : State) (i : Nat) : State :=
  let q := s.ptpPort i
  if q.state = .master ∨ q.state = .preMaster then
    let r := { q with foreign := s.freshMasters q }
    s.setPtpPort i { r with best := s.choose i r }
  else s

/-- Decision codes of the state decision algorithm of IEEE 1588-2019, and the case in which a port goes on listening. -/
inductive PtpDecision where
  | listen | m1 | m2 | m3 | p1 | p2 | s1
  deriving DecidableEq, Repr

/-- What the algorithm decides for a running port. An ordinary clock (ROLE 1) and a boundary clock (ROLE 2) are treated alike:
with one port enabled they are the same, and which port of an ordinary clock with several enabled ports runs PTP is not stated
(DESIGN CHOICE, log entry 93). With SLAVE_ONLY the device's own data set never counts. -/
def State.decide_ (s : State) (i : Nat) (q : PtpPort) : PtpDecision :=
  let ownBeats := fun (x : Option PtpSet) => !s.ptp.slaveOnly && (match x with | some d => s.ownSet.beats d | none => true)
  let heard := q.best.map (s.heardSet i)
  match s.ebest with
  | none => if q.state = .listening then .listen else .m2
  | some (j, b) =>
    if q.best = none ∧ q.state = .listening then .listen
    else if s.ptp.clockClass.toNat ≤ 127 ∧ ¬ s.ptp.slaveOnly then (if ownBeats heard then .m1 else .p1)
    else if ownBeats (some (s.heardSet j b)) then .m2
    else if i = j then .s1
    else match heard with
      | some d => if (s.heardSet j b).compare d = .byTopology then .p2 else .m3
      | none => .m3

/-- A port that the algorithm makes master, with the parent that it then has: it passes PRE_MASTER first, for a number of
announce intervals. With SLAVE_ONLY it listens (log entry 12). -/
def State.toMaster (s : State) (q : PtpPort) (parent : BitVec 64) (parentPort : BitVec 16) (wait : Nat) : PtpPort :=
  if s.ptp.slaveOnly then { q with state := .listening } else
  let q := { q with parent := parent, parentPort := parentPort }
  match q.stateNow s.time.counter with
  | .master => { q with state := .master }
  | .preMaster => q
  | _ => if wait = 0 then { q with state := .master }
    else { q with state := .preMaster, preUntil := s.time.counter + wait * cycOfLog s.ptp.logAnnounce }

/-- Give every running port its state. A port that begins to follow a parent is UNCALIBRATED and learns its delay anew, and
MASTER_CHANGED is sent (R60), also where the parent is the one that it followed before it left SLAVE (DESIGN CHOICE, log
entry 93). -/
def State.bmca (s : State) : State :=
  (List.range 4).foldl (fun s i =>
    let q := s.ptpPort i
    if q.state = .disabled then s else
    match s.decide_ i q, q.best with
    | .s1, some b =>
      if q.follows && q.parent == b.hdr.srcId && q.parentPort == b.hdr.srcPort then s else
      (s.setPtpPort i { q with
        state := .uncalibrated, parent := b.hdr.srcId, parentPort := b.hdr.srcPort, pathDelay := none
        sync := none, lastSync := none, delayReq := none }).timeEvent 8 0
    | .listen, _ | .s1, none => s
    | .p1, _ | .p2, _ => s.setPtpPort i { q with state := if s.ptp.slaveOnly then .listening else .passive }
    | .m1, _ | .m2, _ => s.setPtpPort i (s.toMaster q s.clockId 0 0)
    | .m3, _ => match s.ebest with
      | some (_, b) => s.setPtpPort i (s.toMaster q b.hdr.srcId b.hdr.srcPort (b.steps.toNat + 2))
      | none => s) ((List.range 4).foldl State.forgetOld s)

/-- PTP_ANNOUNCE_RX (R49, R59): messages of the device itself, and those 255 steps or more from their grandmaster, do not
count (log entry 12). A message of the parent restarts the receipt timeout. -/
def execPtpAnnounceRx (port : Fin 4) (a : Announce) (s : State) : Host.Outcome State Fault Refusal :=
  let q := s.ptpPort port.val
  fin s (noteParts ++ [.ptp]) <| if !s.ptpHears port.val a.hdr || a.hdr.srcId = s.clockId || q.state = .disabled then s else
  let q := { q with ptpTimescale := a.ptpTimescale, utcValid := a.utcValid, utcOffset := a.utcOffset }
  if 255 ≤ a.steps.toNat then s.setPtpPort port.val q else
  let q := { q with foreign := s.hearAnnounce q a }
  let q := { q with best := s.choose port.val q }
  let mine := match q.best with | some b => sameSender b a | none => false
  (s.setPtpPort port.val { q with annFrom := if mine then s.time.counter else q.annFrom }).bmca

/-- PTP_DISCARDED_RX (R49): discarded. -/
def execPtpDiscardedRx (_port : Fin 4) (_k : PtpDiscard) (s : State) : Host.Outcome State Fault Refusal := fin s [] s

/-- The stamp of a frame that the port has just transmitted, unless it is late. -/
def PtpPort.txStamp (q : PtpPort) : Option FrameStamp :=
  match q.stamp with
  | some st => if st.tx ∧ ¬ st.late then some st else none
  | none => none

/-- PTP_SYNC_TX (R49, R50, R59): a MASTER port sends a two-step Sync each LOG_SYNC interval, and its Follow_Up with the
stamp of the Sync. -/
def execPtpSyncTx (port : Fin 4) (s : State) : Host.Outcome State Fault Refusal :=
  let q := s.ptpPort port.val
  fin s [.ptp, .pins] <| if !s.portsUp || q.stateNow s.time.counter != .master || !s.due q.sentAt.1 s.ptp.logSync then s else
  let follow := match q.txStamp with | some st => [Sent.ptp port.val (s.ptpIp q) 8 q.seqs.1 [st.t]] | none => []
  let s := s.setPtpPort port.val { q with
    state := .master, seqs := (q.seqs.1 + 1, q.seqs.2), stamp := none, sentAt := (some s.time.counter, q.sentAt.2) }
  { s with pins := { s.pins with sent := s.pins.sent ++ (.ptp port.val (s.ptpIp q) 0 q.seqs.1 [] :: follow) } }

/-- PTP_DELAY_REQ_TX (R53, R59): a port that follows a master asks, at least a LOG_DELAY_REQ interval after it last did. t3
is the stamp of the transmitted frame; a late stamp gives no sample (R52). The port's asymmetry is taken from its
correction. -/
def execPtpDelayReqTx (port : Fin 4) (s : State) : Host.Outcome State Fault Refusal :=
  let q := s.ptpPort port.val
  fin s [.ptp, .pins] <| if !s.portsUp || !q.follows || !s.due q.sentAt.2.1 s.ptp.logDelayReq then s else
  let req := (q.txStamp.filter (!·.stale)).map fun st => (q.seqs.2.1, st.t)
  let s := s.setPtpPort port.val { q with 
    seqs := (q.seqs.1, q.seqs.2.1 + 1, q.seqs.2.2), delayReq := req, stamp := none
    sentAt := (q.sentAt.1, some s.time.counter, q.sentAt.2.2) }
  { s with pins := { s.pins with sent := s.pins.sent ++ [.ptp port.val (s.ptpIp q) 1 q.seqs.2.1 [-q.asym]] } }

/-- PTP_ANNOUNCE_TX (R49, R59): a MASTER port announces, each LOG_ANNOUNCE interval, the data set of the grandmaster that
the device follows, or its own. -/
def execPtpAnnounceTx (port : Fin 4) (s : State) : Host.Outcome State Fault Refusal :=
  let q := s.ptpPort port.val
  fin s [.ptp, .pins] <|
  if !s.portsUp || q.stateNow s.time.counter != .master || !s.due q.sentAt.2.2 s.ptp.logAnnounce then s else
  let rank := match s.ptp.ports.toList.find? (·.follows) with
    | some p => (match p.best with
      | some b => [b.prio1.toNat, b.clockClass.toNat, b.accuracy.toNat, b.variance.toNat, b.prio2.toNat, b.gmId.toNat,
          b.steps.toNat + 1, s.clockId.toNat, port.val + 1]
      | none => s.ownRank)
    | none => s.ownRank
  let s := s.setPtpPort port.val { q with
    state := .master, seqs := (q.seqs.1, q.seqs.2.1, q.seqs.2.2 + 1), sentAt := (q.sentAt.1, q.sentAt.2.1, some s.time.counter) }
  { s with pins := { s.pins with sent := s.pins.sent ++ [.ptp port.val (s.ptpIp q) 11 q.seqs.2.2 (rank.map Int.ofNat)] } }

/-- The states in which a port waits for Announce messages of its parent (IEEE 1588; log entry 12). -/
def PtpPort.watches (q : PtpPort) : Bool := [.listening, .uncalibrated, .slave, .passive].contains q.state

/-- PTP_ANNOUNCE_TIMEOUT (R49, R59): ANNOUNCE_TIMEOUT announce intervals without an Announce of the parent. What the port
heard is forgotten, it is MASTER, or LISTENING where SLAVE_ONLY is set, and the algorithm decides anew. -/
def execPtpAnnounceTimeout (port : Fin 4) (s : State) : Host.Outcome State Fault Refusal :=
  let q := s.ptpPort port.val
  fin s (noteParts ++ [.ptp]) <| if !s.portsUp || !q.watches ||
    !decide (q.annFrom + s.ptp.announceTimeout.toNat * cycOfLog s.ptp.logAnnounce ≤ s.time.counter) then s else
  (s.setPtpPort port.val { q with
    best := none, foreign := [], annFrom := s.time.counter, state := if s.ptp.slaveOnly then .listening else .master
    sync := none, lastSync := none, delayReq := none }).bmca

/-! ### PPS (R54 to R56) -/

/-- TIME_SET_PPS (R54, R56, R59). OUT_ENABLE 0 while PPS_OUT is high makes it low at once, and cuts the pulse short
(DESIGN CHOICE, log entry 93). -/
def timeSetPps (c : Cmd) (s : State) : Ans :=
  let w0 := wAt c.words 0
  let width := bits (wAt c.words 1) 31 0
  let phase := sgn 32 (bits (wAt c.words 2) 31 0)
  checked [(1, decide (1000 ≤ width ∧ width ≤ 500000000)), (2, decide (-500000000 ≤ phase ∧ phase ≤ 500000000))] <|
  let p := s.pps
  let on := bit w0 8
  ok { s with pps := { p with
    inEnable := on, outUptime := bit w0 1, outEnable := bit w0 0, outWidth := width, outPhase := phase
    inDelay := bits (wAt c.words 3) 31 0
    lostFrom := if on && !p.inEnable then s.time.counter else p.lostFrom
    lostSent := p.lostSent && p.inEnable
    out := p.out && bit w0 0 } }
def execTimeSetPps (ch : Fin 33) (s : State) : Host.Outcome State Fault Refusal :=
  fin s (ansParts ++ [.pps]) (s.serve ch 0x120 4 timeSetPps)

/-- TIME_PPS_LABEL (R55). -/
def timePpsLabel (c : Cmd) (s : State) : Ans := ok { s with pps := { s.pps with label := some (wAt c.words 0).toNat } }
def execTimePpsLabel (ch : Fin 33) (s : State) : Host.Outcome State Fault Refusal :=
  fin s (ansParts ++ [.pps]) (s.serve ch 0x121 1 timePpsLabel)

/-- A capture of the interpolator in this keeper cycle (R27, R35): phase `p` of 8. -/
def State.capture (s : State) (p : Fin 8) : Inst := { t := s.time.now16 + p.val * 6400, flags := s.time.flags }

/-- PPS_IN_EDGE (R54, R55). -/
def execPpsInEdge (phase : Fin 8) (s : State) : Host.Outcome State Fault Refusal :=
  let p := s.pps
  let c := s.time.counter
  fin s [.time, .pps] <| if !p.inEnable || !s.mailOpen then s else
  let early := match p.lastAccepted with | some a => decide (c < a + 640000000) | none => false
  let p := { p with lostFrom := c, lostSent := false }
  if early then { s with pps := p } else
  let p := { p with lastAccepted := some c }
  match p.label with
  | none => { s with pps := p }
  | some l =>
    let o := (s.capture phase).t - p.inDelay - l * sec16
    let s := { s with pps := { p with label := some ((l + 1) % 2 ^ 64) } }
    if s.time.source = .ppsIn then { s with time := { s.time with samples := s.time.samples ++ [{ src := .ppsIn, o := o }] } }
    else s

/-- PPS_IN_LOST (R54): once for each 1.5 s without an edge that a new edge has not ended. -/
def execPpsInLost (s : State) : Host.Outcome State Fault Refusal :=
  let p := s.pps
  fin s (noteParts ++ [.pps]) <| if p.inEnable && !p.lostSent && decide (p.lostFrom + 1920000000 ≤ s.time.counter) then
    { s with pps := { p with lostSent := true } }.timeEvent 0x0A 0
  else s

/-- PPS_OUT_RISE (R56): the time line plus the phase has reached a whole second within the keeper cycle that ends. -/
def execPpsOutRise (s : State) : Host.Outcome State Fault Refusal :=
  let p := s.pps
  let x := (s.time.line + p.outPhase * 281474976710656) % sec48
  fin s [.pps] <| if p.outEnable && !p.out && (!s.time.uptime || p.outUptime) && decide (x < s.time.rate) then
    { s with pps := { p with out := true, outRise := s.time.counter } }
  else s

/-- PPS_OUT_FALL (R56, R479): the first keeper edge at or after the configured width of counter time. -/
def execPpsOutFall (s : State) : Host.Outcome State Fault Refusal :=
  let p := s.pps
  fin s [.pps] <| if p.out && decide (p.outWidth * 1280 ≤ (s.time.counter - p.outRise) * 1000) then
    { s with pps := { p with out := false } }
  else s

end Sys2Proof.Machine
end

