-- ==== Sys2Proof/Machine/Ingress.lean ====
section
/-! DEFINITION. Ingress queues (ch. 05). -/
namespace Sys2Proof.Machine

def State.queue (s : State) (q : Nat) : Queue := at_ s.iq q {}
def State.setQueue (s : State) (q : Nat) (x : Queue) : State := { s with iq := put s.iq q x }

/-- Tag of a queue word (R115). -/
def tagOf (w : Word) : Nat := bits w 63 60

/-- A GAP word (R117). -/
def gapWord (cause entry count : Nat) : Word := pack [(3, 63, 60), (cause, 59, 56), (entry, 53, 48), (count, 31, 0)]

/-- COUNT of a gap marker with one more word (R117, R121). -/
def gapMore (w : Word) : Word :=
  if bits w 31 0 = 0xFFFFFFFF then w else pack [(bits w 63 32, 63, 32), (min 0xFFFFFFFE (bits w 31 0 + 1), 31, 0)]

/-- Depth of each ring (R119). -/
def Queue.ringDepth (q : Queue) : Nat := if q.priority then q.depth / 4 else q.depth

/-- The watermark flag and PEAK follow the occupancy (R126, R129). -/
def Queue.mark (q : Queue) : Queue :=
  let n := q.occupancy
  let q := { q with peak := max q.peak n }
  if !q.flag && q.high ≤ n && q.depthCode != 0 then { q with flag := true, xoffCount := sat32 (q.xoffCount + 1) }
  else if q.flag && n ≤ q.low then { q with flag := false }
  else q

/-- IQ_EVENT (R129, R130). -/
def State.iqEvent (s : State) (q ev value : Nat) : State :=
  let w0 := pack [(q, 13, 8), (ev, 7, 0)]
  if ev = 2 then s.eventLimited 0x3F1 2 q 1 w0 (wd value) else s.event 0x3F1 w0 (wd value)

/-- The array cycle at hand (R15). -/
def State.cycle (s : State) : Nat := s.time.counter / 4

/-- A pointer-copy mismatch resets the queue (R125); answers whether there was one. The reset takes 4 array cycles. DESIGN CHOICE
(log entry 43): in PRIORITY mode the GAP word stands in ring 0, which is read first. -/
def State.checkPtr (s : State) (q : Nat) : Bool × State :=
  let x := s.queue q
  if !x.ptrMismatch then (false, s) else
  let r : Ring := { words := [gapWord 1 0 0xFFFFFFFF] }
  let x := { x with rings := put (Vector.replicate 4 ({} : Ring)) 0 r, armed := false, ptrMismatch := false
                    integrity := sat32 (x.integrity + 1), gaps := sat32 (x.gaps + 1), flag := false
                    wroteTo := s.cycle + 4, readTo := s.cycle + 4 }
  let s := (s.setQueue q x.mark).count 32 0x9B 1
  (true, (s.log 0x0C 0 q 0 0 q).iqEvent q 1 0)

/-- A GAP word with CAUSE FULL into a ring, as its open marker (R121), with QUEUE_FULL at most once per second (R130). -/
def State.putGap (s : State) (q level entry count : Nat) : State :=
  let x := s.queue q
  let r := at_ x.rings level {}
  let r := { r with words := r.words ++ [gapWord 0 entry count], gapOpen := true }
  let x := { x with rings := put x.rings level r, gaps := sat32 (x.gaps + 1) }
  let send := s.rateOk (0x3F1 * 256 + 2) q 1
  let t := (s.setQueue q x.mark).count 32 0x9B 1
  if send then
    let t := t.iqEvent q 2 x.fullDropped
    t.setQueue q { t.queue q with fullDropped := 0 }
  else t

/-- A word is dropped (R121): counted in the open gap marker of its ring, or in a new one. -/
def State.dropWord (s : State) (q level entry : Nat) : State :=
  let x := s.queue q
  let r := at_ x.rings level {}
  let x := { x with dropped := sat32 (x.dropped + 1), fullDropped := sat32 (x.fullDropped + 1) }
  let s := s.count 32 0x9A 1
  if r.gapOpen then
    let ws := r.words.dropLast ++ [gapMore (r.words.getLastD 0)]
    s.setQueue q { x with rings := put x.rings level { r with words := ws } }
  else (s.setQueue q x).putGap q level entry 1

/-- Write one word of a unit (R121, R122, R124, R125); answers whether the rest of the unit is to be dropped. DESIGN CHOICE (log
entry 43): a word that meets a pointer mismatch is discarded by R125, and the rest of its unit is written all the same. -/
def State.writeWord (s : State) (q level entry : Nat) (dropping : Bool) (w : Word) : Bool × State :=
  let (bad, s) := s.checkPtr q
  if bad then (dropping, s) else
  let x := s.queue q
  if x.armed && tagOf w != 2 then
    (dropping, s.setQueue q { x with discarded := sat32 (x.discarded + 1) })
  else
    let x := { x with armed := false }
    let r := at_ x.rings level {}
    if !dropping && r.words.length + 2 ≤ x.ringDepth then
      let x := { x with rings := put x.rings level { r with words := r.words ++ [w], gapOpen := false } }
      (false, (s.setQueue q x.mark).count 32 0x98 1)
    else (true, s.dropWord q level entry)

/-- The level of a light-list entry in a queue (R119, R129). -/
def Queue.level (q : Queue) (entry : Nat) : Nat :=
  if !q.priority then 0 else
  let w := if entry / 32 = 0 then q.levels.1 else q.levels.2
  bits w (2 * (entry % 32) + 1) (2 * (entry % 32))

/-- The words of a unit arrive for a queue, contiguous and in order (R92, R119, R120). -/
def State.writeUnit (s : State) (q entry : Nat) (ws : List Word) : State :=
  let x := s.queue q
  s.setQueue q { x with coming := x.coming ++ ws.zipIdx.map fun w => { entry := entry, first := w.2 == 0, word := w.1 } }

/-- The write of an array cycle (R120): the oldest word that has come is written, under the rules of its unit (R121, R122). A queue
that has since been disabled takes none. -/
def State.writeDue (s : State) (q : Nat) : State :=
  let x := s.queue q
  match x.coming with
  | [] => s
  | a :: r =>
    if s.cycle < x.wroteTo then s else
    let s := s.setQueue q { x with coming := r, wroteTo := s.cycle + 1 }
    if x.depthCode = 0 then s else
    let (d, s) := s.writeWord q (x.level a.entry) a.entry (x.dropping && !a.first) a.word
    s.setQueue q { s.queue q with dropping := d }

/-- A read has been served: the queue serves the next in a later array cycle (R120). -/
def State.markRead (s : State) (q : Nat) : State :=
  let x := s.queue q
  s.setQueue q { x with readTo := max x.readTo s.cycle + 1 }

/-- A command list may read a queue in this array cycle: neither a list nor an engine has, whose reads go first (R120). -/
def State.readFree (s : State) (q : Nat) : Bool := decide ((s.queue q).readTo ≤ s.cycle)

/-- A GAP word of unknown count behind the words of a unit that a clock loss ended (R436): an open marker becomes it. As
every write it compares the pointers (R125), and an armed drop discards it (R124). -/
def State.gapUnknown (s : State) (q entry : Nat) : State :=
  if (s.queue q).depthCode = 0 then s else
  let (bad, s) := s.checkPtr q
  if bad then s else
  let x := s.queue q
  if x.armed then s.setQueue q { x with discarded := sat32 (x.discarded + 1) } else
  let level := x.level entry
  let r := at_ x.rings level {}
  if r.gapOpen then
    s.setQueue q { x with rings := put x.rings level { r with words := r.words.dropLast ++ [gapWord 0 entry 0xFFFFFFFF] } }
  else s.putGap q level entry 0xFFFFFFFF

/-- The lowest-numbered ring that holds a word (R119). -/
def Queue.first (q : Queue) : Option Nat := (List.range 4).find? fun i => (at_ q.rings i {}).words != []

/-- A ring without its oldest word. -/
def Ring.tail (r : Ring) : Ring :=
  { r with words := r.words.drop 1, gapOpen := r.gapOpen && r.words.length != 1
           ue := (r.ue.filter (· != 0)).map (· - 1) }

/-- An uncorrectable error met in the pool or in keeper-local SRAM, which have no device address (R125, R332, R333): DA is 0 (log
entry 42). -/
def State.meetPoolUe (s : State) : State :=
  let m := s.mem
  let s := { s with mem := { m with
    ue := sat32 (m.ue + 1), ueTotal := sat32 (m.ueTotal + 1)
    ueDa := if m.ue = 0 then 0 else m.ueDa, ueScrub := if m.ue = 0 then false else m.ueScrub } }
  s.eventLimited 0x8F0 1 0 1 (wd 1) (wd 0)

/-- Read one word (R119, R123 to R125): NOT_VALID (0) from an empty queue or while a drop is armed; none where the word
holds an uncorrectable error, the pointers then unchanged. -/
def State.popQueue (s : State) (q : Nat) : Option Word × State :=
  let (bad, s) := s.checkPtr q
  let x := s.queue q
  if x.armed && !bad then (some 0, s) else
  match x.first with
  | none => (some 0, s)
  | some i =>
    let r := at_ x.rings i {}
    if r.ue.contains 0 then
      (none, s.meetPoolUe)
    else
      let x := { x with rings := put x.rings i r.tail }
      (some (r.words.headD 0), (s.setQueue q x.mark).count 32 0x99 1)

/-- Discard words in read order up to the next DATA_START (R124); answers false where a word met holds an uncorrectable
error, which stays with the pointers unchanged (R125). -/
def Queue.dropTo : Nat → Queue → Bool × Queue
  | 0, q => (true, q)
  | fuel + 1, q =>
    match q.first with
    | none => (true, { q with armed := true })
    | some i =>
      let r := at_ q.rings i {}
      if r.ue.contains 0 then (false, q)
      else if tagOf (r.words.headD 0) = 2 then (true, q)
      else Queue.dropTo fuel { q with rings := put q.rings i r.tail, discarded := sat32 (q.discarded + 1) }.mark

/-- DROP_TO_START of a queue (R124); a second one while a drop is armed has no effect. Answers false where it met a word
with an uncorrectable error (R125). -/
def State.dropToStart (s : State) (q : Nat) : Bool × State :=
  let s := (s.checkPtr q).2
  let x := s.queue q
  if x.armed then (true, s) else
  match x.dropTo (x.occupancy + 1) with
  | (ok, x) => (ok, if ok then s.setQueue q x else (s.setQueue q x).meetPoolUe)

/-- An error strikes one copy of a pointer of a queue (R125): the next read, write or status read of the queue finds the
copies unequal. -/
def State.corruptPtr (s : State) : Option (Fin 64) → State
  | none => s
  | some q => if (s.queue q.val).depthCode = 0 then s else s.setQueue q.val { s.queue q.val with ptrMismatch := true }

/-- IQ_POP (R120, R123, R127): the read of an array cycle, and then its write; whether the word could be read, and the state. An
uncorrectable error in the word faults the reading task (R125) and pops nothing. -/
def State.iqPop (s : State) (q : Nat) : Bool × State :=
  match s.popQueue q with
  | (none, s) => (false, (s.markRead q).writeDue q)
  | (some w, s) =>
    let s := s.setQueue q { s.queue q with wordLo := rg (bits w 31 0), wordHi := rg (bits w 63 60 * 268435456 + bits w 59 32) }
    (true, (s.markRead q).writeDue q)

/-- IQ_POP (R120, R123, R125, R127, log entry 42): in an array cycle in which the queue has served a read it does nothing, and is
to be given again. -/
def execIqPop (p : QueuePop) (s : State) : Host.Outcome State Fault Refusal :=
  let u := s.corruptPtr p.corrupt
  fin s (logParts ++ [.iq, .mem]) (if u.readFree p.q.val then (u.iqPop p.q.val).2 else u)

/-- DROP_TO_START (R124). -/
def execDropToStart (q : Fin 64) (s : State) : Host.Outcome State Fault Refusal :=
  fin s (logParts ++ [.iq, .mem]) (s.dropToStart q.val).2

/-- IQ_DISCARDED_READ (R127). -/
def execIqDiscardedRead (q : Fin 64) (s : State) : Host.Outcome State Fault Refusal :=
  let x := s.queue q.val
  let t := s.setQueue q.val { x with discarded := 0 }
  fin s [.iq, .pins] { t with pins := { t.pins with lastRead := some (.reg (rg x.discarded)) } }

/-- An empty queue with the settings of R118 for a depth code. DESIGN CHOICE (log entry 43): a drop that was armed (R124) is so no
longer, and words that were on their way are gone. -/
def Queue.fresh (q : Queue) (code : Nat) : Queue :=
  { depthCode := code, high := (if code = 0 then 0 else 64 * 2 ^ (code - 1)) - 1
    wordLo := q.wordLo, wordHi := q.wordHi, discarded := q.discarded, dropped := q.dropped, gaps := q.gaps
    integrity := q.integrity, xoffCount := q.xoffCount, fullDropped := q.fullDropped }

/-- Words of the pool that a depth code takes (R118). -/
def codeWords (d : Nat) : Nat := if d = 0 then 0 else 64 * 2 ^ (d - 1)

/-- IQ_SET_POOL (R118, R129). -/
def iqSetPool (c : Cmd) (s : State) : Ans :=
  let code := fun (q : Nat) => bits (wAt c.words (q / 16)) (4 * (q % 16) + 3) (4 * (q % 16))
  checked ((List.range 64).map fun q => (q / 16, decide (code q ≤ 11))) <|
  if 131072 < (List.range 64).foldl (fun a q => a + codeWords (code q)) 0 then noResource else
  ok { s with iq := Vector.ofFn fun (i : Fin 64) => s.iq[i].fresh (code i.val) }
def execIqSetPool (ch : Fin 33) (s : State) : Host.Outcome State Fault Refusal :=
  fin s (ansParts ++ [.iq]) (s.serve ch 0x330 4 iqSetPool)

/-- IQ_SET_QUEUE (R119, R126, R129). -/
def iqSetQueue (c : Cmd) (s : State) : Ans :=
  let w0 := wAt c.words 0
  let w1 := wAt c.words 1
  let q := bits w0 5 0
  let x := s.queue q
  let high := bits w1 63 32
  let low := bits w1 31 0
  checked [(0, x.depthCode != 0), (1, x.depthCode = 0 || decide (1 ≤ high ∧ high ≤ x.depth - 1)),
    (1, x.depthCode = 0 || decide (low < high))] <|
  ok (s.setQueue q { x with
    xoffEn := bit w0 15, xoffPin := bits w0 14 12, priority := bit w0 8, high := high, low := low
    levels := (wAt c.words 2, wAt c.words 3), rings := Vector.replicate 4 {}, armed := false, flag := false, peak := 0
    ptrMismatch := false, coming := [], dropping := false })
def execIqSetQueue (ch : Fin 33) (s : State) : Host.Outcome State Fault Refusal :=
  fin s (ansParts ++ [.iq]) (s.serve ch 0x331 4 iqSetQueue)

/-- IQ_GET_STATUS (R129); a status read compares the pointers (R125). -/
def iqGetStatus (c : Cmd) (s : State) : Ans :=
  let q := bits (wAt c.words 0) 5 0
  let (_, s) := s.checkPtr q
  let x := s.queue q
  okWith s [pack [(x.depth, 63, 32), (bits (wd x.statusReg.toNat) 19 0, 19, 0)], pack [(x.dropped, 63, 32), (x.gaps, 31, 0)],
    pack [(x.integrity, 63, 32), (x.peak, 16, 0)], pack [(x.xoffCount, 31, 0)]]
def execIqGetStatus (ch : Fin 33) (s : State) : Host.Outcome State Fault Refusal :=
  fin s (ansParts ++ [.iq, .faults]) (s.serve ch 0x332 1 iqGetStatus)

end Sys2Proof.Machine
end

