-- ==== Sys2Proof/Machine/Sensors.lean ====
section
/-! DEFINITION. Sensor ports, the light list, clock models and sensor states (ch. 04). -/
namespace Sys2Proof.Machine

/-! ### Fields of a light-list entry (R105) -/

def Entry.w0 (e : Entry) : Word := at_ e.w 0 0
def Entry.w1 (e : Entry) : Word := at_ e.w 1 0
def Entry.w4 (e : Entry) : Word := at_ e.w 4 0
def Entry.w5 (e : Entry) : Word := at_ e.w 5 0
def Entry.enabled (e : Entry) : Bool := bit e.w0 63
def Entry.cls (e : Entry) : Nat := bits e.w0 62 60
def Entry.port (e : Entry) : Nat := bits e.w0 59 56
def Entry.template (e : Entry) : Nat := bits e.w0 55 52
def Entry.clockSrc (e : Entry) : Nat := bits e.w0 51 50
def Entry.linkEn (e : Entry) : Bool := bit e.w0 49
def Entry.linkStb (e : Entry) : Nat := bits e.w0 47 44
def Entry.queue (e : Entry) : Nat := bits e.w0 43 38
def Entry.periodNs (e : Entry) : Nat := bits e.w0 31 0
def Entry.window (e : Entry) : Nat := bits e.w1 15 8
def Entry.confCap (e : Entry) : Nat := bits e.w1 7 0
def Entry.latency (e : Entry) : Int := (at_ e.w 2 0).toInt
def Entry.sectors (e : Entry) : Nat := bits (at_ e.w 3 0) 63 48
def Entry.calVa (e : Entry) : Nat := bits (at_ e.w 3 0) 47 0

def State.entry (s : State) (i : Nat) : Entry := at_ s.ll.entries i {}
def State.setEntry (s : State) (i : Nat) (e : Entry) : State := { s with ll := { s.ll with entries := put s.ll.entries i e } }

/-- LL_EVENT (R113, R114). -/
def State.llEvent (s : State) (index cause ev : Nat) (value : Int) : State :=
  let w0 := pack [(index, 21, 16), (cause, 10, 8), (ev, 7, 0)]
  if ev = 6 then s.eventLimited 0x3F0 6 index 1 w0 (wdI value) else s.event 0x3F0 w0 (wdI value)

/-- Ports of a class deliver units in the present state (R85, R86); STB inputs need no sensor clock (R396). -/
def State.delivers (s : State) (cls : Nat) : Bool :=
  (s.dev.state = .armed || s.dev.state = .running || (s.dev.state = .fog && 2 ≤ cls)) && (cls = 4 || s.portsUp)

/-- The model of an entry is valid (R108). -/
def Entry.valid (e : Entry) : Bool := e.clockSrc = 2 || (e.clockSrc = 1 && 4 ≤ e.model.n)

/-- An entry whose model is cleared (R108, R110). -/
def Entry.clear (e : Entry) : Entry := { e with model := {} }

/-- The unit in progress of an entry is abandoned; it counts in SEQ (R86, R93). -/
def State.abandon (s : State) (i : Nat) : State :=
  let e := s.entry i
  let spi := (List.range 4).filter fun p => match at_ s.ll.spi p none with | some (j, _, _) => j == i | none => false
  let n := b2n e.frame.isSome + spi.length
  let s := s.setEntry i { e with frame := none, seq := e.seq + BitVec.ofNat 16 n }
  { s with ll := { s.ll with spi := spi.foldl (fun v p => put v p none) s.ll.spi } }

/-- A change of a sensor's state with its notification (R110). -/
def State.setSensor (s : State) (i : Nat) (st : SensorState) (ev cause : Nat) (value : Int) : State :=
  let s := if (s.entry i).state = .active ∧ st ≠ .active then s.abandon i else s
  let s := s.setEntry i { s.entry i with state := st, cause := if st = .masked then cause else 0, goodRun := 0 }
  s.llEvent i cause ev value

/-- A mask request (R110): only an ACTIVE entry is masked. -/
def State.maskSensor (s : State) (i cause : Nat) : State :=
  if (s.entry i).state = .active then s.setSensor i .masked 3 cause 0 else s

/-- mask(CLOCK) (R108, R110). -/
def State.maskClock (s : State) (i : Nat) : State :=
  let e := s.entry i
  let s := s.setEntry i { e.clear with goodRun := 0 }
  if e.state = .active then s.setSensor i .masked 3 1 e.lastR else s

/-! ### Clock models (R107, R108) -/

/-- map(s) (R107). -/
def ClockModel.map (m : ClockModel) (t : Int) : Int := t + m.offset + (m.rate * (t - m.sRef)) / 1099511627776

/-- Sums over the pairs of a window of y = h - s against x = s - s0: N, Σx, Σy, Σxx, Σxy. -/
def fitSums (s0 : Int) : List (Int × Int) → Int × Int × Int × Int × Int
  | [] => (0, 0, 0, 0, 0)
  | (a, h) :: r =>
    let (n, sx, sy, sxx, sxy) := fitSums s0 r
    let x := a - s0
    let y := h - a
    (n + 1, sx + x, sy + y, sxx + x * x, sxy + x * y)

/-- The refit of R108 after a pair with sensor time `t` has entered the window: OFFSET and RATE. How the two quotients
round is free (log entry 10), and so is an OFFSET beyond 64 bits (log entry 95). -/
def ClockModel.fit (m : ClockModel) (t : Int) (k : Nat) : Int × Int :=
  let (n, sx, sy, sxx, sxy) := fitSums t m.window
  let den := n * sxx - sx * sx
  if den = 0 then (offset64 (k + 2) (divFree k sy n.toNat), m.rate)
  else (offset64 (k + 2) (divFree k (sxx * sy - sx * sxy) den.toNat), divFree (k + 1) ((n * sxy - sx * sy) * 1099511627776) den.toNat)

/-- Process a pair of sensor time and hardware stamp (R108, R110); answers whether it was accepted. -/
def State.pair (s : State) (i : Nat) (t h : Int) : Bool × State :=
  let e := s.entry i
  let m := e.model
  let r := h - m.map t
  let e := { e with lastR := r }
  let isModel := e.clockSrc = 1
  if (m.n < 4 ∧ isModel) ∨ r.natAbs ≤ bits e.w1 63 32 * 65536 then
    let e := { e with model := { m with misfit := 0 } }
    let fitted : Option Entry × State :=
      if isModel then
        let w := m.window ++ [(t, h)]
        let w := w.drop (w.length - e.window)
        let (k, s) := s.take 4
        let (o, r) := { m with window := w }.fit t k
        if 2147483647 < r.natAbs then (none, s)
        else (some { e with model := { offset := o, rate := r, sRef := t, window := w, n := m.n + 1, misfit := 0 } }, s)
      else (some e, s)
    match fitted with
    | (none, s) => (true, (s.setEntry i e).maskClock i)
    | (some e, s) =>
      if e.state = .masked ∧ e.cause = 1 then
        let e := { e with goodRun := e.goodRun + 1 }
        let s := s.setEntry i e
        if bit e.w0 48 && e.window ≤ e.goodRun then (true, s.setSensor i .active 4 0 0) else (true, s)
      else (true, s.setEntry i e)
  else
    let e := { e with model := { m with misfit := m.misfit + 1 }, misfits := sat32 (e.misfits + 1), goodRun := 0 }
    let s := s.setEntry i e
    (false, if bits e.w1 23 16 ≤ e.model.misfit then s.maskClock i else s)

/-! ### Units (R89 to R94, R110, R116, R118) -/

/-- The three STAMP words of a unit time (R116). -/
def stampWords (u : Inst) : List Word :=
  let st := u.stamp
  [pack [(4, 63, 60), (0, 59, 58), (bits st.w0 63 32, 57, 26)],
   pack [(4, 63, 60), (1, 59, 58), (bits st.w0 31 0, 57, 26), (u.flags.toNat, 25, 10)],
   pack [(4, 63, 60), (2, 59, 58), (bits st.w1 31 0, 57, 26), (bits st.w1 47 32, 25, 10)]]

/-- The words of a unit (R93, R94, R116): the DATA_START word with the entry, kind, SEQ and low bits, its time, its DATA. -/
def unitWords (i kind seq low : Nat) (u : Inst) (data : List Word) : List Word :=
  pack [(2, 63, 60), (i, 59, 54), (kind, 53, 50), (seq, 49, 34), (low, 33, 0)] :: stampWords u ++
    data.map fun d => pack [(1, 63, 60), (bits d 59 0, 59, 0)]

/-- A unit forms for an entry: its time, the header's kind and low bits, and its DATA payloads. `valid`: the model was
valid before the unit's pair. The unit is delivered to an ACTIVE entry's enabled queue, and discarded otherwise. -/
def State.deliver (s : State) (i : Nat) (u : Inst) (kind low : Nat) (data : List Word) (valid : Bool) : State :=
  let e := s.entry i
  let s := if e.state = .absent ∧ e.enabled ∧ (e.clockSrc = 0 ∨ valid) then s.setSensor i .active 1 0 0 else s
  let e := s.entry i
  let s := s.setEntry i { e with seq := e.seq + 1, lastUnitAt := s.time.counter }
  let e := s.entry i
  if e.state ≠ .active ∨ (s.queue e.queue).depthCode = 0 then
    s.setEntry i { e with discarded := sat32 (e.discarded + 1) }
  else
    let s := s.setEntry i { e with units := sat32 (e.units + 1) }
    s.writeUnit e.queue i (unitWords i kind (e.seq - 1).toNat low u data)

/-- Flags of a mapped unit time (R91). -/
def mappedFlags (f : BitVec 16) : BitVec 16 := (f &&& 0xFFDF#16) ||| 16#16

/-- A unit with a sensor timestamp: the unit's time under the model as it stood, and the state after its pair. -/
def State.timed (s : State) (i : Nat) (h : Inst) (sensor : Option Int) : Inst × Bool × Bool × State :=
  let e := s.entry i
  match sensor with
  | none => (h, true, e.valid, s)
  | some t =>
    let (okp, s') := s.pair i t h.t
    ({ t := e.model.map t, flags := mappedFlags h.flags }, okp, e.valid, s')

/-- Extend a 32-bit count past its wraps (R99). -/
def State.extend (s : State) (i v : Nat) : Nat × State :=
  let e := s.entry i
  let n := match e.wrap with | none => 0 | some (p, n) => if v + 2147483648 < p then n + 1 else n
  (v + n * 4294967296, s.setEntry i { e with wrap := some (v, n) })

/-- DATA payloads of byte form (R94): six bytes a word from an index on, the last padded with 0. -/
def byteForm (index : Nat) : Nat → List Byte → List Word
  | 0, _ => []
  | k + 1, bs => if bs = [] then [] else
    pack [(index, 55, 48), (leNat (bs.take 6), 47, 0)] :: byteForm (index + 1) k (bs.drop 6)

/-- Entries of a class and port that are enabled, in index order. -/
def State.entriesFor (s : State) (cls port : Nat) : List Nat :=
  (List.range 64).filter fun i => (s.entry i).enabled && (s.entry i).cls == cls && (s.entry i).port == port

/-! ### Strobe inputs (R87, R482) -/

/-- The enabled entries that use an STB input while their ports deliver units. -/
def State.stbUsers (s : State) (pin : Nat) : List Nat :=
  (List.range 64).filter fun i =>
    let e := s.entry i
    e.enabled && s.delivers e.cls && ((e.cls = 4 && e.port = pin) || (e.linkEn && e.linkStb = pin))

/-- An input that is not in use holds nothing. -/
def State.dropUnused (s : State) : State :=
  { s with ll := { s.ll with stb := Vector.ofFn fun (p : Fin 16) => if (s.stbUsers p.val).isEmpty then [] else s.ll.stb[p] } }

/-- Start an SPI read for a data-ready edge, or set DRDY_MISSED while a read of the port runs (R104). The unit of a read
tells of the edges missed before it started (R93). -/
def State.spiStart (s : State) (i : Nat) (at_ : Inst) : State :=
  let e := s.entry i
  if (Machine.at_ s.ll.spi e.port none).isSome then s.setEntry i { e with drdyMissed := true }
  else
    let cmd := leBytes (bits e.w4 51 50 + 1) (bits e.w4 31 0)
    let s := s.setEntry i { e with drdyMissed := false }
    { s with
      ll := { s.ll with spi := put s.ll.spi e.port (some (i, at_, e.drdyMissed)) }
      pins := { s.pins with sent := s.pins.sent ++ [.spi e.port (bits e.w4 53 53) cmd] } }

/-- The users of an input take an edge in index order; answers whether it is consumed. A CSI entry will consume it at a
frame start, so that no later entry sees it. -/
def State.offerEdge (s : State) (ed : Edge) (only : Bool) : List Nat → Bool × State
  | [] => (false, s)
  | i :: r =>
    let e := s.entry i
    if e.cls = 4 then
      if bits e.w4 (if ed.rising then 0 else 1) (if ed.rising then 0 else 1) = 1 then
        (true, s.deliver i { ed.at_ with t := ed.at_.t - e.latency } 4 (b2n (!ed.rising) * 65536) [] true)
      else if only then (true, s)
      else s.offerEdge ed only r
    else if e.cls = 3 then (true, if ed.rising then s.spiStart i ed.at_ else s)
    else if e.cls = 0 then (false, s)
    else s.offerEdge ed only r

/-- An input holds an edge that no user has taken, up to sixteen; a further one is dropped and reported (R87). -/
def State.holdEdge (s : State) (pin : Nat) (ed : Edge) : State :=
  let held := at_ s.ll.stb pin []
  if 16 ≤ held.length then
    { s with ll := { s.ll with stbDropped := put s.ll.stbDropped pin (sat32 (at_ s.ll.stbDropped pin 0 + 1)) } }.llEvent pin 0 6 0
  else { s with ll := { s.ll with stb := put s.ll.stb pin (held ++ [ed]) } }

/-- STB_EDGE (R87, R104, R482). -/
def execStbEdge (pin : Fin 16) (rising : Bool) (phase : Fin 8) (s : State) : Host.Outcome State Fault Refusal :=
  let users := s.stbUsers pin.val
  let ed : Edge := { rising := rising, at_ := s.capture phase }
  fin s (logParts ++ [.ll, .iq]) <| if users.isEmpty then s else
  match s.offerEdge ed (users.length = 1) users with
  | (true, s) => s
  | (false, s) => s.holdEdge pin.val ed

/-! ### SPI (R104) -/

/-- SPI_READ_DONE (R89, R94, R104): the bytes read make one IMU_SAMPLE unit. Bytes that a timestamp field lacks are free. -/
def execSpiReadDone (port : Fin 4) (bs : List Byte) (s : State) : Host.Outcome State Fault Refusal :=
  fin s (logParts ++ [.ll, .iq]) <| match s.ll.spi[port] with
  | none => s
  | some (i, at_, missed) =>
    let s := { s with ll := { s.ll with spi := put s.ll.spi port.val none } }
    let e := s.entry i
    let n := bits e.w4 46 40
    let (k, s) := s.take (n + 8)
    let data := grab k bs 0 n
    let fmt := bits e.w5 11 8
    let raw := leNat (grab (k + n) data (bits e.w5 7 0) (if fmt = 0 then 8 else 4))
    let (ts, s) : Option Int × State :=
      if e.clockSrc = 0 then (none, s)
      else if fmt = 0 then (some (raw * 65536 : Nat), s)
      else
        let (v, s) := s.extend i raw
        (some ((if fmt = 2 then v * 65536000 else v * bits e.w5 63 32 : Nat) : Int), s)
    let (u, okp, valid, s) := s.timed i { at_ with t := at_.t - e.latency } ts
    s.deliver i u 2 (n * 65536 + b2n (!okp) * 64 + b2n missed * 32) (byteForm 0 (n + 1) data) valid

/-! ### Cameras (R88 to R90, R95, R96) -/

/-- Data types that are written to the frame buffer (R95). -/
def csiWritten (dt : Nat) : Bool := [0x12, 0x1E, 0x2A, 0x2B, 0x2C, 0x2D].contains dt || (0x30 ≤ dt && dt ≤ 0x37)

/-- The latest pulse among held edges whose fall precedes an instant: its rise and fall (R90). -/
def lastPulse (t : Int) : Option Edge → Option (Edge × Edge) → List Edge → Option (Edge × Edge)
  | _, best, [] => best
  | rise, best, e :: r =>
    if t ≤ e.at_.t then lastPulse t rise best r
    else if e.rising then lastPulse t (some e) best r
    else match rise with
      | some a => lastPulse t none (some (a, e)) r
      | none => lastPulse t none best r

/-- The edges left after a frame start (R482): those not captured before the stamp, and a rise whose fall was not yet captured
then. -/
def leftEdges (t : Int) : List Edge → List Edge
  | [] => []
  | e :: r =>
    if t ≤ e.at_.t ∨ (e.rising ∧ r.all fun f => decide (t ≤ f.at_.t)) then e :: leftEdges t r else leftEdges t r

/-- The low bits of the DATA_START word of a CAMERA_FRAME unit (R93). -/
def Frame.low (f : Frame) (noEnd : Bool) : Nat :=
  (match f.dt with | some d => d.toNat | none => 0) * 2 ^ 28 + f.buf * 2 ^ 24 + b2n noEnd * 8 + b2n f.noStrobe * 4 +
    b2n f.trunc * 2 + b2n f.crcErr

/-- Write the CAMERA_FRAME unit of a frame in progress (R92 to R94, R96). -/
def State.frameUnit (s : State) (i : Nat) (f : Frame) (noEnd : Bool) : State :=
  let e := s.entry i
  let va := bits e.w4 47 0 + f.buf * bits e.w5 31 0
  let s := s.setEntry i { e with frame := none }
  s.deliver i f.unit 0 (f.low noEnd) [pack [(va, 47, 0)], pack [(1, 55, 48), (f.lines, 47, 32), (f.bytes, 31, 0)]] true

/-- The lowest-index enabled CSI entry of a port and virtual channel. -/
def State.csiEntry (s : State) (port vc : Nat) : Option Nat :=
  (s.entriesFor 0 port).find? fun i => bits (s.entry i).w4 59 58 == vc

/-- An entry is the first camera that uses an input: it consumes the edges held there, and a camera of higher index sees none
of them (R482). -/
def State.pairsOn (s : State) (pin i : Nat) : Bool :=
  (s.stbUsers pin).find? (fun j => (s.entry j).cls == 0) == some i

/-- CSI_FRAME_START (R88 to R90, R96, R482). A midpoint's last half unit is free (log entry 10). DESIGN CHOICE (log entry 95):
of the two stamps of a midpoint, the unit takes the flags of the falling edge's; the unit of an entry with LINK_EN clear, which
has no linked input, carries NO_STROBE 0. -/
def execCsiFrameStart (port : Fin 12) (vc : Fin 4) (phase : Fin 8) (s : State) : Host.Outcome State Fault Refusal :=
  fin s (logParts ++ [.ll, .iq]) <| if !s.delivers 0 then s else
  match s.csiEntry port.val vc.val with
  | none => s
  | some i =>
    let s := match (s.entry i).frame with | some f => s.frameUnit i f true | none => s
    let e := s.entry i
    let c := s.capture phase
    let ring := bits e.w4 63 60 + 1
    let plain : Inst := { c with t := c.t - e.latency }
    let buf := e.nextBuf % ring
    if e.linkEn then
      let first := s.pairsOn e.linkStb i
      let held := if first then at_ s.ll.stb e.linkStb [] else []
      let pulse := match lastPulse c.t none none held with
        | some (a, b) => if c.t - b.at_.t ≤ e.periodNs * 65536 then some (a, b) else none
        | none => none
      let (k, s) := s.take 1
      let s := if first then { s with ll := { s.ll with stb := put s.ll.stb e.linkStb (leftEdges c.t held) } } else s
      let f : Frame := match pulse with
        | some (a, b) => { unit := { t := divFree k (a.at_.t + b.at_.t) 2, flags := b.at_.flags }, buf := buf, noStrobe := false,
                           regions := s.mem.regions }
        | none => { unit := plain, buf := buf, noStrobe := true, regions := s.mem.regions }
      s.setEntry i { e with frame := some f, nextBuf := (buf + 1) % ring }
    else s.setEntry i { e with
      frame := some { unit := plain, buf := buf, noStrobe := false, regions := s.mem.regions }, nextBuf := (buf + 1) % ring }

/-- Count a packet or datagram that a port discards. -/
def State.csiDrop (s : State) (port : Nat) : State :=
  { s with ll := { s.ll with csiDiscarded := put s.ll.csiDiscarded port (sat32 (at_ s.ll.csiDiscarded port 0 + 1)) } }

/-- CSI_LONG_PACKET (R95, R96, R338). DESIGN CHOICE (log entry 95): outside a frame, with no Frame Start before it, it is dropped
and not counted. Otherwise it is written in arrival order under the region table with which the frame began (R339); a
write that faults ends the frame's writes. A sensor port does not end the idle time of a channel (R329). -/
def execCsiLongPacket (port : Fin 12) (vc : Fin 4) (dt : BitVec 6) (bs : List Byte) (crcOk : Bool) (s : State) :
    Host.Outcome State Fault Refusal :=
  fin s (logParts ++ [.ll, .mem, .cells]) <| if !s.delivers 0 then s
  else if !csiWritten dt.toNat then s.csiDrop port.val
  else match s.csiEntry port.val vc.val with
  | none => s
  | some i =>
    let e := s.entry i
    match e.frame with
    | none => s
    | some f =>
      let f := { f with crcErr := f.crcErr || !crcOk }
      if f.stopped then s.setEntry i { e with frame := some f } else
      let room := bits e.w5 31 0 - f.bytes
      let data := bs.take room
      let f := { f with trunc := f.trunc || room < bs.length }
      if data = [] then s.setEntry i { e with frame := some f } else
      let va := bits e.w4 47 0 + f.buf * bits e.w5 31 0 + f.bytes
      match (withRegions f.regions (writeM va data)).go s.outsideLaunch with
      | (.ok _, t) => let s := s.keepIdle t
        s.setEntry i { e with frame := some { f with
          bytes := f.bytes + data.length, lines := f.lines + 1, dt := f.dt <|> some dt } }
      | (.error _, t) => let s := s.keepIdle t
        (s.setEntry i { e with frame := some { f with trunc := true, stopped := true } }).log 0x10 0 port.val 0 0 0

/-- CSI_FRAME_END (R96). -/
def execCsiFrameEnd (port : Fin 12) (vc : Fin 4) (s : State) : Host.Outcome State Fault Refusal :=
  fin s (logParts ++ [.ll, .iq]) <| if !s.delivers 0 then s else
  match s.csiEntry port.val vc.val with
  | none => s
  | some i => match (s.entry i).frame with
    | none => s
    | some f => s.frameUnit i f false

/-- CSI_OTHER_PACKET (R95). -/
def execCsiOtherPacket (port : Fin 12) (k : CsiOther) (s : State) : Host.Outcome State Fault Refusal :=
  fin s [.ll] <| match k with
  | .lineStart => s
  | .lineEnd => s
  | .otherType => if s.delivers 0 then s.csiDrop port.val else s
  | .badHeader => if s.delivers 0 then s.csiDrop port.val else s

/-! ### Ethernet (R97 to R101) -/

/-- Ones-complement sum of big-endian 16-bit groups, an odd last byte padded with 0. -/
def sum16 : List Byte → Nat
  | [] => 0
  | [a] => a.toNat * 256
  | a :: b :: r => a.toNat * 256 + b.toNat + sum16 r

/-- The checksum over some bytes is correct: their folded sum is 0xFFFF (0 mod 0xFFFF and not 0). -/
def sumOk (n : Nat) : Bool := n % 65535 = 0 && n != 0

def be (bs : List Byte) (o n : Nat) : Nat := beNat (sliceB bs o n)

/-- The frame without its IEEE 802.1Q tag: source and destination, then EtherType and payload. -/
def untag (bs : List Byte) : List Byte := if be bs 12 2 = 0x8100 then bs.take 12 ++ bs.drop 16 else bs

/-- An ARP reply to a request for the port's address (R97). -/
def arpReply (mac : BitVec 48) (ip : BitVec 32) (f : List Byte) : Option (List Byte) :=
  let a := f.drop 14
  let m := (leBytes 6 mac.toNat).reverse
  let p := (leBytes 4 ip.toNat).reverse
  if be f 12 2 = 0x0806 ∧ be a 0 2 = 1 ∧ be a 2 2 = 0x0800 ∧ be a 4 1 = 6 ∧ be a 5 1 = 4 ∧ be a 6 2 = 1 ∧
      be a 24 4 = ip.toNat then
    some (sliceB a 8 6 ++ m ++ [0x08, 0x06, 0, 1, 8, 0, 6, 4, 0, 2] ++ m ++ p ++ sliceB a 8 6 ++ sliceB a 14 4)
  else none

/-- A UDP datagram over IPv4 that the parser is offered (R97, R98): source address, destination port, payload. -/
def udpOf (f : List Byte) : Option (Nat × Nat × List Byte) :=
  let ip := f.drop 14
  let ihl := be ip 0 1 % 16 * 4
  let total := be ip 2 2
  let u := (ip.take total).drop ihl
  let ulen := be u 4 2
  let pseudo := sum16 (sliceB ip 12 8) + 17 + ulen
  if be f 12 2 = 0x0800 ∧ be ip 0 1 / 16 = 4 ∧ 20 ≤ ihl ∧ ihl + 8 ≤ total ∧ total ≤ ip.length ∧ be ip 9 1 = 17 ∧
      be ip 6 2 % 16384 = 0 ∧ sumOk (sum16 (ip.take ihl)) ∧ 8 ≤ ulen ∧ ulen ≤ u.length ∧
      (be u 6 2 = 0 ∨ sumOk (pseudo + sum16 (u.take ulen))) then
    some (be ip 12 4, be u 2 2, (u.take ulen).drop 8)
  else none

def State.template (s : State) (i : Nat) : Template := at_ s.ll.templates i {}
def Template.word (t : Template) (i : Nat) : Word := at_ t.w i 0

/-- Bytes of a timestamp format (R99). -/
def tsBytes (fmt : Nat) : Nat := if fmt = 0 ∨ fmt = 1 then 8 else if fmt = 2 then 4 else if fmt = 3 then 10 else 0

/-- A datagram matches a template (R98). DESIGN CHOICE (log entry 95): one too short to hold the CHECK field does not match, and the
next entry is tried. -/
def Template.matches_ (t : Template) (src dport : Nat) (p : List Byte) : Bool :=
  let w0 := t.word 0
  let w1 := t.word 1
  dport = bits w0 63 48 && (bits w0 47 16 = 0 || src = bits w0 47 16) && (bits w0 15 0 = 0 || p.length = bits w0 15 0) &&
  decide (bits w1 63 48 + 2 ≤ p.length) && (leNat (sliceB p (bits w1 63 48) 2) &&& bits w1 47 32) = bits w1 31 16

/-- Bytes of the payload that a template reads (R99). -/
def Template.need (t : Template) : Nat :=
  let w2 := t.word 2
  let w3 := t.word 3
  let w4 := t.word 4
  let last := bits w2 31 16 + (bits w2 39 32 - 1) * bits w2 15 0
  let pt := last + bits w3 47 32 + (bits w3 63 54 - 1) * bits w3 31 16
  let range := pt + bits w4 63 56 + bits w4 55 54 + 2
  let int := if bits w4 27 20 = 0xFF then 0 else pt + bits w4 27 20 + 1
  let az := (if bit w4 11 then pt else last) + bits w4 19 12 + 2
  max (max range int) (max az (bits w2 63 48 + tsBytes (bits w2 47 44)))

/-- A field of `n` bytes in the template's byte order. -/
def Template.field (t : Template) (p : List Byte) (o n : Nat) : Nat :=
  if bit (t.word 3) 0 then beNat (sliceB p o n) else leNat (sliceB p o n)

/-- TIME_OFS of a channel (R101): the fire time over 8, to nearest; a tie is free. -/
def Template.timeOfs (t : Template) (ch k : Nat) : Nat :=
  let ns := min (t.fire.getD ch 0).toNat 16376
  if ns % 8 = 4 then ns / 8 + Config.freeNat k % 2 else (ns + 4) / 8

/-- One point of a block: its DATA payload, or none where it is dropped (R94, R99, R101). DESIGN CHOICE (log entry 95): a raw
range other than 0 whose RANGE comes out as 0 is kept and carries RANGE 0, with KEEP_ZERO clear too. -/
def Template.point (t : Template) (p : List Byte) (block i k : Nat) : Option Word :=
  let w3 := t.word 3
  let w4 := t.word 4
  let w5 := t.word 5
  let at_ := block + bits w3 47 32 + i * bits w3 31 16
  let raw := t.field p (at_ + bits w4 63 56) (bits w4 55 54 + 2)
  let range := (raw * bits w4 47 32) >>> bits w4 31 28
  let int := if bits w4 27 20 = 0xFF then 0 else leNat (sliceB p (at_ + bits w4 27 20) 1)
  let az := t.field p ((if bit w4 11 then at_ else block) + bits w4 19 12) 2
  let ch := i % bits w3 15 8
  if 262143 < range ∨ (raw = 0 ∧ ¬ bit w3 1) then none
  else some (pack [(t.timeOfs ch k, 59, 49), (ch, 48, 42), (int, 41, 34), (range, 33, 16),
    (((az * bits w5 63 48) >>> bits w5 47 44) % 65536, 15, 0)])

/-- The sensor time of a packet, in 2^-16 ns (R99). -/
def State.packetTime (s : State) (i : Nat) (t : Template) (p : List Byte) : Option Int × State :=
  let o := bits (t.word 2) 63 48
  let ns : Nat → Int := fun n => n * 65536
  match bits (t.word 2) 47 44 with
  | 0 => (some (ns (t.field p o 8)), s)
  | 1 => (some (ns (t.field p o 4 * 1000000000 + t.field p (o + 4) 4)), s)
  | 2 => let (v, s) := s.extend i (t.field p o 4)
         (some (ns (v * 1000)), s)
  | 3 => (some (ns (t.field p o 6 * 1000000000 + t.field p (o + 6) 4)), s)
  | _ => (none, s)

/-- Count a datagram that the parser discards (R98). -/
def State.ethDrop (s : State) (port : Nat) : State :=
  let q := at_ s.ll.eth port {}
  { s with ll := { s.ll with eth := put s.ll.eth port { q with discarded := sat32 (q.discarded + 1) } } }

/-- Parse a datagram into SCAN_BLOCK units of an entry (R89, R99, R101). A packet yields one pair: every block of it takes
the model as it stood before that pair (log entry 14). -/
def State.parse (s : State) (i : Nat) (t : Template) (p : List Byte) (stamp : Inst) : State :=
  let e := s.entry i
  let h : Inst := { stamp with t := stamp.t - e.latency }
  let (ts, s) : Option Int × State := if e.clockSrc = 0 then (none, s) else s.packetTime i t p
  let (u, okp, valid, s) := s.timed i h ts
  let w2 := t.word 2
  let n := bits (t.word 3) 63 54
  (List.range (bits w2 39 32)).foldl (fun s b =>
    let (k, s) := s.take n
    let pts := (List.range n).map fun j => t.point p (bits w2 31 16 + b * bits w2 15 0) j (k + j)
    let data := pts.filterMap id
    let low := data.length * 65536 + b2n (!okp) * 64 + b2n (data.length < n) * 16
    s.deliver i { u with t := u.t + b * bits (t.word 5) 31 0 * 4096 } 1 low data valid) s

/-- ETH_FRAME_RX (R86, R97, R98): the frame from its destination address to the end of its payload. Its stamp is the
port's last delimiter stamp, or the one that handler entry now gives. DESIGN CHOICE (log entry 95): ARP is answered in every
state in which the ports are up, STANDBY and FAULT_HALT among them. -/
def execEthFrameRx (port : Fin 4) (bs : List Byte) (s : State) : Host.Outcome State Fault Refusal :=
  let q := s.ptpPort port.val
  let own := { t := s.time.now16 - 24 * 51200 - q.ingress, flags := s.now.flags : Inst }
  let stamp : Inst := match q.stamp with | some st => if st.tx then own else { t := st.t, flags := st.flags } | none => own
  let ep := at_ s.ll.eth port.val {}
  let f := untag bs
  fin s (logParts ++ [.ll, .iq]) <| if !s.portsUp || bs.length + 4 < 64 || 9216 < bs.length + 4 then s
  else if be f 0 6 = 0xFFFFFFFFFFFF || be f 0 6 = ep.mac.toNat then
    match arpReply ep.mac ep.ipv4 f with
    | some r => { s with pins := { s.pins with sent := s.pins.sent ++ [.eth port.val r] } }
    | none =>
      if be f 0 6 = 0xFFFFFFFFFFFF || !s.delivers 1 then s else
      match udpOf f with
      | none => s
      | some (src, dport, p) =>
        if dport = 319 ∨ dport = 320 then s else
        match (s.entriesFor 1 port.val).find? fun i => (s.template (s.entry i).template).matches_ src dport p with
        | none => s.ethDrop port.val
        | some i =>
          let t := s.template (s.entry i).template
          if p.length < t.need then s.ethDrop port.val else s.parse i t p stamp
  else s

/-- ETH_LINK_DOWN and ETH_LINK_UP (R114). -/
def execEthLinkDown (port : Fin 4) (s : State) : Host.Outcome State Fault Refusal :=
  let q := at_ s.ll.eth port.val {}
  fin s (noteParts ++ [.ll]) <| if q.up then
    { s with ll := { s.ll with eth := put s.ll.eth port.val { q with up := false } } }.llEvent port.val 0 7 0
  else s
def execEthLinkUp (port : Fin 4) (s : State) : Host.Outcome State Fault Refusal :=
  let q := at_ s.ll.eth port.val {}
  fin s (noteParts ++ [.ll]) <| if !q.up && s.portsUp then
    { s with ll := { s.ll with eth := put s.ll.eth port.val { q with up := true } } }.llEvent port.val 0 8 0
  else s

/-! ### CAN (R102, R103) -/

def State.canPort (s : State) (c : Nat) : CanPort := at_ s.ll.can c {}
def State.setCan (s : State) (c : Nat) (p : CanPort) : State := { s with ll := { s.ll with can := put s.ll.can c p } }

/-- The identifier of a CAN frame. -/
def canIdent (f : CanFrame) : Nat := if f.ide then f.id.toNat else f.id.toNat % 2048

/-- An entry takes frames with this identifier (R102). -/
def Entry.takesCan (e : Entry) (f : CanFrame) : Bool :=
  bit e.w4 63 == f.ide && ((canIdent f) &&& bits e.w4 60 32) == (bits e.w4 28 0 &&& bits e.w4 60 32)

/-- The DATA payloads of a CAN frame (R94). -/
def canPayloads (f : CanFrame) : List Word :=
  pack [(0, 55, 48), (min f.data.length 64, 38, 32), (b2n f.brs, 31, 31), (b2n f.fdf, 30, 30), (b2n f.ide, 29, 29),
    ((canIdent f), 28, 0)] :: byteForm 1 12 (f.data.take 64)

/-- CAN_FRAME_RX (R89, R94, R102). DESIGN CHOICE (log entry 95): the row stands at the frame's start, so that the start-of-frame
stamp is the time line at the row. -/
def execCanFrameRx (c : Fin 2) (f : CanFrame) (s : State) : Host.Outcome State Fault Refusal :=
  let p := s.canPort c.val
  fin s (logParts ++ [.ll, .iq]) <| if !s.delivers 2 || p.busOff || f.rtr then s else
  match (s.entriesFor 2 c.val).find? fun i => (s.entry i).takesCan f with
  | none => s.setCan c.val { p with discarded := sat32 (p.discarded + 1) }
  | some i =>
    s.deliver i { s.now with t := s.now.t - (s.entry i).latency } 3 (min f.data.length 64 * 65536) (canPayloads f) true

/-- CAN_BUS_OFF (R102, R114). -/
def execCanBusOff (c : Fin 2) (s : State) : Host.Outcome State Fault Refusal :=
  fin s (noteParts ++ [.ll]) <| if s.portsUp then (s.setCan c.val { s.canPort c.val with busOff := true }).llEvent c.val 0 5 0 else s

/-- CAN_BUS_OFF_RECOVERY (R102). -/
def execCanBusOffRecovery (c : Fin 2) (s : State) : Host.Outcome State Fault Refusal :=
  fin s [.ll] (s.setCan c.val { s.canPort c.val with busOff := false })

/-- The last multiple of the SYNC period that NS has reached, in ns of the time line (R103). -/
def State.syncMark (s : State) (periodUs : Nat) : Int :=
  let ns := s.time.now16 / 65536
  ns / 1000000000 * 1000000000 + ns % 1000000000 / (periodUs * 1000 : Nat) * (periodUs * 1000 : Nat)

/-- CAN_SYNC (R103). -/
def execCanSync (c : Fin 2) (s : State) : Host.Outcome State Fault Refusal :=
  let p := s.canPort c.val
  let period := bits p.sync 63 48
  fin s [.ll] <| if s.delivers 2 && period != 0 && s.syncMark period != p.crossed then
    s.setCan c.val { p with queued := true, crossed := s.syncMark period }
  else s

/-- CAN_SYNC_TRANSMIT (R103). -/
def execCanSyncTransmit (c : Fin 2) (s : State) : Host.Outcome State Fault Refusal :=
  let p := s.canPort c.val
  fin s [.ll, .pins] <| if p.queued && !p.busOff && s.delivers 2 then
    let s := s.setCan c.val { p with queued := false }
    let id := BitVec.ofNat 29 (if bit p.sync 29 then bits p.sync 28 0 else bits p.sync 10 0)
    { s with pins := { s.pins with sent := s.pins.sent ++
        [.can c.val (bit p.sync 29) id (leBytes (bits p.sync 47 40) p.syncData.toNat)] } }
  else s

/-! ### Sensor states and messages (R106, R110, R113) -/

/-- SENSOR_ABSENT (R110, R479): no unit for MISS × PERIOD_NS of counter time. DESIGN CHOICE (log entry 95): an entry with PERIOD_NS
0 never becomes ABSENT, MASKED with cause CLOCK or not. -/
def execSensorAbsent (i : Fin 64) (s : State) : Host.Outcome State Fault Refusal :=
  let e := s.entry i.val
  let due := e.periodNs != 0 && e.enabled && decide
    (bits e.w1 31 24 * e.periodNs * 1280 ≤ (s.time.counter - e.lastUnitAt) * 1000)
  fin s (noteParts ++ [.ll]) <| if !due then s
  else if e.state = .active then (s.setEntry i.val e.clear).setSensor i.val .absent 2 0 0
  else if e.state = .masked ∧ e.cause = 1 then s.setSensor i.val .absent 2 0 0
  else s

/-- Ports of a class (R85). -/
def portCount (cls : Nat) : Nat := if cls = 0 then 12 else if cls = 1 then 4 else if cls = 2 then 2 else if cls = 3 then 4 else 16

/-- The checks of R106: (payload word, holds). -/
def entryChecks (s : State) (w : Nat → Word) : List (Nat × Bool) :=
  let cls := bits (w 0) 62 60
  let src := bits (w 0) 51 50
  let w1 := w 1
  [(1, cls ≤ 4), (1, src ≤ 2), (1, bits (w 0) 59 56 < portCount cls),
   (1, src = 0 || cls = 3 || (cls = 1 && bits ((s.template (bits (w 0) 55 52)).word 2) 47 44 != 4)),
   (1, cls != 3 || bit (w 0) 49),
   (2, bits w1 63 32 != 0), (2, bits w1 31 24 != 0), (2, bits w1 23 16 != 0),
   (2, decide (4 ≤ bits w1 15 8 ∧ bits w1 15 8 ≤ 64)), (4, bits (w 3) 47 0 % 64 = 0),
   (5, cls != 0 || (bits (w 4) 63 60 != 0 && bits (w 4) 57 56 != 3 && bits (w 4) 47 0 % 4096 = 0)),
   (6, cls != 0 || bits (w 5) 31 0 % 4096 = 0),
   (5, cls != 3 || (4 ≤ bits (w 4) 63 56 && 1 ≤ bits (w 4) 46 40 && bits (w 4) 46 40 ≤ 64)),
   (6, cls != 3 || [0, 2, 5].contains (bits (w 5) 11 8)),
   (5, cls != 4 || bits (w 4) 1 0 != 0)]

/-- What an entry change or an LL_UNMASK does to the buoy table's record of the sensor (R234, R235): E returns to 1.0 and
COUNT to 0 of that entry, and its contradiction pairs are forgotten. -/
def State.forgetSensor (s : State) (i : Nat) : State :=
  { s with buoys := { s.buoys with
    e := put s.buoys.e i 65536, count := put s.buoys.count i 0
    pairs := s.buoys.pairs.map fun p =>
      (p.1, { p.2 with dwA := p.2.dwA && p.1.1 != i, dwB := p.2.dwB && p.1.2 != i }) } }

/-- The words of an entry with the reserved bits of its class as 0 (R10, R105). -/
def entryWords (w : Nat → Word) : Vector Word 6 :=
  let cls := bits (w 0) 62 60
  let m4 : Word := if cls = 0 then 0xFF00FFFFFFFFFFFF#64 else if cls = 2 then 0x9FFFFFFF1FFFFFFF#64
    else if cls = 3 then 0xFFEC7F00FFFFFFFF#64 else if cls = 4 then 3 else 0
  let m5 : Word := if cls = 0 then 0x00000000FFFFFFFF#64 else if cls = 3 then 0xFFFFFFFF00000FFF#64 else 0
  #v[w 0 &&& (if cls = 1 then 0xFFFFFFC0FFFFFFFF#64 else 0xFF0FFFC0FFFFFFFF#64), w 1, w 2, w 3, w 4 &&& m4, w 5 &&& m5]

/-- LL_SET_ENTRY (R106, R110): the entry becomes ABSENT with its model and counters cleared. -/
def llSetEntry (c : Cmd) (s : State) : Ans :=
  let i := bits (wAt c.words 0) 5 0
  let w := fun (k : Nat) => wAt c.words (k + 1)
  checked (entryChecks s w) <|
  let s := (s.abandon i).setEntry i { w := entryWords w }
  ok ((s.forgetSensor i).dropUnused)
def execLlSetEntry (ch : Fin 33) (s : State) : Host.Outcome State Fault Refusal :=
  fin s (ansParts ++ [.ll, .buoys]) (s.serve ch 0x300 7 llSetEntry)

/-- LL_GET_ENTRY (R113). -/
def llGetEntry (c : Cmd) (s : State) : Ans := okWith s (s.entry (bits (wAt c.words 0) 5 0)).w.toList
def execLlGetEntry (ch : Fin 33) (s : State) : Host.Outcome State Fault Refusal :=
  fin s ansParts (s.serve ch 0x301 1 llGetEntry)

/-- Codes of R113. -/
def SensorState.code : SensorState → Nat
  | .absent => 0 | .active => 1 | .masked => 2

/-- LL_GET_STATUS (R113). How LAST_R_NS rounds is free (log entry 10). -/
def llGetStatus (c : Cmd) (s : State) : Ans :=
  let e := s.entry (bits (wAt c.words 0) 5 0)
  let (k, s) := s.take 1
  let r := max (-2147483648) (min 2147483647 (divFree k e.lastR 65536))
  okWith s [pack [(b2n e.valid, 16, 16), (if e.state = .masked then e.cause else 0, 10, 8), (e.state.code, 1, 0)],
    wdI e.model.offset, pack [(fld 32 e.model.rate, 31, 0)], wdI e.model.sRef,
    pack [(e.units, 63, 32), (e.discarded, 31, 0)], pack [(e.misfits, 63, 32), (fld 32 r, 31, 0)]]
def execLlGetStatus (ch : Fin 33) (s : State) : Host.Outcome State Fault Refusal :=
  fin s ansParts (s.serve ch 0x302 1 llGetStatus)

/-- LL_MASK (R110). -/
def llMask (c : Cmd) (s : State) : Ans :=
  let i := bits (wAt c.words 0) 5 0
  stateCheck ((s.entry i).state = .active) <| ok (s.maskSensor i 5)
def execLlMask (ch : Fin 33) (s : State) : Host.Outcome State Fault Refusal :=
  fin s (ansParts ++ [.ll]) (s.serve ch 0x303 1 llMask)

/-- LL_UNMASK (R110, R234, R235). -/
def llUnmask (c : Cmd) (s : State) : Ans :=
  let i := bits (wAt c.words 0) 5 0
  let e := s.entry i
  stateCheck (e.state = .masked) <|
  ok ((s.setSensor i (if e.clockSrc = 0 ∨ e.valid then .active else .absent) 4 0 0).forgetSensor i)
def execLlUnmask (ch : Fin 33) (s : State) : Host.Outcome State Fault Refusal :=
  fin s (ansParts ++ [.ll, .buoys]) (s.serve ch 0x304 1 llUnmask)

/-- LL_SET_TEMPLATE (R99, R100). -/
def llSetTemplate (c : Cmd) (s : State) : Ans :=
  let i := bits (wAt c.words 0) 3 0
  let w := fun (k : Nat) => wAt c.words (k + 1)
  let blocks := bits (w 2) 39 32
  let chans := bits (w 3) 15 8
  checked [(3, bits (w 2) 47 44 ≤ 4), (3, decide (1 ≤ blocks ∧ blocks ≤ 32)), (4, bits (w 3) 63 54 != 0),
    (4, decide (1 ≤ chans ∧ chans ≤ 128)), (5, bits (w 4) 55 54 != 3)] <|
  let ws := Vector.ofFn fun (k : Fin 7) => w k.val
  let va := bits (w 6) 47 0
  let put_ := fun (s : State) (fire : List (BitVec 16)) =>
    ok { s with ll := { s.ll with templates := put s.ll.templates i { w := ws, fire := fire } } }
  if va = 0 then put_ s [] else
  match s.keeperRead va 256 with
  | (none, s) => .ok (s, { status := 7 })
  | (some bs, s) => put_ s ((List.range 128).map fun k => BitVec.ofNat 16 (leNat (sliceB bs (2 * k) 2)))
def execLlSetTemplate (ch : Fin 33) (s : State) : Host.Outcome State Fault Refusal :=
  fin s (ansParts ++ [.ll, .mem, .faults]) (s.serve ch 0x310 8 llSetTemplate)

/-- LL_SET_ETH_PORT (R113): the MAC address is a unicast address. -/
def llSetEthPort (c : Cmd) (s : State) : Ans :=
  let i := bits (wAt c.words 0) 1 0
  let q := at_ s.ll.eth i {}
  checked [(1, !bit (wAt c.words 1) 40)] <|
  ok { s with ll := { s.ll with eth := put s.ll.eth i { q with
    mac := BitVec.ofNat 48 (bits (wAt c.words 1) 47 0), ipv4 := BitVec.ofNat 32 (bits (wAt c.words 2) 31 0) } } }
def execLlSetEthPort (ch : Fin 33) (s : State) : Host.Outcome State Fault Refusal :=
  fin s (ansParts ++ [.ll]) (s.serve ch 0x320 3 llSetEthPort)

/-- A bit timing from an 80 MHz clock meets a rate in kb/s and a sample point in per mille within ±1% (R113): some whole
number n of clock periods per bit, with some whole number of them before the sample point. -/
def canTiming (kbps sp : Nat) : Bool :=
  let n0 := 80000 / kbps
  (List.range (n0 / 50 + 3)).any fun d =>
    let n := n0 - n0 / 100 - 1 + d
    let rate := decide (2 ≤ n ∧ 80000 * 100 ≤ 101 * (n * kbps) ∧ 99 * (n * kbps) ≤ 80000 * 100)
    rate && ((List.range 4).any fun j =>
      let k := n * sp / 1000 + j - 1
      decide (1 ≤ k ∧ k < n ∧ 99 * sp * n ≤ 100 * (1000 * k) ∧ 100 * (1000 * k) ≤ 101 * sp * n))

/-- LL_SET_CAN_PORT (R103, R113). -/
def llSetCanPort (c : Cmd) (s : State) : Ans :=
  let i := bits (wAt c.words 0) 0 0
  let w1 := wAt c.words 1
  let w2 := wAt c.words 2
  let nom := bits w1 63 48
  let dat := bits w1 47 32
  let nsp := bits w1 31 22
  let dsp := bits w1 21 12
  let period := bits w2 63 48
  let ranges := decide (125 ≤ nom ∧ nom ≤ 1000 ∧ 1000 ≤ dat ∧ dat ≤ 8000 ∧ 500 ≤ nsp ∧ nsp ≤ 900 ∧ 500 ≤ dsp ∧ dsp ≤ 900)
  checked [(1, ranges && canTiming nom nsp && canTiming dat dsp),
    (2, period = 0 || decide (100 ≤ period ∧ period ≤ 50000)), (2, bits w2 47 40 ≤ 8)] <|
  let p := s.canPort i
  ok (s.setCan i { p with timing := w1, sync := w2, syncData := wAt c.words 3, queued := false
                          crossed := if period = 0 then 0 else s.syncMark period })
def execLlSetCanPort (ch : Fin 33) (s : State) : Host.Outcome State Fault Refusal :=
  fin s (ansParts ++ [.ll]) (s.serve ch 0x321 4 llSetCanPort)

/-! ### Ports stop (R86) -/

/-- Units in progress of some classes are abandoned, and unused inputs hold nothing. -/
def State.portsStop (s : State) (cls : Nat → Bool) : State :=
  ((List.range 64).foldl (fun s i => if cls (s.entry i).cls then s.abandon i else s) s).dropUnused

end Sys2Proof.Machine
end

