-- ==== Sys2Proof/Machine/Device.lean ====
section
/-! DEFINITION. Device states and their transitions (R366, R367), fog causes and halts (R437 to R441), and the device
messages (R362, R364, R369). -/
namespace Sys2Proof.Machine

/-- A change of device state with its DEV_EVENT; `cause` is a fault-log INDEX, or 0xFFFF_FFFF for a message (R367,
R369). -/
def State.changeState (s : State) (nxt : DevState) (cause : Nat := 0xFFFFFFFF) : State :=
  let old := s.dev.state
  let s := { s with dev := { s.dev with from_ := old, state := nxt, since := s.now.stamp } }
  s.event 0x0F0 (pack [(old.code, 15, 12), (nxt.code, 11, 8), (1, 7, 0)]) (wd cause)

/-- The collector stops (R458): 0 FOG, 1 FAULT_HALT, 2 ring fault. -/
def State.stopCollector (s : State) (value : Nat) : State :=
  if !s.pm.running then s else
  { s with pm := { s.pm with running := false, snap := none, ctr := s.pm.ctr.map fun (c : Counter) => { c with request := none } } }.event
    0xCF0 (wd 1) (wd value)

/-- A launch in flight still has its part on a tile group to do. -/
def State.groupBusy (s : State) (g : Nat) : Bool := s.dev.launches.any fun l => l.hasRun g g (· != .done)

/-- Gate every tile group but those that launches in flight run on or wait at (R81, R439). -/
def State.gateIdle (s : State) : State :=
  let gs := Vector.ofFn fun (g : Fin 16) =>
    let x := s.tiles.groups[g]
    if s.groupBusy g.val then x else { x with gated := true }
  { s with tiles := { s.tiles with groups := gs } }

/-- Entry to FOG (R67, R74, R86, R329, R367, R439, R458). -/
def State.enterFog (s : State) (cause : Nat := 0xFFFFFFFF) : State :=
  let s := s.changeState .fog cause
  let s := (s.discardUnstarted fun l => !l.ego).beaconsLow
  let s := (s.portsStop fun c => c < 2).stopCollector 0
  { s with mem := { s.mem with asleep := BitVec.allOnes 64 } }.gateIdle

/-- Entry to FAULT_HALT (R67, R74, R86, R367, R438, R458): launches in flight end FAULTED, the others are discarded. It
needs a keeper pair that works. The fault writes its own entry with ACTION HALT. -/
def State.enterHalt (s : State) (cls unit : Nat) (seen : Option Stamp := none) : State :=
  if s.dev.state = .faultHalt ∨ ¬ s.keeperUp then s else
  let i := s.faults.next
  let s := s.log cls 6 unit 0 0 0 seen
  let s := s.changeState .faultHalt i
  let gone := s.dev.launches
  let s := { s with dev := { s.dev with launches := [] }, layout := { s.layout with move := none, remote := [], mode := 0 } }
  let s := gone.foldl (fun s l => s.listDone l (if l.inFlight then 1 else 2)) s
  let cs := s.chars.map fun (c : Char) => if c.state = CharState.empty then c else { c with state := .loaded }
  let s := { s with chars := cs }
  ((s.beaconsLow.portsStop fun _ => true).stopCollector 1)

/-- A fog cause begins to hold (R437): its entry with ACTION FOG (R442). It takes effect as FOG_ENTRY. -/
def State.addCause (s : State) (c : FogCause) (cls unit : Nat) (seen : Option Stamp := none) : State :=
  if s.faults.causes.any (·.1 = c) then s else
  let i := s.faults.next
  let s := s.log cls 5 unit 0 0 0 seen
  { s with faults := { s.faults with causes := s.faults.causes ++ [(c, i)] } }

/-- A fog cause ends (R437): FOG_PENDING is carried only while a cause holds. -/
def State.endCause (s : State) (c : FogCause) : State :=
  let causes := s.faults.causes.filter fun x => x.1 ≠ c
  let s := { s with faults := { s.faults with causes := causes } }
  if causes = [] ∧ (s.dev.state = .standby ∨ s.dev.state = .armed) then { s with dev := { s.dev with fogPending := false } } else s

/-- FOG_ENTRY (R367, R437): a cause that holds takes effect. -/
def execFogEntry (c : FogCause) (s : State) : Host.Outcome State Fault Refusal :=
  fin s (ansParts ++ [.ll, .tiles, .mem, .devState]) <| match s.faults.causes.find? fun x => decide (x.1 = c) with
  | none => s
  | some (_, i) =>
    if ¬ s.keeperUp then s
    else if s.dev.state = .running then s.enterFog i
    else if (s.dev.state = .standby ∨ s.dev.state = .armed) ∧ ¬ s.dev.fogPending then
      { s with dev := { s.dev with fogPending := true } }.event 0x0F0
        (pack [(s.dev.state.code, 15, 12), (s.dev.state.code, 11, 8), (2, 7, 0)]) (wd i)
    else s

/-! ### Device messages (R362, R364, R367, R369, R441) -/

/-- DEV_GET_INFO (R2, R369). A device without a chain position answers 0. -/
def devGetInfo (_ : Cmd) (s : State) : Ans :=
  let b := s.boot
  okWith s [pack [(1, 31, 24), (0, 23, 16), (b2n b.otp.part128, 8, 8), (if b.otp.part128 then 128 else 64, 7, 0)],
    (match b.fw with | some f => f.version | none => 0), b.otp.serial,
    pack [(b.cause.toNat, 43, 40), (b.strap.toNat, 35, 32), (b2n b.member, 24, 24), (s.chain.pos.getD 0, 21, 16),
      (s.chain.number.toNat, 15, 0)],
    pack [(b.otp.rollback, 6, 0)]]
def execDevGetInfo (ch : Fin 33) (s : State) : Host.Outcome State Fault Refusal :=
  fin s ansParts (s.serve ch 0x000 0 devGetInfo)

/-- DEV_GET_STATE (R369). -/
def devGetState (_ : Cmd) (s : State) : Ans :=
  okWith s [pack [(s.dev.from_.code, 11, 8), (b2n s.dev.fogPending, 4, 4), (s.dev.state.code, 3, 0)], s.dev.since.w0,
    s.dev.since.w1]
def execDevGetState (ch : Fin 33) (s : State) : Host.Outcome State Fault Refusal :=
  fin s ansParts (s.serve ch 0x001 0 devGetState)

/-- DEV_ARM (R85, R367): STANDBY to ARMED. -/
def devArm (_ : Cmd) (s : State) : Ans := ok (s.changeState .armed)
def execDevArm (ch : Fin 33) (s : State) : Host.Outcome State Fault Refusal :=
  fin s (ansParts ++ [.devState]) (s.serve ch 0x002 0 devArm)

/-- DEV_RUN (R67, R68, R367): ARMED to RUNNING, or to FOG while FOG_PENDING is set. -/
def devRun (_ : Cmd) (s : State) : Ans :=
  ok (if s.dev.fogPending then s.enterFog.advanceAll else (s.changeState .running).advanceAll)
def execDevRun (ch : Fin 33) (s : State) : Host.Outcome State Fault Refusal :=
  fin s (ansParts ++ [.chars, .ll, .tiles, .mem, .devState]) (s.serve ch 0x003 0 devRun)

/-- Every RUNNING characteristic makes no further launch and keeps its start instant: PENDING (R67). A CHAR_STOP MODE 0 that is
still outstanding then is kept, and stops the characteristic after its first new period: the spec is silent (DESIGN CHOICE, log
entry 101). -/
def State.runningToPending (s : State) : State :=
  let s := s.discardUnstarted fun l => l.char < 4
  { s with chars := s.chars.map fun (c : Char) => if c.state = .running then { c with state := .pending } else c }

/-- DEV_DISARM (R67, R74, R367, R441): from RUNNING it completes when the launches in flight complete; from FOG it needs
that no fog cause holds. -/
def devDisarm (_ : Cmd) (s : State) : Ans :=
  if s.dev.state = .fog then
    stateCheck (s.faults.causes = []) <|
    let s := { s with dev := { s.dev with fogPending := false } }
    ok ((s.changeState .armed).runningToPending)
  else
    let s := (s.changeState .armed).runningToPending
    let s := (s.discardUnstarted fun _ => true).pulsesLow fun _ => true
    .ok (s, { wait := .launches (s.dev.launches.map (·.id)) })
def execDevDisarm (ch : Fin 33) (s : State) : Host.Outcome State Fault Refusal :=
  fin s (ansParts ++ [.chars, .devState]) (s.serve ch 0x004 0 devDisarm)

/-- DEV_STANDBY (R67, R86, R367): ARMED to STANDBY. -/
def devStandby (_ : Cmd) (s : State) : Ans :=
  let s := ((s.changeState .standby).portsStop fun _ => true).discardUnstarted fun l => l.char == 4
  ok { s with chars := s.chars.map fun (c : Char) => if c.state = .pending then { c with state := .loaded } else c }
def execDevStandby (ch : Fin 33) (s : State) : Host.Outcome State Fault Refusal :=
  fin s (ansParts ++ [.chars, .ll, .devState]) (s.serve ch 0x005 0 devStandby)

/-- DEV_RESET (R369): the reset is asked for 10 ms after its completion. -/
def devReset (_ : Cmd) (s : State) : Ans := ok s
def execDevReset (ch : Fin 33) (s : State) : Host.Outcome State Fault Refusal :=
  fin s ansParts (s.serve ch 0x006 0 devReset)

/-- DEV_SET_NOTIFY (R362, R369). -/
def devSetNotify (c : Cmd) (s : State) : Ans :=
  let w := wAt c.words 0
  checked [(0, bits w 3 0 ≤ 12)] <|
  ok { s with criser := { s.criser with subj := put s.criser.subj (bits w 3 0) (bits w 20 16, bit w 8) } }
def execDevSetNotify (ch : Fin 33) (s : State) : Host.Outcome State Fault Refusal :=
  fin s ansParts (s.serve ch 0x007 1 devSetNotify)

/-- DEV_SET_TIMEOUT (R364, R369). -/
def devSetTimeout (c : Cmd) (s : State) : Ans :=
  let i := bits (wAt c.words 0) 4 0
  let w := bits (wAt c.words 1) 31 0
  checked [(1, decide (1 ≤ w ∧ w ≤ 60000))] <| ok (s.setChan i { s.chan i with waitMs := w })
def execDevSetTimeout (ch : Fin 33) (s : State) : Host.Outcome State Fault Refusal :=
  fin s ansParts (s.serve ch 0x008 2 devSetTimeout)

/-- DEV_ECHO (R369): 0 to 254 words come back. -/
def devEcho (c : Cmd) (s : State) : Ans :=
  if 254 < c.words.length then badArg 254 else okWith s c.words
def execDevEcho (ch : Fin 33) (s : State) : Host.Outcome State Fault Refusal :=
  fin s ansParts (s.serve ch 0x009 0 devEcho)

end Sys2Proof.Machine
end

