-- ==== Sys2Proof/Machine/Governor.lean ====
section
/-! DEFINITION. The budget governor: windows, the bucket, withholding and shedding, gating and thermal levels (R76 to
R84). -/
namespace Sys2Proof.Machine

/-- Units of bucket B in one µJ, and so in one mW over one millisecond. -/
def uJ : Int := 1280000

/-- Slots of a characteristic that have still to fall due before an instant: entry and instant (R62, R67). Three periods
after the running one reach beyond any two windows. -/
def Char.upcoming (c : Char) (before : Int) : List (Nat × Int) :=
  let at_ := fun (start : Int) (first : Nat → Bool) =>
    ((List.range c.table.length).filter fun e => !first e).map fun e => (e, start + eOffset (c.entry e) * tick48)
  let periods := fun (start : Int) (ks : List Nat) => (ks.map fun (k : Nat) => at_ (start + k * c.period48) fun _ => false).flatten
  let all := match c.state with
    | .running => c.left ++ at_ c.periodStart c.passed ++ (if c.stopAtEnd then [] else periods c.periodStart [1, 2, 3])
    | .pending => periods c.start [0, 1, 2, 3]
    | _ => []
  all.filter fun p => decide (p.2 < before)

/-- LIST and EGO slots before an instant while characteristics run, with their characteristic; in FOG EGO only (R67). -/
def State.upcoming (s : State) (before : Int) : List (Nat × Nat × Word × Word) :=
  if s.dev.state ≠ .running ∧ s.dev.state ≠ .fog then [] else
  let all := ((List.range 4).map fun i =>
    ((s.char i).upcoming before).map fun p => (i, p.1, (s.char i).entry p.1)).flatten
  all.filter fun p => eKind p.2.2 = 3 || (eKind p.2.2 = 1 && s.dev.state != .fog)

/-- An ELASTIC or BACKGROUND launch that is pending or falls due in the window and has not started (R79). -/
structure Cand where
  /-- the launch, or none for a slot of the window -/
  id : Option Nat
  slot : Nat × Nat
  cls : Nat
  power : Nat
  step : Nat
  /-- order in which candidates are withheld, smallest first -/
  key : List Int
  deriving DecidableEq, Repr

/-- The order of R79: BACKGROUND with TELEMETRY, then BACKGROUND, then ELASTIC; the higher entry order first. -/
def candKey (cls : Nat) (telemetry : Bool) (char entry : Nat) : List Int :=
  [if cls = 3 then 0 else 1, if cls = 3 ∧ ¬ telemetry then 1 else 0, -(char : Int), -(entry : Int)]

/-- Candidates of the window that ends at `before`. -/
def State.candidates (s : State) (before : Int) : List Cand :=
  let pend := (s.dev.launches.filter fun l => 2 ≤ l.cls && !l.inFlight).map fun l =>
    { id := some l.id, slot := (l.char, l.entry), cls := l.cls, power := s.power l.char l.entry l.power
      step := l.shedStep, key := candKey l.cls l.telemetry l.char (if l.char = 4 then l.order else l.entry) : Cand }
  let due := ((s.upcoming before).filter fun p => 2 ≤ eClass p.2.2).map fun p =>
    { id := none, slot := (p.1, p.2.1), cls := eClass p.2.2, power := s.power p.1 p.2.1 (bits p.2.2.2 63 52)
      step := bits p.2.2.2 51 48, key := candKey (eClass p.2.2) (eTelemetry p.2.2) p.1 p.2.1 : Cand }
  pend ++ due

/-- Insert a candidate in the order of R79. -/
def insertCand (c : Cand) : List Cand → List Cand
  | [] => [c]
  | d :: r => if decide (d.key < c.key) then d :: insertCand c r else c :: d :: r

/-- 16 × need(s) of R79, in units of bucket B over 720,720. -/
def need16 (base : Int) (s : Nat) (cs : List Cand) : Int :=
  16 * base + cs.foldl (fun a c => a + (c.power * (16 - min s 16 * c.step) : Nat) * uJ) 0

/-- Shed planes before withholding (R79): the least S that need allows, at most S_MAX. -/
def shedTo (base allowance : Int) (cs : List Cand) (max_ : Nat) : Nat → Nat → Nat
  | 0, s => s
  | k + 1, s => if 16 * allowance < need16 base s cs ∧ s < max_ then shedTo base allowance cs max_ k (s + 1) else s

/-- Withhold candidates in order until need is within the allowance and 110 mJ: those kept and those withheld. -/
def withhold (base allowance : Int) (s : Nat) : List Cand → List Cand × List Cand
  | [] => ([], [])
  | c :: r =>
    if need16 base s (c :: r) ≤ 16 * min allowance (110000 * uJ * mWParts) then (c :: r, [])
    else
      let p := withhold base allowance s r
      (p.1, c :: p.2)

/-- A class that the thermal level withholds (R78). -/
def Thermal.withholds (t : Thermal) (cls : Nat) : Bool :=
  (cls = 3 && t != .normal) || (cls = 2 && t = .hot)

/-- Close the window that ends (R63, R77, R79): the bucket, what the launches drew, and OVERSPEND. -/
def State.closeWindow (s : State) (m : WindowMeasure) : State :=
  let b := s.budget
  let len : Int := s.time.counter - b.windowAt
  let cap : Int := b.cap * uJ
  let bucket := max (min (b.bucket + b.mw * len - m.usedUJ * uJ) cap) (-cap)
  let n := if b.allowance < m.usedUJ * uJ ∧ b.shed = b.shedMax ∧ b.tight then min 16 (b.overRun + 1) else 0
  let b := m.launches.foldl (fun b p => b.measured p.1.1 p.1.2 p.2) b
  let s := { s with budget := { b with
    bucket := bucket, lastUJ := sat32 m.usedUJ, maxTj := m.maxTj, overRun := n
    windowAt := s.time.counter, windowMs := s.time.line / ms48 } }
  if n = 16 then s.budgetEvent 0x15 else s

/-- The decision of R78 and R79 for the window that begins. -/
def State.decideWindow (s : State) (m : WindowMeasure) : State :=
  let b := s.budget
  let fin_ := (b.windowMs + 1) * ms48
  let allowance := b.mw * uJ + b.bucket
  let share := allowance * mWParts
  let mf := ((s.upcoming fin_).filter fun p => eClass p.2.2 < 2).foldl
    (fun a p => a + s.power p.1 p.2.1 (if eKind p.2.2 = 3 then 0 else bits p.2.2.2 63 52)) 0
  let base : Int := ((m.usedUJ * mWParts : Nat) - (b.completedMw : Int) + (mf : Nat)) * uJ
  let all := s.candidates fin_
  let free := (all.filter fun c => !b.thermal.withholds c.cls).foldr insertCand []
  let s0 := if b.thermal = .normal then min b.shed b.shedMax else b.shedMax
  let s1 := shedTo base share free b.shedMax 8 s0
  let (kept, held) := withhold base share s1 free
  let held := held ++ all.filter fun c => b.thermal.withholds c.cls
  let calm := if 0 < s1 ∧ need16 base (s1 - 1) kept ≤ 15 * share then b.calm + 1 else 0
  let down := decide (16 ≤ calm)
  let ids := held.filterMap (·.id)
  let launches := s.dev.launches.map fun (l : Launch) =>
    if 2 ≤ l.cls && !l.inFlight then { l with withheld := ids.contains l.id } else l
  let any_ := fun (k : Nat) => b2n (held.any (·.cls == k))
  let s := { s with
    dev := { s.dev with launches := launches }
    budget := { b with
      allowance := allowance, completedMw := 0, shed := if down then s1 - 1 else s1, calm := if down then 0 else calm
      tight := kept.isEmpty, denied := (held.filter fun (c : Cand) => c.id.isNone).map Cand.slot
      withheldElastic := sat32 (b.withheldElastic + any_ 2)
      withheldBackground := sat32 (b.withheldBackground + any_ 3) } }
  let s := (s.count 31 0x94 1).count 31 0x91 (b2n !held.isEmpty)
  s.count 31 0x95 (b2n (s.budget.shed != 0))

/-- A launch of the class limits targets a tile group. -/
def targets (t g : Nat) : Bool := t == g || t == 16

/-- A MANDATORY or FOREGROUND launch that targets the group has its slot before an instant (R81). -/
def State.slotAhead (s : State) (g : Nat) (before : Int) : Bool :=
  (s.upcoming before).any fun p => eKind p.2.2 = 1 && eClass p.2.2 < 2 && targets (eTarget p.2.2) g

/-- A list that keeps a group powered (R78, R81): running or preempted there, or released and waiting; at HOT an ELASTIC or
BACKGROUND list keeps it only while it runs. -/
def State.keepsGroup (s : State) (g : Nat) (l : Launch) : Bool :=
  let soft := s.budget.thermal = .hot && 2 ≤ l.cls
  l.hasRun g g (· = .running) ||
  (!soft && (l.hasRun g g (· = .preempted) ||
    (!l.withheld && (l.hasRun g g (· = .waiting) || (!l.issued && targets l.target.toNat g)))))

/-- Gate each tile group that meets the conditions of R81. -/
def State.gateWindow (s : State) : State :=
  let before := (s.budget.windowMs + 2) * ms48
  let gs := Vector.ofFn fun (g : Fin 16) =>
    let x := s.tiles.groups[g]
    if s.dev.launches.any (s.keepsGroup g.val) || s.slotAhead g.val before then x else { x with gated := true }
  { s with tiles := { s.tiles with groups := gs } }

/-- BUDGET_WINDOW (R76 to R81): the time line has entered another millisecond. -/
def execBudgetWindow (m : WindowMeasure) (s : State) : Host.Outcome State Fault Refusal :=
  fin s (ansParts ++ [.budget, .tiles]) <| if s.governs && !s.pairAway 0 && s.time.line / ms48 != s.budget.windowMs then
    ((s.closeWindow m).decideWindow m).gateWindow
  else s

/-- GROUP_WAKE (R81): a gated group wakes for a released launch that waits at it, or ahead of a slot of a MANDATORY or
FOREGROUND launch. In FOG, which makes no new launch on it, it wakes only for the rest of one in flight (R439). -/
def execGroupWake (g : Fin 16) (s : State) : Host.Outcome State Fault Refusal :=
  let x := s.tiles.groups[g]
  fin s [.tiles] <| if x.gated && s.governs && (s.dev.launches.any (s.keepsGroup g.val) ||
      (s.dev.state != .fog && s.slotAhead g.val ((s.budget.windowMs + 2) * ms48))) then
    { s with tiles := { s.tiles with groups := put s.tiles.groups g.val { x with gated := false } } }
  else s

/-- LEASE_EXPIRED (R77). -/
def execLeaseExpired (s : State) : Host.Outcome State Fault Refusal :=
  let b := s.budget
  fin s (noteParts ++ [.budget]) <| if s.governs && b.leaseMs != 0 && !b.leaseExpired && decide (b.leaseFrom + b.leaseMs * cycMs ≤ s.time.counter) then
    { s with budget := { b with mw := b.fallback, leaseExpired := true } }.budgetEvent 0x11
  else s

/-- A thermal level is entered. -/
def State.setThermal (s : State) (t : Thermal) (tj : BitVec 16) (ev : Nat) : State :=
  { s with budget := { s.budget with thermal := t, maxTj := tj } }.budgetEvent ev

/-- THERMAL_WARN (R78): 95 °C reached from NORMAL, or HOT ended at 102 °C. -/
def execThermalWarn (tj : BitVec 16) (s : State) : Host.Outcome State Fault Refusal :=
  let t := tj.toInt
  let b := s.budget
  fin s (noteParts ++ [.budget]) <| if s.governs && ((b.thermal = .normal && 760 ≤ t && t < 840) || (b.thermal = .hot && 736 < t && t ≤ 816)) then
    s.setThermal .warn tj 0x12
  else s

/-- THERMAL_HOT (R78): 105 °C reached. -/
def execThermalHot (tj : BitVec 16) (s : State) : Host.Outcome State Fault Refusal :=
  fin s (noteParts ++ [.budget]) <| if s.governs && s.budget.thermal != .hot && 840 ≤ tj.toInt then s.setThermal .hot tj 0x13 else s

/-- THERMAL_NORMAL (R78): 92 °C reached from above. -/
def execThermalNormal (tj : BitVec 16) (s : State) : Host.Outcome State Fault Refusal :=
  fin s (noteParts ++ [.budget]) <| if s.governs && s.budget.thermal != .normal && tj.toInt ≤ 736 then s.setThermal .normal tj 0x14 else s

/-! ### Messages (R82, R83) -/

/-- BUDGET_SET (R77, R83). -/
def budgetSet (c : Cmd) (s : State) : Ans :=
  let p := bits (wAt c.words 0) 31 0
  let cap := bits (wAt c.words 1) 31 0
  let lease := bits (wAt c.words 2) 63 32
  let fb := bits (wAt c.words 2) 31 0
  checked [(0, decide (3000 ≤ p ∧ p ≤ 110000)), (1, decide (cap ≤ 1000000)),
    (2, lease = 0 || decide (10 ≤ lease ∧ lease ≤ 60000)), (2, decide (3000 ≤ fb ∧ fb ≤ 110000))] <|
  ok { s with budget := { s.budget with
    mw := p, cap := cap, leaseMs := lease, fallback := fb, leaseFrom := s.time.counter, leaseExpired := false } }
def execBudgetSet (ch : Fin 33) (s : State) : Host.Outcome State Fault Refusal :=
  fin s (ansParts ++ [.budget]) (s.serve ch 0x210 3 budgetSet)

/-- BUDGET_SET_SHED (R83). -/
def budgetSetShed (c : Cmd) (s : State) : Ans :=
  ok { s with budget := { s.budget with shedMax := bits (wAt c.words 0) 2 0 } }
def execBudgetSetShed (ch : Fin 33) (s : State) : Host.Outcome State Fault Refusal :=
  fin s (ansParts ++ [.budget]) (s.serve ch 0x211 1 budgetSetShed)

/-- Codes of R83. -/
def Thermal.code : Thermal → Nat
  | .normal => 0 | .warn => 1 | .hot => 2

/-- BUDGET_GET_STATUS (R83). How BUCKET_UJ rounds is free (log entry 10). -/
def budgetGetStatus (_ : Cmd) (s : State) : Ans :=
  let b := s.budget
  let (k, s) := s.take 1
  let gated := s.tiles.groups.toList.foldl (fun a g => a + b2n g.gated) 0
  okWith s [pack [(b.maxTj.toNat, 31, 16), (gated, 12, 8), (b.thermal.code, 5, 4), (b.shed, 2, 0)], pack [(b.mw, 31, 0)],
    wdI (divFree k b.bucket 1280000), pack [(b.lastUJ, 31, 0)],
    pack [(b.withheldElastic, 63, 32), (b.withheldBackground, 31, 0)]]
def execBudgetGetStatus (ch : Fin 33) (s : State) : Host.Outcome State Fault Refusal :=
  fin s ansParts (s.serve ch 0x212 0 budgetGetStatus)

end Sys2Proof.Machine
end

