-- ==== Sys2Proof/Machine/Memory.lean ====
section
/-! DEFINITION. Scrub, row repair, self-refresh, the region table, BAR2 and the memory messages (ch. 13, and R431, R432,
R483 of ch. 17). -/
namespace Sys2Proof.Machine

/-- MM_EVENT without a rate limit (R345). -/
def State.mmEvent (s : State) (ev da : Nat) : State := s.event 0x8F0 (wd ev) (wd da)

/-! ### Scrub (R330, R331) -/

/-- An LPDDR5X row is repaired: by the bank's one post-package repair, soft until the next KEEPER_BOOT, then by the remap table;
with neither left it is kept (R330, R432). A row that fails again after its repair is repaired again. -/
def State.repairRow (s : State) (da : Nat) : State :=
  let c := chanOf da
  let b := bankRowOf da
  let f := s.faults
  let row := (c, b.1, b.2)
  let done := fun (s : State) =>
    let s := { s with mem := { s.mem with rowsRepaired := sat32 (s.mem.rowsRepaired + 1) } }
    ((s.log 0x08 3 c 0 da 0).mmEvent 3 da).wearHalf 0x08 c (s.faults.pprUsed.length + s.faults.remap.length) 1536
  if ¬ f.pprUsed.any (fun r => r.1 == c && r.2.1 == b.1) then
    done { s with faults := { f with pprUsed := f.pprUsed ++ [row] } }
  else if f.remap.length < 512 then done { s with faults := { f with remap := f.remap ++ [row] } }
  else s.log 0x08 0 c 0 da 0

/-- A keeper-local SRAM row is spared, or kept (R483). -/
def State.spareKeeperRow (s : State) (row : Nat) : State :=
  let f := s.faults
  if f.keeperRows.contains row then s
  else if 64 ≤ f.keeperRows.length then s.log 0x07 0 row 0 0 0
  else
    let s := ({ s with faults := { f with keeperRows := f.keeperRows ++ [row] } }).log 0x07 1 row 0 0 0
    s.wearHalf 0x07 row s.faults.keeperRows.length 64

/-- Scrub periods in keeper cycles (R331). -/
def MemRow.period : MemRow → Nat
  | .near _ _ _ => 2 * cycSec
  | .keeper _ => cycSec
  | .lpddr _ _ _ => 86400 * cycSec

/-- Count a scrub pass that found a correctable error in a row; answers whether it is the third. -/
def State.countPass (s : State) (row : MemRow) : Bool × State :=
  let n := s.time.counter / row.period
  let others := s.mem.passes.filter fun p => p.1 ≠ row
  let k := match s.mem.passes.find? fun p => decide (p.1 = row) with
    | some p => if p.2.2 = n then p.2.1 else p.2.1 + 1
    | none => 1
  if 3 ≤ k then (true, { s with mem := { s.mem with passes := others } })
  else (false, { s with mem := { s.mem with passes := (row, k, n) :: others } })

/-- An uncorrectable codeword found by scrub: counted, latched, logged under SCRUB_UE with its bank, channel or queue, and
notified (R331, R333). -/
def State.scrubUe (s : State) (unit da : Nat) : State :=
  let m := s.mem
  let s := { s with mem := { m with
    ue := sat32 (m.ue + 1), ueTotal := sat32 (m.ueTotal + 1)
    ueDa := if m.ue = 0 then da else m.ueDa, ueScrub := if m.ue = 0 then true else m.ueScrub } }
  (s.log 0x0F 0 unit 0 da 0).eventLimited 0x8F0 2 0 1 (wd 2) (wd da)

/-- The words of a queue in ring order: (ring, place). -/
def Queue.places (q : Queue) : List (Nat × Nat) :=
  ((List.range 4).map fun r => (List.range (at_ q.rings r {}).words.length).map fun i => (r, i)).flatten

/-- One codeword of near SRAM or LPDDR5X. -/
def State.scrubWord (s : State) (da unit : Nat) (row : MemRow) (r : EccResult) (spare : State → State) : State :=
  let m := s.mem
  let bad := m.ueWords.contains da || r = .uncorrectable
  if bad then
    let s := { s with mem := { m with ueWords := if m.ueWords.contains da then m.ueWords else da :: m.ueWords } }
    spare (s.scrubUe unit da)
  else if m.ceWords.contains da || r = .correctable then
    let s := { s with mem := { m with ceWords := m.ceWords.filter (· != da) } }.meetCe 1
    let p := s.countPass row
    if p.1 then spare p.2 else p.2
  else s

/-- SCRUB (R329 to R331, R431, R483): one codeword is read, with what its SECDED check finds. A word that already holds an
error keeps it until it is written. A channel in self-refresh wakes for the access, and returns at once in STANDBY and
FOG. A read of keeper-local SRAM by the keeper is as R333 says and R426 handles; a tier whose interface check fails has its
bank spared (R431). -/
def execScrub (t : ScrubTarget) (r : EccResult) (s : State) : Host.Outcome State Fault Refusal :=
  fin s (ansParts ++ [.chars, .ll, .iq, .layout, .mem, .devState, .faults]) <| match t with
  | .near a =>
    let da := a.toNat / 8 * 8
    let n := nearOf da
    if place s.boot.otp.part128 da ≠ .near then s else
    s.scrubWord da n.1 (.near n.1 n.2.1 n.2.2) r fun s => s.spareNearRow n.1 n.2.1 n.2.2
  | .lpddr a =>
    let da := a.toNat / 8 * 8
    let b := bankRowOf da
    let pl := place s.boot.otp.part128 da
    if (pl ≠ .lpddr ∧ pl ≠ .reserve) ∨ ¬ s.mem.reachable then s else
    let s := s.count (21 + chanOf da / 16) 0x75 1
    let back := s.dev.state = DevState.standby ∨ s.dev.state = DevState.fog
    let s := { s with mem := { s.mem with
      asleep := if back then s.mem.asleep else s.mem.asleep &&& ~~~ BitVec.ofNat 64 (2 ^ chanOf da) } }
    s.scrubWord da (chanOf da) (.lpddr (chanOf da) b.1 b.2) r fun s => s.repairRow da
  | .keeper row =>
    match r with
    | .clean => s
    | .correctable =>
      let p := (s.meetCe 1).countPass (.keeper row.val)
      if p.1 then p.2.spareKeeperRow row.val else p.2
    | .uncorrectable =>
      let m := s.mem
      let s := { s with mem := { m with
        ue := sat32 (m.ue + 1), ueTotal := sat32 (m.ueTotal + 1)
        ueDa := if m.ue = 0 then 0 else m.ueDa, ueScrub := if m.ue = 0 then true else m.ueScrub } }
      let s := s.eventLimited 0x8F0 2 0 1 (wd 2) 0
      (s.spareKeeperRow row.val).enterHalt 0x07 row.val
  | .keeperRead row =>
    match r with
    | .clean => s
    | .correctable => s.meetCe 1
    | .uncorrectable => (s.meetPoolUe.spareKeeperRow row.val).enterHalt 0x07 row.val
  | .interface bank _ => if r = .clean then s else s.spareBank bank.val
  | .pool q idx =>
    let x := s.queue q.val
    match x.places[idx]? with
    | none => s
    | some (g, i) =>
      let ring := at_ x.rings g {}
      match r with
      | .clean => if ring.ue.contains i then s.scrubUe q.val 0 else s
      | .correctable => if ring.ue.contains i then s.scrubUe q.val 0 else s.meetCe 1
      | .uncorrectable =>
        let ue := if ring.ue.contains i then ring.ue else ring.ue ++ [i]
        (s.setQueue q.val { x with rings := put x.rings g { ring with ue := ue } }).scrubUe q.val 0

/-- BANK_SWITCH (R431): the background copy of a bank has been made and the spare bank serves it, with rows of its own. -/
def execBankSwitch (bank : Fin 64) (s : State) : Host.Outcome State Fault Refusal :=
  let b := bank.val
  let f := s.faults
  fin s logParts <| match f.bankCopy.find? (·.1 == b) with
  | none => s
  | some (_, seen) =>
    let s := { s with faults := { f with
      bankCopy := f.bankCopy.filter (·.1 != b), bankSubst := f.bankSubst ||| BitVec.ofNat 64 (2 ^ b)
      nearRows := f.nearRows.filter fun r => r.1 != b } }
    (s.log 0x06 1 b 0 (nearBase b 0 0) 0 (some seen)).wearHalf 0x06 b (popN 4 s.faults.bankSpareGone.toNat) 4

/-- SELF_REFRESH_ENTRY (R329). -/
def execSelfRefreshEntry (c : Fin 64) (s : State) : Host.Outcome State Fault Refusal :=
  let idle := s.dev.state = .standby ∧ s.mem.lastLpddr + 10 * cycMs ≤ s.time.counter
  fin s [.mem] <| if idle ∨ s.dev.state = .fog then
    { s with mem := { s.mem with asleep := s.mem.asleep ||| BitVec.ofNat 64 (2 ^ c.val) } }
  else s

/-! ### The region table (R334, R335, R339) -/

/-- Rows of the device address map that a region may lie in (R323, R324): first and last address. -/
def mapRows (part128 : Bool) : List (Nat × Nat) :=
  let top := if part128 then 0x1FC0000000 else 0x0FC0000000
  [(0, top - 1), (top, top + 0x3FFFFFFF), (0x4000000000, 0x403FFFFFFF), (0x200000000000, 0x3FFFFFFFFFFF),
    (0x400000000000, 0x5FFFFFFFFFFF)] ++
  (List.range 10).map fun k => (0x5000000000 + k * 0x10000, 0x5000000000 + k * 0x10000 + 0xFFFF)

/-- Checks of R335 that give BAD_ARG. -/
def regionChecks (s : State) (i : Nat) (w0 w1 w2 : Word) : List (Nat × Bool) :=
  let p := bits w0 56 52
  let va := bits w0 47 0
  let da := bits w1 47 0
  let size := regionSize w0 w2
  let free := s.mem.regions.all fun r =>
    r.1 == i || !bit r.2.1 63 || decide (va + size ≤ bits r.2.1 47 0 ∨ bits r.2.1 47 0 + regionSize r.2.1 r.2.2.2 ≤ va)
  [(1, decide (12 ≤ p ∧ p ≤ 30)), (1, va % 2 ^ p = 0), (1, da % 2 ^ p = 0), (3, bits w2 31 0 != 0),
    (1, decide (va + size ≤ 2 ^ 48 ∧ da + size ≤ 2 ^ 48)), (1, free),
    (1, (mapRows s.boot.otp.part128).any fun r => decide (r.1 ≤ da ∧ da + size ≤ r.2 + 1))]

/-- A region touches the keeper reserve (R19, R335). -/
def touchesReserve (part128 : Bool) (w0 w1 w2 : Word) : Bool :=
  let top := if part128 then 0x1FC0000000 else 0x0FC0000000
  decide (bits w1 47 0 < top + 0x40000000 ∧ top < bits w1 47 0 + regionSize w0 w2)

/-- A change of the region table completes when every agent has passed its boundary (R339): a command in progress on a unit and
the unit of a camera frame in progress are what is under way between two steps. -/
def State.regionWait (s : State) : Wait :=
  .agents s.heldRuns
    (((List.range 64).filter fun i => (at_ s.ll.entries i {}).frame.isSome).map fun i => (i, (at_ s.ll.entries i {}).seq))

/-- The region table changes: a command in progress goes on with the table that it began with (R339). -/
def State.setRegions (s : State) (rs : List (Nat × Word × Word × Word)) : State :=
  { s with
    mem := { s.mem with regions := rs }
    dev := { s.dev with launches := s.dev.launches.map fun (l : Launch) => { l with runs := l.runs.map fun (r : Run) =>
      { r with held := r.held.map fun (h : Held) => { h with regions := some (h.regions.getD s.mem.regions) } } } } }

/-- A region entry holds an installed package (R414). -/
def State.regionHeld (s : State) (i : Nat) : Bool :=
  s.boot.packages.toList.any fun p => match p with
    | some q => q.region == i
    | none => false

/-- MM_SET_REGION (R335, R339, R414). -/
def mmSetRegion (c : Cmd) (s : State) : Ans :=
  let i := bits (wAt c.words 0) 9 0
  let w0 := wAt c.words 1
  let w1 := wAt c.words 2
  let w2 := wAt c.words 3
  stateCheck (!s.regionHeld i) <|
  let store : Ans := .ok (s.setRegions (insertKey s.mem.regions i (w0, w1, w2)), { wait := s.regionWait })
  if !bit w0 63 then store else
  checked (regionChecks s i w0 w1 w2) <|
  if touchesReserve s.boot.otp.part128 w0 w1 w2 then denied else store
def execMmSetRegion (ch : Fin 33) (s : State) : Host.Outcome State Fault Refusal :=
  fin s (ansParts ++ [.mem]) (s.serve ch 0x800 4 mmSetRegion)

/-- MM_CLEAR_REGION (R339). -/
def mmClearRegion (c : Cmd) (s : State) : Ans :=
  stateCheck (!s.regionHeld (bits (wAt c.words 0) 9 0)) <|
  .ok (s.setRegions (eraseKey s.mem.regions (bits (wAt c.words 0) 9 0)), { wait := s.regionWait })
def execMmClearRegion (ch : Fin 33) (s : State) : Host.Outcome State Fault Refusal :=
  fin s (ansParts ++ [.mem]) (s.serve ch 0x801 1 mmClearRegion)

/-- The words of a region entry with reserved bits as 0 (R10, R334). -/
def regionWords (w0 w1 w2 : Word) : List Word :=
  [w0 &&& 0xF1F0FFFFFFFFFFFF#64, w1 &&& 0x0000FFFFFFFFFFFF#64, w2 &&& 0x00000000FFFFFFFF#64]

/-- MM_GET_REGION (R345). -/
def mmGetRegion (c : Cmd) (s : State) : Ans :=
  match look s.mem.regions (bits (wAt c.words 0) 9 0) with
  | some (w0, w1, w2) => okWith s (regionWords w0 w1 w2)
  | none => okWith s [0, 0, 0]
def execMmGetRegion (ch : Fin 33) (s : State) : Host.Outcome State Fault Refusal :=
  fin s ansParts (s.serve ch 0x802 1 mmGetRegion)

/-- MM_SET_BAR2 (R340, R345). -/
def mmSetBar2 (c : Cmd) (s : State) : Ans :=
  let va := bits (wAt c.words 0) 47 0
  checked [(0, va % 0x40000000 = 0)] <|
  .ok ({ s with mem := { s.mem with bar2Va := va } }, { wait := s.regionWait })
def execMmSetBar2 (ch : Fin 33) (s : State) : Host.Outcome State Fault Refusal :=
  fin s (ansParts ++ [.mem]) (s.serve ch 0x810 1 mmSetBar2)

/-- MM_GET_STATUS (R345). -/
def mmGetStatus (_ : Cmd) (s : State) : Ans :=
  let m := s.mem
  let n := (m.regions.filter fun r => bit r.2.1 63).length
  okWith s [pack [(n, 58, 48), (m.bar2Va, 47, 0)], pack [(m.ceTotal, 63, 32), (m.ueTotal, 31, 0)],
    pack [(m.bar2Faults, 63, 32), (m.rowsRepaired, 31, 0)], m.asleep]
def execMmGetStatus (ch : Fin 33) (s : State) : Host.Outcome State Fault Refusal :=
  fin s ansParts (s.serve ch 0x820 0 mmGetStatus)

/-! ### BAR2 (R340 to R342) -/

/-- BAR2 is open (R340). -/
def State.bar2Open (s : State) : Bool :=
  s.boot.linkUp && (s.dev.state = .standby || s.dev.state = .armed || s.dev.state = .running || s.dev.state = .fog)

/-- A BAR2 access that faults is counted and reported (R342). -/
def State.bar2Fault (s : State) : State :=
  { s with mem := { s.mem with bar2Faults := sat32 (s.mem.bar2Faults + 1) } }.eventLimited 0x8F0 4 0 1 (wd 4) 0

/-- Data of BAR2 or of another device where a launch that runs has written: which value lands, or is read, is undefined (R182,
R346). -/
def State.amidLaunch (s : State) (va : Nat) (bs : List Byte) : List Byte × State :=
  s.freeIn (usePlaces (s.live s.mem.wrote)) va bs

/-- BAR2 or another device has written while launches run: the place is noted for each of them, and one that has read there has
undefined outputs (R182, R346). -/
def State.cross (s : State) (va n : Nat) : State :=
  if s.running.isEmpty then s else
  let ps := s.places [(va, n)]
  let s := s.taint (usersOf (s.live s.mem.reads) ps)
  let new := (s.running.map fun l => ps.map fun p => (p.1, p.2, l.id)).flatten
  { s with mem := { s.mem with crossed := new ++ s.live s.mem.crossed } }

/-- A write of BAR2 or of another device beside the launches that run (R182, R346): whether it was made. -/
def State.writeBeside (s : State) (va : Nat) (bs : List Byte) : Bool × State :=
  let (bs, u) := s.amidLaunch va bs
  match (writeM va bs).go u.outsideLaunch with
  | (.ok _, t) => (true, (s.backIn t).cross va bs.length)
  | (.error _, t) => (false, s.backIn t)

/-- BAR2_WRITE (R340, R342, R346). -/
def execBar2Write (off : BitVec 34) (bs : List Byte) (s : State) : Host.Outcome State Fault Refusal :=
  fin s (logParts ++ [.mem, .cells]) <| if !s.bar2Open then s else
  let r := s.writeBeside (s.mem.bar2Va + off.toNat) bs
  if r.1 then r.2 else r.2.bar2Fault

/-! ### Registers that clear on reading (R343) -/

/-- A register read answered. -/
def State.answerReg (s : State) (v : Reg) : State := { s with pins := { s.pins with lastRead := some (.reg v) } }

/-- MM_ECC_CE_READ and MM_ECC_UE_READ (R343). -/
def execMmEccCeRead (s : State) : Host.Outcome State Fault Refusal :=
  fin s [.mem, .pins] ({ s with mem := { s.mem with ce := 0 } }.answerReg (rg s.mem.ce))
def execMmEccUeRead (s : State) : Host.Outcome State Fault Refusal :=
  fin s [.mem, .pins] ({ s with mem := { s.mem with ue := 0 } }.answerReg (rg s.mem.ue))

end Sys2Proof.Machine
end

