-- ==== Sys2Proof/Machine/Chain.lean ====
section
/-! DEFINITION. The chain: ports, lanes and training, time transfer, enumeration and forwarding (ch. 15). TENSOR traffic is
in Layout.lean. -/
namespace Sys2Proof.Machine

def State.port (s : State) (i : Nat) : ChainPort := at_ s.chain.ports i {}
def State.setPort (s : State) (i : Nat) (p : ChainPort) : State :=
  { s with chain := { s.chain with ports := put s.chain.ports i p } }

/-- CN_EVENT (R386, R387). -/
def State.cnEvent (s : State) (ev port pos value : Nat) : State :=
  s.event 0x9F0 (pack [(pos, 21, 16), (port, 8, 8), (ev, 7, 0)]) (wd value)

/-- The chain position of the device (R376): 0 for a lead, none for a member that has not been given one. -/
def State.position (s : State) : Option Nat := if s.boot.member then s.chain.pos else some 0

/-- The position of the device as events and the status carry it: 0 for a lead or a member without one. -/
def State.ownPos (s : State) : Nat := s.chain.pos.getD 0

/-- A lane change or a retrain of the upstream port disturbs the exchange in progress (R383). -/
def State.disturb (s : State) (port : Nat) : State :=
  if port = 0 then
    { s with chain := { s.chain with exch := s.chain.exch.map fun (e : Exchange) => { e with disturbed := true } } }
  else s

/-- The chain ends before a lost position (R378). -/
def State.loseMember (s : State) (pos : Nat) : State :=
  if s.boot.member ∨ ¬ s.chain.enumerated ∨ s.chain.len ≤ pos then s else
  ({ s with chain := { s.chain with len := pos, members := s.chain.members.take (pos - 1) } }).cnEvent 6 1 pos 0

/-- A CN_RETRAIN that waits for a port ends FAULTED (R386). -/
def State.retrainFaulted (s : State) (port : Nat) : State :=
  { s with criser := { s.criser with ch := s.criser.ch.map fun (c : Channel) =>
    { c with await := c.await.map fun (a : Await) => if a.wait = .retrain port then { a with status := 7 } else a } } }

/-- A port goes down (R377): LINK_DOWN with the retrains tried; flits that wait are lost; a lead loses every position
beyond it. -/
def State.portDown (s : State) (port : Nat) : State :=
  let p := s.port port
  let s := s.setPort port
    { p with state := .down, lanes := 0, stopped := false, wasDown := true, attempts := 0, retrain := false, waiting := [] }
  let s := ((s.disturb port).retrainFaulted port).cnEvent 2 port s.ownPos p.attempts
  let s := if port = 0 then { s with chain := { s.chain with exch := none } } else s
  if port = 1 then s.loseMember 1 else s

/-! ### The lamp changer's queue (R427, R428) -/

/-- A substitution waits for a unit that has stopped (not one planned for wear). -/
def State.waitsSpare (s : State) (cls unit : Nat) : Bool :=
  s.faults.queue.any fun q => q.cls.toNat == cls && q.unit == unit && !q.planned

/-- The queue of R428 with one more fault: in order of detection, and within a keeper cycle by class and unit. -/
def insertSubst (x : Subst) : List Subst → List Subst
  | [] => [x]
  | q :: r => if q.since = x.since ∧ decide ([x.cls.toNat, x.unit] < [q.cls.toNat, q.unit]) then x :: q :: r
    else q :: insertSubst x r

/-- A unit that has stopped, or that wear plans to replace, waits for the lamp changer from now on. -/
def State.enqueue (s : State) (x : Subst) : State :=
  let x := { x with since := s.time.counter, seen := s.now.stamp }
  { s with faults := { s.faults with queue := insertSubst x s.faults.queue } }

/-- A retrain begins (R377). -/
def State.startRetrain (s : State) (port lanes : Nat) : State :=
  (s.setPort port { s.port port with state := .training, retrain := true, attempts := 0, lanes := lanes }).disturb port

/-- The last `n` flits of the replay buffer are sent again (R374, R377). -/
def State.replayLast (s : State) (port n : Nat) : State :=
  let r := (s.port port).replay
  let again := r.drop (r.length - n)
  if again.isEmpty then s else s.emit (.replay port (again.map fun f => (f.cls, f.image)))

/-- The lanes of a direction after the spare has taken the place of lane `k` (R373, R377). -/
def Lanes.spare (l : Lanes) (k : Nat) : Lanes :=
  { l with active := (l.active &&& ~~~ BitVec.ofNat 9 (2 ^ k)) ||| BitVec.ofNat 9 (2 ^ l.spareLane), spareUsed := true }

/-- The spare of a direction can take a place: it carries nothing and has not failed. -/
def Lanes.spareFree (l : Lanes) : Bool := !l.spareUsed && !l.bad.getLsbD l.spareLane

/-- The lowest `n` lanes of a set. -/
def lowLanes (a : BitVec 9) (n : Nat) : BitVec 9 :=
  ((List.range 9).filter fun i => a.getLsbD i).take n |>.foldl (fun b i => b ||| BitVec.ofNat 9 (2 ^ i)) 0

/-- Both directions of a port on 4 lanes, none of them the one that failed. -/
def fourLanes (d : Vector Lanes 2) (dir lane : Nat) : Vector Lanes 2 :=
  Vector.ofFn fun (j : Fin 2) =>
    let l := d[j]
    { l with active := lowLanes (if j.val = dir then l.active &&& ~~~ BitVec.ofNat 9 (2 ^ lane) else l.active) 4 }

/-- Spare lanes that are in use or have failed (R434). -/
def State.lanesUsed (s : State) : Nat :=
  s.chain.ports.toList.foldl (fun a q => a + b2n (!q.dirs[0].spareFree) + b2n (!q.dirs[1].spareFree)) 0

/-- A lane of a direction without a spare fails (R377): the port retrains on 4 lanes, and goes down where it has no more. -/
def State.degrade (s : State) (port dir lane : Nat) (seen : Option Stamp := none) : State :=
  let p := s.port port
  let unit := 16 * port + lane
  if p.lanes = 8 then
    let s := s.setPort port { p with dirs := fourLanes p.dirs dir lane, stopped := false }
    ((s.startRetrain port 4).log 0x04 2 unit 0 0 0 seen).cnEvent 4 port s.ownPos 0
  else (s.log 0x04 2 unit 0 0 0 seen).portDown port

/-- A lane of a direction (0 sends, 1 receives) fails (R377, R433): it stays out of service until the next reset (R425). One
that carries traffic waits for the lamp changer to place the spare of its direction, the port stopped; with that spare in use the
port retrains on 4 lanes; on 4 lanes it goes down. One that carries none is retired (log entry 76). -/
def State.chainLaneFails (s : State) (port dir lane unacked : Nat) : State :=
  let p := s.port port
  let l := at_ p.dirs dir {}
  if l.bad.getLsbD lane then s else
  let x := { l with bad := l.bad ||| BitVec.ofNat 9 (2 ^ lane) }
  let q := { p with dirs := put p.dirs dir x }
  if p.state ≠ .up ∨ ¬ l.active.getLsbD lane then
    let s := s.setPort port q
    (s.log 0x04 2 (16 * port + lane) 0 0 0).wearHalf 0x04 (16 * port + lane) s.lanesUsed 4
  else if l.spareFree then
    ((s.setPort port { q with stopped := true }).disturb port).enqueue
      { cls := 4, unit := 16 * port + lane, dir := dir, unacked := unacked }
  else (s.setPort port q).degrade port dir lane

/-- LANE_SPARED (R377, R433). -/
def execLaneSpared (port : Fin 2) (l : FailedLane) (s : State) : Host.Outcome State Fault Refusal :=
  fin s logParts (s.chainLaneFails port.val (if l.out then 0 else 1) l.lane.val l.unacked)

/-- The flits of a port that waited take its slots (R375, R377). -/
def State.sendWaiting (s : State) (port : Nat) : State :=
  let p := s.port port
  (s.setPort port { p with waiting := [] }).putFlits port (slotOrder p.waiting)

/-- The lamp changer places a spare lane (R377, R427, R429): the port goes on, sends again what was not acknowledged, and then what
waited. A spare that fails its test is retired, and the port is as with none left. -/
def State.switchChainLane (s : State) (x : Subst) (katOk : Bool) : State :=
  let port := x.unit / 16
  let lane := x.unit % 16
  let p := s.port port
  let l := at_ p.dirs x.dir {}
  let seen := some x.seen
  if p.state ≠ .up ∨ ¬ l.active.getLsbD lane then s.log 0x04 2 x.unit 0 0 0 seen
  else if ¬ l.spareFree then s.degrade port x.dir lane seen
  else if ¬ katOk then
    let s := s.setPort port { p with dirs := put p.dirs x.dir { l with bad := l.bad ||| BitVec.ofNat 9 (2 ^ l.spareLane) } }
    ((s.log 0x04 2 (16 * port + l.spareLane) 0 0 0 seen).wearHalf 0x04 x.unit s.lanesUsed 4).degrade port x.dir lane seen
  else
    let more := s.faults.queue.any fun q => q.cls == 4 && q.unit / 16 == port
    let s := (s.setPort port { p with dirs := put p.dirs x.dir (l.spare lane), stopped := more }).disturb port
    let s := (s.log 0x04 1 x.unit 0 0 0 seen).wearHalf 0x04 x.unit s.lanesUsed 4
    let s := (s.cnEvent 3 port s.ownPos 0).replayLast port x.unacked
    if more then s else s.sendWaiting port

/-- The bytes of the image that this device booted from, once it is in STANDBY or a later state (R376, R410). -/
def State.bootBytes (s : State) : Option (List Byte) :=
  if !s.mailOpen then none else s.boot.fw.map fun f =>
    if s.boot.chainBoot then s.boot.chainBytes else (at_ s.boot.flash f.slot []).take 0x800000

/-- A downstream member that boots over the chain is sent the image in CONTROL flits (R376, R410). -/
def State.sendImage (s : State) : State :=
  let p := s.port 1
  match s.bootBytes with
  | some bs =>
    if p.state = .up ∧ p.wantsImage then
      (s.setPort 1 { p with wantsImage := false }).sendMsg 1 flitControl bs (some (.bootImage bs))
    else s
  | none => s

/-- The lanes of a direction that training leaves (R373, R376): all but the spare that it chose, or, where lanes have failed since
reset, those that have not (R425). -/
def Lanes.trained (l : Lanes) (t : LaneTraining) : Lanes :=
  if l.bad = 0 then { active := ~~~ BitVec.ofNat 9 (2 ^ t.spare.val), spareLane := t.spare.val, skew := t.skew }
  else { l with active := ~~~ l.bad, spareUsed := true, skew := t.skew }

/-- Both directions of a port as training leaves them, and its lanes: 8, or 4 where a direction has no 8 left. -/
def trainedPort (d : Vector Lanes 2) (t : Training) : Vector Lanes 2 × Nat :=
  let x : Vector Lanes 2 := #v[d[0].trained t.out, d[1].trained t.inn]
  if 8 ≤ popN 9 x[0].active.toNat ∧ 8 ≤ popN 9 x[1].active.toNat then (x, 8)
  else (x.map fun l => { l with active := lowLanes l.active 4 }, 4)

/-- The position behind an upstream partner (R376): its own and one more; none where it has none or is position 63. -/
def nextPos (p : ChainPartner) : Option Nat := p.pos.bind fun q => if q.toNat < 63 then some (q.toNat + 1) else none

/-- CHAIN_TRAINING_DONE (R376, R377): 8 lanes with a spare in each direction; a member takes its upstream partner's position
plus 1. Where the partner had none yet, the member takes it over its trained port once the partner has (log entry 76). -/
def execChainTrainingDone (port : Fin 2) (t : Training) (partner : ChainPartner) (s : State) :
    Host.Outcome State Fault Refusal :=
  let i := port.val
  let p := s.port i
  fin s noteParts <|
  if p.state = .up ∧ i = 0 ∧ s.chain.pos.isNone then { s with chain := { s.chain with pos := nextPos partner } } else
  if p.state ≠ .training ∨ p.retrain then s else
  let (dirs, lanes) := trainedPort p.dirs t
  let s := s.setPort i { p with
    state := .up, lanes := lanes, dirs := dirs, attempts := 0, wasDown := false, delay := t.delay
    asym := t.asym, wantsImage := partner.wantsImage && decide (i = 1) }
  let s := if i = 0 then { s with chain := { s.chain with upDelay := t.delay, pos := nextPos partner } } else s
  (if p.wasDown then s.cnEvent 1 i s.ownPos 0 else s).sendImage

/-- RETRAINED (R377): a retrain ends; one that fails is repeated up to 3 times, and then the port is down. A port that is up
again sends the flits that waited, and an image that came to be due meanwhile (R376). -/
def execRetrained (port : Fin 2) (ok : Bool) (s : State) : Host.Outcome State Fault Refusal :=
  let i := port.val
  let p := s.port i
  fin s noteParts <| if p.state ≠ .training ∨ ¬ p.retrain then s else
  let s := { s with chain := { s.chain with retrains := sat32 (s.chain.retrains + 1) } }
  if ok then
    (((s.setPort i { p with state := .up, retrain := false, attempts := 0 }).sendWaiting i).cnEvent 5 i s.ownPos 0).sendImage
  else
    let s := (s.setPort i { p with attempts := p.attempts + 1 }).cnEvent 5 i s.ownPos 0
    if p.attempts < 3 then s else s.portDown i

/-- The chain clock domain is released. -/
def State.chainUp (s : State) : Bool := (at_ s.boot.dom 3 {}).up

/-- A port begins to train once its clock domain has left reset (R376): a lead never trains its upstream port. -/
def State.trainPort (s : State) (port : Nat) : State :=
  if (port = 0 ∧ ¬ s.boot.member) ∨ ¬ s.chainUp then s
  else s.setPort port { s.port port with
    state := .training, retrain := false, stopped := false, attempts := 0, lanes := 0, waiting := [], wantsImage := false }

/-- LINK_UP (R377): a port that went down comes back and trains anew; CHAIN_TRAINING_DONE then sends LINK_UP. -/
def execLinkUp (port : Fin 2) (s : State) : Host.Outcome State Fault Refusal :=
  fin s [.chain] <| if (s.port port.val).state = .down ∧ (s.port port.val).wasDown then s.trainPort port.val else s

/-- FLIT_REPLAY (R374): a flit of the replay buffer is sent again with every flit sent after it; the retry is counted. -/
def execFlitReplay (f : BadFlit) (s : State) : Host.Outcome State Fault Refusal :=
  let i := f.port.val
  fin s [.chain, .pm, .pins] <| if s.portUp i ∧ f.after.val < (s.port i).replay.length then
    (({ s with chain := { s.chain with retries := sat32 (s.chain.retries + 1) } }).count 33 0xA4 1).replayLast i (f.after.val + 1)
  else s

/-! ### Chain time transfer (R382, R383) -/

/-- The time line at an instant `n` 64ths of a unit interval after this keeper edge, a keeper cycle being 1,400 of them, in
2^-16 ns (R373, R382). -/
def State.subInst (s : State) (n : Nat) : Int := (s.time.line + s.time.rate * n / 1400) / 4294967296

/-- When a TIME flit passes the balls within this keeper cycle, in 64ths of a unit interval: free (R382, log entry 78). -/
def subCycle (k : Nat) : Nat := Config.freeNat k % 1400

/-- The stamp of a flit received by a port: the port's trained asymmetry is removed (R382, log entry 78). -/
def State.rxStamp (s : State) (port n : Nat) : Int := s.subInst n - (s.port port).asym

/-- CHAIN_TIME_EXCHANGE (R382): the time line has entered another millisecond. -/
def execChainTimeExchange (s : State) : Host.Outcome State Fault Refusal :=
  let ms := s.time.line / (1000000 * 281474976710656)
  fin s [.chain, .pm, .pins, .free] <|
  if s.boot.member && s.time.source == .chainUp && s.portUp 0 && ms != s.chain.lastMs && s.keeperUp then
    let (k, s) := s.take 1
    let e : Exchange := { t1 := s.subInst (subCycle k), stale := false, disturbed := false }
    ({ s with chain := { s.chain with lastMs := ms, exch := some e } }).sendMsg 0 flitTime [] (some (.timeFlit e.t1))
  else s

/-- TIME_EXCHANGE_REPLY (R376, R382): t3 lies at most 1 µs after t2. A member without a position carries no TIME flits. -/
def execTimeExchangeReply (lag : Nat) (s : State) : Host.Outcome State Fault Refusal :=
  fin s [.chain, .pm, .pins, .free] <| if s.portUp 1 && s.position.isSome && decide (lag ≤ 1792000) then
    let (k, s) := s.take 1
    (s.recvFlits 1 1).sendMsg 1 flitTime []
      (some (.timeReply (s.rxStamp 1 (subCycle k)) (s.subInst (subCycle k + lag)) s.time.flags))
  else s

/-- TIME_REPLY_RX (R45, R382, R383): the offset goes to the servo, or the exchange is discarded and counted. -/
def execTimeReplyRx (t2 t3 : Int) (flags : BitVec 16) (stepped : Bool) (s : State) : Host.Outcome State Fault Refusal :=
  fin s [.time, .chain, .pm, .free] <| match s.chain.exch with
  | none => s
  | some e =>
    if ¬ s.portUp 0 then s else
    let (k, s) := s.take 1
    let t4 := s.rxStamp 0 (subCycle k)
    let sum := (t2 - e.t1) + (t4 - t3)
    let bad := flags.getLsbD 0 || decide (2 * 65536 < (sum - 2 * s.chain.upDelay).natAbs) || e.disturbed || stepped
    let c := s.chain
    let s := ({ s with chain := { c with exch := none, exchanges := sat32 (c.exchanges + 1)
                                         discarded := if bad then sat32 (c.discarded + 1) else c.discarded } }).recvFlits 0 1
    let s := s.count 33 0xA5 1
    if bad ∨ e.stale ∨ s.time.source ≠ .chainUp then s else
    let (k, s) := s.take 1
    let o := divFree k ((e.t1 - t2) + (t4 - t3)) 2
    { s with time := { s.time with samples := s.time.samples ++ [{ src := .chainUp, o := o }] } }

/-! ### Messages (R378 to R380, R385, R386) -/

/-- FORWARDED_NOTE (R380): written on the channel of subject 0x9. The loss of a member's downstream neighbour, which a
LINK_DOWN note tells or the member reports without one, ends the chain before the next position (R378). -/
def execForwardedNote (pos : BitVec 6) (n : MemberNote) (s : State) : Host.Outcome State Fault Refusal :=
  let p := pos.toNat
  let msg := n.msg
  let down := bits (wAt msg 0) 63 52 = 0x9F0 ∧ bits (wAt msg 1) 7 0 = 2 ∧ bits (wAt msg 1) 8 8 = 1
  fin s noteParts <| if s.boot.member || !s.chain.enumerated || p = 0 || decide (s.chain.len ≤ p) || !s.portUp 1 then s else
  let s := s.recvFlits 1 (flitsOf (8 * msg.length))
  let s := if msg.isEmpty then s else s.notify 0x9F0 (pack [(p, 21, 16), (1, 8, 8), (0x10, 7, 0)] :: msg)
  if n.lost ∨ down then s.loseMember (p + 1) else s

/-- Codes of R386. -/
def LinkState.code : LinkState → Nat
  | .down => 0 | .training => 1 | .up => 2

/-- The spare lane of a port is in use, in either direction (R386, log entry 76). -/
def ChainPort.spareUsed (p : ChainPort) : Bool := p.dirs[0].spareUsed || p.dirs[1].spareUsed

/-- CN_GET_STATUS (R386). -/
def cnGetStatus (_ : Cmd) (s : State) : Ans :=
  let c := s.chain
  let u := s.port 0
  let d := s.port 1
  okWith s [pack [(b2n (!s.boot.member && c.enumerated), 63, 63), (b2n s.boot.member, 62, 62), (s.ownPos, 61, 56),
      (if s.boot.member then 0 else c.len, 54, 48), (u.lanes, 15, 12), (b2n u.spareUsed, 11, 11), (u.state.code, 10, 8),
      (d.lanes, 7, 4), (b2n d.spareUsed, 3, 3), (d.state.code, 2, 0)],
    pack [(c.retries, 63, 32), (c.retrains, 31, 0)], wd c.upDelay, pack [(c.exchanges, 63, 32), (c.discarded, 31, 0)]]
def execCnGetStatus (ch : Fin 33) (s : State) : Host.Outcome State Fault Refusal :=
  fin s ansParts (s.serve ch 0x900 0 cnGetStatus)

/-- An enumeration of the lead (R378): the members that answered in time, from position 1 on, to a query each and one more. A
downstream port that is down, or has no partner, brings no answer. -/
def State.enumerate (s : State) (ms : List MemberInfo) : List Word × State :=
  let on := s.portUp 1
  let ms := if on then ms.take 63 else []
  let s := if on then ((List.range (ms.length + 1)).foldl (fun s _ => s.sendMsg 1 flitControl [] none) s).recvFlits 1 ms.length else s
  (wd (ms.length + 1) :: ms.map fun m =>
    pack [(m.number.toNat, 63, 48), (m.lpddrGib.toNat, 47, 40), (m.state.toNat, 39, 36), (m.cause.toNat, 35, 32)],
    { s with chain := { s.chain with enumerated := true, len := ms.length + 1, members := ms } })

/-- The downstream port carries nothing for now: it trains, or has stopped for a spare lane (R377). -/
def State.downHeld (s : State) : Bool := !s.portUp 1 && decide ((s.port 1).state ≠ .down)

/-- CN_ENUMERATE on the lead (R378, R386). While the downstream port trains or stops, the queries wait for it. -/
def cnEnumerate (ms : List MemberInfo) (_ : Cmd) (s : State) : Ans :=
  if s.boot.member then wrongState
  else if s.downHeld then .ok (s, { wait := .chain (.enumerate ms) })
  else let (ws, t) := s.enumerate ms; okWith t ws

/-- The answer of this device to an enumeration (R378, R386). -/
def State.memberInfo (s : State) : MemberInfo :=
  { number := s.chain.number, lpddrGib := if s.boot.otp.part128 then 128 else 64, state := BitVec.ofNat 4 s.dev.state.code
    cause := s.boot.cause }

/-- The query of an enumeration reaches a member (R378): in STANDBY or a later state it answers, and CONTROL forwarding and
TENSOR traffic are open to it from then on (log entry 77). -/
def State.enumQuery (s : State) : State :=
  if ¬ s.boot.member ∨ ¬ s.keeperUp ∨ ¬ s.portUp 0 ∨ s.chain.pos.isNone then s else
  let s := { s.recvFlits 0 1 with chain := { (s.recvFlits 0 1).chain with enumerated := true } }
  s.sendMsg 0 flitControl [] (some (.enumReply s.memberInfo))

/-- CN_ENUMERATE. -/
def execCnEnumerate (ch : Fin 33) (e : Enumeration) (s : State) : Host.Outcome State Fault Refusal :=
  fin s ansParts <| match e with
  | .answers ms => s.serve ch 0x901 0 (cnEnumerate ms)
  | .query => s.enumQuery

/-- A member's completion of a forwarded command arrives (R379): the state, the outer status and its payload. It is FAULTED where
the member was lost. -/
def State.forwarded (s : State) (reply : Option (List Word)) : State × Nat × List Word :=
  match (if s.portUp 1 then reply else none) with
  | some r => (s.recvFlits 1 (flitsOf (8 * r.length)), 0, r.take 254)
  | none => (s, 7, [])

/-- What a command waited for from the chain (R377 to R379): the state, the status and the payload. -/
def State.endChainJob (s : State) : ChainJob → State × Nat × List Word
  | .forward reply => s.forwarded reply
  | .enumerate ms => let (ws, t) := s.enumerate ms; (t, 0, ws)

/-- CN_FORWARD (R379, R386): `reply` is the member's completion, none where the member was lost. While the downstream port
retrains or stops the command and its completion wait for it. -/
def cnForward (reply : Option (List Word)) (c : Cmd) (s : State) : Ans :=
  let pos := bits (wAt c.words 0) 5 0
  let inner := wAt c.words 1
  let len := bits inner 47 32
  let most := if bits inner 63 52 = 0x009 then 252 else 253
  if s.boot.member ∨ ¬ s.chain.enumerated then wrongState
  else checked [(0, decide (1 ≤ pos ∧ pos < s.chain.len)), (1, decide (len ≤ most)),
    (c.words.length, decide (1 + len < c.words.length))] <|
  let msg := (c.words.drop 1).take (1 + len)
  let s := s.sendMsg 1 flitControl (wordBytes msg) (some (.forward pos msg))
  if s.downHeld then .ok (s, { wait := .chain (.forward reply) }) else
  let (t, status, resp) := s.forwarded reply
  .ok (t, { status := status, resp := resp })
def execCnForward (ch : Fin 33) (reply : Option (List Word)) (s : State) : Host.Outcome State Fault Refusal :=
  fin s ansParts (s.serve ch 0x902 2 (cnForward reply))

/-- CN_RETRAIN (R377, R386): completes when the retrain ends; FAULTED where the port is down. -/
def cnRetrain (c : Cmd) (s : State) : Ans :=
  let i := bits (wAt c.words 0) 0 0
  match (s.port i).state with
  | .down => .ok (s, { status := 7 })
  | .training => .ok (s, { wait := .retrain i })
  | .up => .ok (s.startRetrain i (s.port i).lanes, { wait := .retrain i })
def execCnRetrain (ch : Fin 33) (s : State) : Host.Outcome State Fault Refusal :=
  fin s ansParts (s.serve ch 0x903 1 cnRetrain)

/-- CN_SET_NUMBER (R385, R386). -/
def cnSetNumber (c : Cmd) (s : State) : Ans :=
  ok { s with chain := { s.chain with number := BitVec.ofNat 16 (bits (wAt c.words 0) 15 0) } }
def execCnSetNumber (ch : Fin 33) (s : State) : Host.Outcome State Fault Refusal :=
  fin s ansParts (s.serve ch 0x904 1 cnSetNumber)

end Sys2Proof.Machine
end

