-- ==== Sys2Proof/Machine/Spares.lean ====
section
/-! DEFINITION. Spares, the lamp changer, wear, engine faults and the fault messages (ch. 17, R159, R160, R266). -/
namespace Sys2Proof.Machine

/-! ### Tiles (R159, R160) -/

/-- A position works: in service and not waiting for its spare. -/
def State.works (s : State) (pos : Nat) : Bool := s.faults.tileIn.getLsbD pos && !s.waitsSpare 2 pos

/-- The physical tile that serves a position (R448): the spare tile of its quadrant under SUBST. -/
def State.tileOf (s : State) (pos : Nat) : Nat := if s.faults.tileSubst.getLsbD pos then 64 + pos / 16 else pos

/-- A position is retired (R160): with the last of its group the group's launches end FAULTED and the device takes fog
cause TILE_GROUP. -/
def State.retireTile (s : State) (pos : Nat) (seen : Option Stamp := none) : State :=
  let f := s.faults
  let m := ~~~ BitVec.ofNat 64 (2 ^ pos)
  let s := ({ s with faults := { f with tileIn := f.tileIn &&& m, tileSubst := f.tileSubst &&& m } }).log 0x02 2 pos 0 0 0 seen
  let g := pos / 4
  if s.inService g g then s else (s.failTarget g g).addCause .tileGroup 0x02 pos seen

/-- A position faults: its quadrant's spare is brought in if it is free, else the position is retired. -/
def State.tileFails (s : State) (pos : Nat) : State :=
  let f := s.faults
  if ¬ s.works pos then s
  else if f.tileSpareGone.getLsbD (pos / 16) ∨ f.tileSubst.getLsbD pos then s.retireTile pos
  else s.enqueue { cls := 2, unit := pos }

/-- TILE_FAULT (R160). -/
def execTileFault (pos : Fin 64) (s : State) : Host.Outcome State Fault Refusal :=
  fin s (ansParts ++ [.budget, .calib, .faults]) (s.tileFails pos.val)

/-- The lamp changer serves a position (R427, R429). -/
def State.switchTile (s : State) (pos : Nat) (katOk : Bool) (seen : Option Stamp := none) : State :=
  let f := s.faults
  let q := pos / 16
  if f.tileSpareGone.getLsbD q then s.retireTile pos seen else
  let s := { s with faults := { f with tileSpareGone := f.tileSpareGone ||| BitVec.ofNat 4 (2 ^ q) } }
  let used := popN 4 s.faults.tileSpareGone.toNat
  if katOk then
    let s := { s with faults := { s.faults with tileSubst := s.faults.tileSubst ||| BitVec.ofNat 64 (2 ^ pos) } }
    (s.log 0x02 1 pos 0 0 0 seen).wearHalf 0x02 pos used 4
  else ((s.log 0x02 2 pos 0 0 0 seen).wearHalf 0x02 pos used 4).retireTile pos seen

/-! ### Solver lanes (R266, R438) -/

/-- A lane is retired; with the last one the device enters FAULT_HALT. -/
def State.retireLane (s : State) (lane : Nat) (seen : Option Stamp := none) : State :=
  let f := s.faults
  let s := ({ s with faults := { f with
    laneIn := f.laneIn &&& ~~~ BitVec.ofNat 16 (2 ^ lane)
    laneSubst := if f.laneSubst = some lane then none else f.laneSubst
    laneSpareGone := f.laneSpareGone || f.laneSubst = some lane } }).log 0x03 2 lane 0 0 0 seen
  if s.lanes == 0 then s.enterHalt 0x03 lane seen else s

/-- A lane faults. -/
def State.laneFails (s : State) (lane : Nat) : State :=
  let f := s.faults
  if ¬ f.laneIn.getLsbD lane ∨ s.waitsSpare 3 lane then s
  else if f.laneSpareGone ∨ f.laneSubst.isSome then s.retireLane lane
  else s.enqueue { cls := 3, unit := lane }

/-- SOLVER_LANE_FAULT (R266). -/
def execSolverLaneFault (lane : Fin 16) (s : State) : Host.Outcome State Fault Refusal :=
  fin s (ansParts ++ [.chars, .ll, .layout, .devState, .faults]) (s.laneFails lane.val)

/-- The idle spare lane fails its own test: it is retired. -/
def State.spareLaneFails (s : State) (seen : Option Stamp := none) : State :=
  match s.faults.laneSubst with
  | some l => s.retireLane l seen
  | none => if s.faults.laneSpareGone then s
    else (({ s with faults := { s.faults with laneSpareGone := true } }).log 0x03 2 16 0 0 0 seen).wearHalf 0x03 16 1 1

/-- The lamp changer serves a lane (R427, R429). -/
def State.switchLane (s : State) (lane : Nat) (katOk : Bool) (seen : Option Stamp := none) : State :=
  let f := s.faults
  if f.laneSpareGone ∨ f.laneSubst.isSome then s.retireLane lane seen
  else if katOk then
    let s := { s with faults := { f with laneSubst := some lane } }
    (s.log 0x03 1 lane 0 0 0 seen).wearHalf 0x03 lane 1 1
  else (s.spareLaneFails seen).retireLane lane seen

/-! ### Keeper cores (R430, R438) -/

/-- The cores of a pair by their own numbers. -/
def coresOf : KPair → List Nat
  | .a => [0, 1]
  | .b => [2, 3]

/-- A pair fails with core 4 already in use (R430): it stops for good; with no pair left the keeper's work stops (R438). -/
def State.stopPair (s : State) (p : KPair) (unit : Nat) (seen : Option Stamp := none) : State :=
  let stops := put s.faults.stopAt (if p = .a then 0 else 1) (some s.boot.aon)
  match s.faults.pairDown with
  | none => ({ s with faults := { s.faults with pairDown := some p, stopAt := stops } }).addCause .keeper 0x01 unit seen
  | some q => if p = q then s else { s with faults := { s.faults with keeperDead := true, stopAt := stops } }

/-- A core of a pair is replaced by core 4 (R430). -/
def State.core4Joins (s : State) (p : KPair) (core : Nat) (seen : Option Stamp := none) : State :=
  let s := { s with faults := { s.faults with core4 := some p, badCores := s.faults.badCores ++ [core] } }
  (s.log 0x01 1 core 0 0 0 seen).wearHalf 0x01 core 1 1

/-- Core 4 fails as a spare: it is retired (R429). -/
def State.core4Fails (s : State) (seen : Option Stamp := none) : State :=
  (({ s with faults := { s.faults with badCores := s.faults.badCores ++ [4] } }).log 0x01 2 4 0 0 0 seen).wearHalf 0x01 4 1 1

/-- A pair is out for its self-test (R430). -/
def State.pairLeaves (s : State) (p : KPair) : State :=
  { s with faults := { s.faults with pairOut := put s.faults.pairOut (if p = .a then 0 else 1) (some s.time.counter) } }

/-- A keeper pair faults (R430). -/
def State.pairFails (s : State) (p : KPair) (t : CoreTest) : State :=
  let f := s.faults
  if s.dev.state.code < 3 ∨ f.keeperDead ∨ f.pairDown = some p then s
  else if f.core4.isSome ∨ f.pairDown.isSome ∨ f.badCores.contains 4 then s.stopPair p ((coresOf p).headD 0)
  else
  let s := s.pairLeaves p
  match t with
    | .noneFails => s.log 0x01 7 ((coresOf p).headD 0) 0 0 0
    | .fails c =>
      if c.val = 4 then s.core4Fails
      else if (coresOf p).contains c.val then s.core4Joins p c.val
      else s

/-- KEEPER_CORE_FAULT (R430). -/
def execKeeperCoreFault (p : KPair) (t : CoreTest) (s : State) : Host.Outcome State Fault Refusal :=
  fin s logParts (s.pairFails p t)

/-- The pair that a core serves. -/
def State.pairOf (s : State) (core : Nat) : Option KPair :=
  if s.faults.badCores.contains core then none
  else if core = 4 then s.faults.core4 else if core < 2 then some .a else some .b

/-- A named core fails (R444) or is replaced for wear (R434). -/
def State.coreFails (s : State) (core : Nat) (seen : Option Stamp := none) : State :=
  match s.pairOf core with
  | none => if core = 4 ∧ ¬ s.faults.badCores.contains 4 then s.core4Fails seen else s
  | some p =>
    let f := s.faults
    if f.core4.isSome ∨ f.pairDown.isSome ∨ f.badCores.contains 4 then s.stopPair p core seen else s.core4Joins p core seen

/-! ### Switching and wear -/

/-- A unit planned for substitution has no work (R434). -/
def State.unitIdle (s : State) (q : Subst) : Bool :=
  if q.cls = 2 then (s.runningAt (q.unit / 4) (q.unit / 4)).isNone
  else if q.cls = 3 then (s.runningAt 0x21 16).isNone else true

/-- The substitution that the lamp changer makes next: a unit that has stopped before one planned for wear. -/
def State.nextSubst (s : State) : Option Subst :=
  match s.faults.queue.find? fun q => !q.planned with
  | some q => some q
  | none => s.faults.queue.find? s.unitIdle

/-- A planned substitution finds no spare left: the unit stays (R434). -/
def State.spareLeft (s : State) (cls unit : Nat) : Bool :=
  let f := s.faults
  if cls = 2 then !f.tileSpareGone.getLsbD (unit / 16) && f.tileIn.getLsbD unit && !f.tileSubst.getLsbD unit
  else if cls = 3 then !f.laneSpareGone && f.laneSubst.isNone && f.laneIn.getLsbD unit
  else if cls = 1 then f.core4.isNone && f.pairDown.isNone && !f.badCores.contains 4 && unit != 4
  else false

/-- LAMP_CHANGER_SWITCH (R427 to R430, R434): pair B must run. -/
def execLampChangerSwitch (katOk : Bool) (s : State) : Host.Outcome State Fault Refusal :=
  fin s (ansParts ++ [.chars, .budget, .ll, .layout, .calib, .devState, .faults]) <| if s.faults.keeperDead ∨ s.pairAway 1 then s else match s.nextSubst with
  | none => s
  | some q =>
    let s := { s with faults := { s.faults with queue := s.faults.queue.erase q } }
    let seen := some q.seen
    if q.planned ∧ ¬ s.spareLeft q.cls.toNat q.unit then s
    else if q.cls = 2 then
      (if q.planned ∧ ¬ katOk then
        let s := { s with faults := { s.faults with
          tileSpareGone := s.faults.tileSpareGone ||| BitVec.ofNat 4 (2 ^ (q.unit / 16)) } }
        (s.log 0x02 2 q.unit 0 0 0 seen).wearHalf 0x02 q.unit (popN 4 s.faults.tileSpareGone.toNat) 4
      else s.switchTile q.unit katOk seen)
    else if q.cls = 4 then s.switchChainLane q katOk
    else if q.cls = 3 then
      (if q.planned ∧ ¬ katOk then s.spareLaneFails seen else s.switchLane q.unit katOk seen)
    else if katOk then s.coreFails q.unit seen
    else s.core4Fails seen

/-- A worn unit: its WEAR entry, once, and a planned substitution if a spare is left (R434). -/
def State.wornUnit (s : State) (u : UnitId) : State :=
  let c := u.cls.toNat
  let n := u.unit.toNat
  if s.faults.worn.contains (c, n) ∨ c < 1 ∨ 3 < c then s else
  let s := ({ s with faults := { s.faults with worn := (c, n) :: s.faults.worn } }).log 0x11 0 n 0 0 0
  if s.spareLeft c n then s.enqueue { cls := BitVec.ofNat 8 c, unit := n, planned := true } else s

/-- WEAR_MONITOR (R434, R465): once per second; the units count as worn while VDD_ARRAY is at 0.60 V (code 15). ARRAY_VID
moves to the wanted code as time passes. -/
def execWearMonitor (vid : BitVec 4) (worn : List UnitId) (s : State) : Host.Outcome State Fault Refusal :=
  fin s logParts <| if s.governs && decide (s.faults.wearAt + cycSec ≤ s.time.counter) then
    let s := { s with faults := { s.faults with wearAt := s.time.counter }, pins := { s.pins with vidTarget := vid } }
    if s.pins.arrayVid = 15 then worn.foldl State.wornUnit s else s
  else s

/-! ### Engines (R435) -/

/-- The launch target of an engine: 3 to 6 are page movers. -/
def engineTarget (u : Nat) : Nat := if u = 0 then 0x20 else if u = 1 then 0x22 else 0x23

/-- ENGINE_FAULT (R435, R437). -/
def execEngineFault (u : Fin 7) (s : State) : Host.Outcome State Fault Refusal :=
  let f := s.faults
  fin s (ansParts ++ [.budget, .layout, .calib, .faults]) <| if ¬ f.engines.getLsbD u.val then s else
  let s := { s with faults := { f with engines := f.engines &&& ~~~ BitVec.ofNat 7 (2 ^ u.val) } }
  let s := s.log 0x09 2 u.val 0 0 0
  let s := if u.val = 1 then { s with layout := { s.layout with move := none, remote := [], mode := 0 } } else s
  let t := engineTarget u.val
  let s := if s.inService t 16 then s else s.failTarget t 16
  if u.val = 0 then s.addCause .pointCloud 0x09 0 else s

/-! ### Messages (R443, R444) -/

/-- The 5 words of an entry (R442). -/
def LogEntry.words (e : LogEntry) : List Word := [e.w0, e.w1, e.w2, e.w3, e.w4]

/-- FL_GET_LOG (R444). -/
def flGetLog (c : Cmd) (s : State) : Ans :=
  let w := wAt c.words 0
  let n := bits w 37 32
  checked [(0, decide (1 ≤ n ∧ n ≤ 50))] <|
  let es := (s.faults.log.filter fun e => decide (bits w 31 0 ≤ e.1)).take n
  okWith s (pack [(s.faults.overwrites, 63, 32), (s.faults.next, 31, 0)] :: (es.map fun e => e.2.words).flatten)
def execFlGetLog (ch : Fin 33) (s : State) : Host.Outcome State Fault Refusal :=
  fin s ansParts (s.serve ch 0xB00 1 flGetLog)

/-- The spare inventory (R424): in service, spares left, retired, by code. A count that its field does not hold is given
as 0xFFFF. -/
def State.spares (s : State) : List (Nat × Nat × Nat) :=
  let f := s.faults
  let down := b2n f.pairDown.isSome
  let tiles := popN 64 f.tileIn.toNat
  let ports := s.chain.ports.toList
  let lost := ports.foldl (fun a p => a + (popN 9 p.dirs[0].bad.toNat - 1) + (popN 9 p.dirs[1].bad.toNat - 1)) 0
  [(4 - 2 * down, b2n (f.core4.isNone && f.pairDown.isNone && !f.badCores.contains 4), f.badCores.length),
   (tiles, 4 - popN 4 f.tileSpareGone.toNat, 64 - tiles),
   (s.lanes, b2n (!f.laneSpareGone && f.laneSubst.isNone), 16 - s.lanes),
   (32 - lost, 4 - s.lanesUsed, lost),
   (0xFFFF, 8192 - f.nearRows.length, 0),
   (64, 4 - popN 4 f.bankSpareGone.toNat, 0),
   (4096, 64 - f.keeperRows.length, 0),
   (0xFFFF, 1024 - f.pprUsed.length + (512 - f.remap.length), 0)]

/-- FL_GET_SPARES (R444). -/
def flGetSpares (_ : Cmd) (s : State) : Ans :=
  okWith s (s.spares.map fun r => pack [(min r.1 0xFFFF, 47, 32), (min r.2.1 0xFFFF, 31, 16), (min r.2.2 0xFFFF, 15, 0)])
def execFlGetSpares (ch : Fin 33) (s : State) : Host.Outcome State Fault Refusal :=
  fin s ansParts (s.serve ch 0xB01 0 flGetSpares)

/-- FL_CLEAR_LOG (R444). -/
def flClearLog (_ : Cmd) (s : State) : Ans := ok { s with faults := { s.faults with log := [], overwrites := 0 } }
def execFlClearLog (ch : Fin 33) (s : State) : Host.Outcome State Fault Refusal :=
  fin s (ansParts ++ [.faults]) (s.serve ch 0xB02 0 flClearLog)

/-- A unit that FL_TEST may name (R426, R444). -/
def testUnitOk (cls unit : Nat) : Bool :=
  (cls = 1 && decide (unit ≤ 4)) || (cls = 2 && decide (unit < 64)) || (cls = 3 && decide (unit ≤ 16)) ||
  (cls = 4 && decide (unit < 32) && decide (unit % 16 ≤ 8)) || (cls = 6 && decide (unit < 64))

/-- FL_TEST (R437, R444). A chain lane is one that sends: UNIT names no direction (log entry 76). -/
def flTest (c : Cmd) (s : State) : Ans :=
  let w := wAt c.words 0
  let unit := bits w 27 16
  let cls := bits w 15 8
  let mode := bits w 1 0
  checked [(0, mode != 3), (0, mode != 0 || testUnitOk cls unit)] <|
  ok <|
    if mode = 1 then s.addCause .test 0x12 unit
    else if mode = 2 then s.endCause .test
    else if cls = 1 then
      (match s.pairOf unit with
        | some p => (s.coreFails unit).pairLeaves p
        | none => s.coreFails unit)
    else if cls = 2 then s.tileFails unit
    else if cls = 3 then (if unit = 16 then s.spareLaneFails else s.laneFails unit)
    else if cls = 4 then s.chainLaneFails (unit / 16) 0 (unit % 16) 0
    else s.spareBank unit
def execFlTest (ch : Fin 33) (s : State) : Host.Outcome State Fault Refusal :=
  fin s (ansParts ++ [.chars, .budget, .ll, .layout, .calib, .devState, .faults]) (s.serve ch 0xB03 1 flTest)

end Sys2Proof.Machine
end

