-- ==== Sys2Proof/Machine/Reset.lean ====
section
/-! DEFINITION. Resets, clock domains, the reset sequence and boot (ch. 16, R436). The times of the always-on domain run on
`aon` (log entry 13). -/
namespace Sys2Proof.Machine

/-- Cells of LPDDR5X. -/
def lpddrCells (m : Mem) : List Host.Cell := m.cells.filter fun c => decide (c.1 < 0x2000000000)

/-- The service port without a link: its configuration space is at its reset values but for the error status, which PCI
Express keeps through a hot reset (R392, log entry 97). -/
def Boot.linkLost (b : Boot) : Boot := { b with linkUp := false, svc := { aer := b.svc.aer } }

/-- What no reset touches: the waiting commands, OTP, boot flash, the RESET_N pin, repairs of the LPDDR5X dies, and the
model's own records. -/
def State.keepParts (s : State) : State :=
  { pending := s.pending, free := s.free
    boot := { otp := s.boot.otp, flash := s.boot.flash, resetN := s.boot.resetN, aon := s.boot.aon }
    pins := { lastRead := s.pins.lastRead, sent := s.pins.sent }
    faults := { pprUsed := s.faults.pprUsed, pprHard := s.faults.pprHard } }

/-- PLLs are enabled and the full reset sequence runs once nothing holds the device (R393, R394, R397, R398). -/
def State.startSequence (s : State) : State :=
  let b := s.boot
  if b.resetN && b.railsOut.isEmpty && !b.thermHold && !b.heldDark && s.dev.state = .dark then
    { s with boot := { b with sequence := true, pllAt := b.aon, wdFrom := some b.aon } }
  else s

/-- The REFCLK cycle at hand: 51.2 keeper cycles each (R15). -/
def Boot.refCycle (b : Boot) : Nat := b.aon * 5 / 256

/-- Place of a cause in the order of R389, by its code. -/
def causeRank (c : Nat) : Nat := (look [(1, 0), (6, 1), (5, 2), (8, 3), (2, 4), (7, 5), (3, 6), (4, 7)] c).getD 8

/-- RESET_CAUSE as a cause arises (R389): the first in the order among those of one REFCLK cycle. -/
def Boot.causeWith (b : Boot) (c : Nat) : BitVec 4 :=
  if b.causeAt = some b.refCycle ∧ causeRank b.cause.toNat < causeRank c then b.cause else BitVec.ofNat 4 c

/-- A full reset with a cause (R389, R390, R397): LPDDR5X is still to be written to 0. The hold that follows four PLL_NO_LOCK
resets ends with RESET_N or a new power-on only. -/
def State.fullReset (s : State) (cause : Nat) : State :=
  let t := s.keepParts
  let b := s.boot
  { t with
    boot := { t.boot with
      cause := b.causeWith cause, causeAt := some b.refCycle, railsOut := b.railsOut, railsAt := b.railsAt
      thermHold := b.thermHold, thermAt := b.thermAt, clearLpddr := true
      heldDark := b.heldDark && cause != 1 && cause != 2 }
    pins := { t.pins with thermTripN := s.pins.thermTripN }
    mem := { cells := lpddrCells s.mem } }

/-- The time-line domain through a warm reset (R390): the source becomes NONE and the servo moves under R41; settings and
statistics return to their reset values, the stamps of the last forced step too (R59 says "none" for no step; DESIGN CHOICE,
log entry 93). -/
def State.warmTime (s : State) : Time :=
  let t := (s.setSource .none).time
  { ({} : Time) with
    counter := t.counter, line := t.line, gen := t.gen, uptime := t.uptime, disciplined := t.disciplined, state := t.state
    source := .none, iAcc := t.iAcc, freq := t.freq, lockRun := t.lockRun, holdFrom := t.holdFrom, acq := t.acq }

/-- A warm reset with a cause (R389 to R392, R399): no lock gating; the strap is measured again. -/
def State.warmReset (s : State) (cause : Nat) : State :=
  let t := s.keepParts
  let b := s.boot
  { t with
    time := s.warmTime
    boot := { t.boot with
      cause := b.causeWith cause, causeAt := some b.refCycle, warm := true, railsOut := [], dom := b.dom, sequence := true
      wdDisarmed := b.wdDisarmed, wdFrom := some b.aon
      clearLpddr := b.clearLpddr, linkUp := b.linkUp, svc := b.svc }
    mem := { cells := lpddrCells s.mem, asleep := BitVec.allOnes 64, reachable := s.mem.reachable
             ueWords := s.mem.ueWords.filter fun a => decide (a < 0x2000000000)
             ceWords := s.mem.ceWords.filter fun a => decide (a < 0x2000000000) }
    faults := { t.faults with log := s.faults.log, next := s.faults.next, overwrites := s.faults.overwrites
                              remap := s.faults.remap }
    buoys := { nextId := s.buoys.nextId, wrapped := s.buoys.wrapped }
    dev := { state := .optionLoad } }

/-! ### Causes (R389, R393 to R395, R473) -/

/-- POWER_ON (R389, R394): the hold lasts until every rail has been within its window for 1 ms. -/
def execPowerOn (s : State) : Host.Outcome State Fault Refusal :=
  let t := s.fullReset 1
  fin s resetParts
    { t with boot := { t.boot with railsOut := allRails, railsAt := t.boot.aon, thermHold := false }
             pins := { t.pins with thermTripN := true }
             mem := {} }

/-- RESET_N_LOW (R389, R397, R473). In the hold that follows the ramp of the supplies the cause stays POWER_ON (R466). -/
def execResetNLow (s : State) : Host.Outcome State Fault Refusal :=
  fin s resetParts <| if ¬ s.boot.resetN then s else
  let t := s.fullReset (if s.boot.cause = 1 ∧ s.boot.railsOut ≠ [] then 1 else 2)
  { t with boot := { t.boot with resetN := false } }

/-- RESET_N_RISING_EDGE (R398, R466). -/
def execResetNRisingEdge (s : State) : Host.Outcome State Fault Refusal :=
  fin s [.boot] <| if s.boot.resetN then s else ({ s with boot := { s.boot with resetN := true } }).startSequence

/-- SUPPLY_MONITOR (R394, R462): a rail leaves its window; during the hold of 1 ms the hold begins anew. Without VDD_IO the
open-drain THERM_TRIP_N is released. -/
def execSupplyMonitor (r : Rail) (s : State) : Host.Outcome State Fault Refusal :=
  let t := s.fullReset 6
  let out := s.boot.railsOut
  fin s resetParts
    { t with boot := { t.boot with railsOut := if out.contains r then out else out ++ [r], railsAt := t.boot.aon }
             pins := { t.pins with thermTripN := t.pins.thermTripN || r = .vddIo } }

/-- SUPPLY_RECOVERED (R393, R394): every rail has been within its window for 1 ms. THERM_TRIP_N is low again while it holds. -/
def execSupplyRecovered (s : State) : Host.Outcome State Fault Refusal :=
  fin s [.boot, .pins] <| if s.boot.railsOut.isEmpty ∨ s.boot.aon < s.boot.railsAt + cycMs then s
  else ({ s with boot := { s.boot with railsOut := [] }, pins := { s.pins with thermTripN := !s.boot.thermHold } }).startSequence

/-- THERMAL_TRIP (R389, R393). -/
def execThermalTrip (s : State) : Host.Outcome State Fault Refusal :=
  let t := s.fullReset 5
  fin s resetParts
    { t with boot := { t.boot with thermHold := true, thermAt := t.boot.aon }, pins := { t.pins with thermTripN := s.boot.railsOut.contains .vddIo } }

/-- THERM_TRIP_RELEASE (R393): every sensor has read below 100 °C for 1 s. -/
def execThermTripRelease (s : State) : Host.Outcome State Fault Refusal :=
  fin s [.boot, .pins] <| if ¬ s.boot.thermHold ∨ s.boot.aon < s.boot.thermAt + cycSec then s else
  ({ s with boot := { s.boot with thermHold := false }, pins := { s.pins with thermTripN := true } }).startSequence

/-- The boot watchdog is armed (R395, R403): from KEEPER_BOOT on as the strap says; in OPTION_LOAD, where the strap is not yet
taken, as a free value says (log entry 81). -/
def State.bootArmed (s : State) : Bool :=
  !s.boot.wdDisarmed &&
  ((s.dev.state = .optionLoad && Config.strapWatchdog s.boot.aon) ||
    ((s.dev.state = .keeperBoot || s.boot.romServes) && s.boot.watchdogOn))

/-- BOOT_WATCHDOG (R395): STANDBY has not been entered 2,000 ms after the watchdog started. After three in a row it stays
disarmed. -/
def execBootWatchdog (s : State) : Host.Outcome State Fault Refusal :=
  let b := s.boot
  let past := match b.wdFrom with
    | some at_ => decide (at_ + 2000 * cycMs ≤ b.aon)
    | none => false
  fin s (resetParts ++ [.free]) <| if !(s.bootArmed && past) then s else
  let t := s.warmReset 3
  { t with boot := { t.boot with wdCount := min 3 (b.wdCount + 1), wdDisarmed := decide (3 ≤ b.wdCount + 1) } }

/-- Pair `k` has not serviced the keeper watchdog for `ms` milliseconds since it last did (R395, R479): that was after the
mailboxes opened, and within the last millisecond before a pair that stopped for good did so. -/
def State.missedFor (s : State) (k ms last : Nat) : Bool :=
  decide (s.boot.openAt ≤ last ∧ last + ms * cycMs ≤ s.boot.aon) &&
  (match at_ s.faults.stopAt k none with
    | some c => decide (last ≤ c ∧ c ≤ last + cycMs)
    | none => true)

/-- KEEPER_WATCHDOG (R395, R430): armed from STANDBY onward; a pair has missed 10 ms, or both 50 ms. -/
def execKeeperWatchdog (m : WdMiss) (s : State) : Host.Outcome State Fault Refusal :=
  fin s (resetParts ++ [.free]) <| if ¬ s.mailOpen then s else
  match m with
  | .pair p t last => if s.missedFor (if p = .a then 0 else 1) 10 last then s.pairFails p t else s
  | .both a b => if s.missedFor 0 50 a && s.missedFor 1 50 b then s.warmReset 3 else s

/-- KEEPER_REQUEST (R369, R379, R389): 10 ms after the completion of a DEV_RESET. -/
def execKeeperRequest (s : State) : Host.Outcome State Fault Refusal :=
  fin s (resetParts ++ [.free]) <| match s.dev.resetAt with
  | none => s
  | some (at_, forwarded) => if at_ + 10 * cycMs ≤ s.time.counter then s.warmReset (if forwarded then 7 else 4) else s

/-! ### Clock domains (R396, R397, R436) -/

def State.dom (s : State) (d : Domain) : Dom := at_ s.boot.dom (domBit d) {}
def State.setDom (s : State) (d : Domain) (x : Dom) : State := { s with boot := { s.boot with dom := put s.boot.dom (domBit d) x } }

/-- 4,096 reference cycles have passed since an instant of `aon` (R397). -/
def Boot.lockTime (b : Boot) (from_ : Nat) : Bool := decide (5 * from_ + 4096 * 256 ≤ 5 * b.aon)

/-- A domain is released; once all are, a reset sequence goes on to OPTION_LOAD (R398). -/
def State.releaseDom (s : State) (d : Domain) : State :=
  let s := s.setDom d { up := true }
  if s.boot.sequence ∧ s.dev.state = .dark ∧ s.boot.dom.toList.all (·.up) then
    { s with dev := { s.dev with state := .optionLoad } }
  else s

/-- PLL_LOCK (R397, R398): after 4,096 reference cycles of lock, which a domain that has lost it since counts anew, the domain
is released. -/
def execPllLock (d : Domain) (s : State) : Host.Outcome State Fault Refusal :=
  fin s [.devState, .boot] <|
  if ¬ s.boot.sequence ∨ s.dev.state ≠ .dark ∨ (s.dom d).up ∨ ¬ s.boot.lockTime ((s.dom d).lostAt.getD s.boot.pllAt) then s
  else s.releaseDom d

/-- One more PLL_NO_LOCK reset; the fourth in a row holds the device in DARK with the SVC domain as it was (R397). -/
def State.noLock (s : State) (bit : Nat) : State :=
  let b := s.boot
  let t := s.fullReset 8
  let n := b.noLockRun + 1
  let t := { t with boot := { t.boot with
    noLockRun := n, pllUnlocked := (if b.noLockRun = 0 then 0 else b.pllUnlocked) ||| BitVec.ofNat 5 bit
    heldDark := decide (4 ≤ n) } }
  if 4 ≤ n then t.setDom .svc { up := (s.dom .svc).up } else t.startSequence

/-- PLL_NO_LOCK (R397): a domain has not locked 10 ms after its PLL was enabled. Domains found so in one REFCLK cycle make one
reset, with the bit of each. -/
def execPllNoLock (d : Domain) (s : State) : Host.Outcome State Fault Refusal :=
  let b := s.boot
  fin s resetParts <|
  if s.dev.state ≠ .dark ∨ (s.dom d).up then s
  else if b.noLockRun ≠ 0 ∧ b.causeAt = some b.refCycle then
    { s with boot := { b with pllUnlocked := b.pllUnlocked ||| BitVec.ofNat 5 (2 ^ domBit d) } }
  else if ¬ b.sequence ∨ b.aon < b.pllAt + 10 * cycMs then s
  else s.noLock (2 ^ (domBit d))

/-- Words of units that are on their way into the queues are lost with the SENSOR domain: each such unit ends with its GAP word
(R436). -/
def State.wordsLost (s : State) : State :=
  (List.range 64).foldl (fun s q =>
    let es := ((s.queue q).coming.map (·.entry)).eraseDups
    es.foldl (fun s e => s.gapUnknown q e) (s.setQueue q { s.queue q with coming := [] })) s

/-- Units in progress end with their GAP words when the SENSOR domain loses lock (R436). -/
def State.sensorsLost (s : State) : State :=
  (List.range 64).foldl (fun s i =>
    let e := s.entry i
    let busy := e.frame.isSome || s.ll.spi.toList.any fun x => match x with
      | some (j, _) => j == i
      | none => false
    if busy then (s.abandon i).gapUnknown e.queue i else s) s |>.wordsLost

/-- CLOCK_DOMAIN_LOSS (R397, R436, R442): a released domain loses lock and returns to reset. From KEEPER_BOOT on the keeper
writes an entry; that of a loss that begins fog cause MEM carries ACTION FOG. -/
def execClockDomainLoss (d : Domain) (s : State) : Host.Outcome State Fault Refusal :=
  fin s (resetParts ++ [.free]) <| if ¬ (s.dom d).up then s
  else if d = .core then s.noLock 0
  else
    let s := s.setDom d { lostAt := some s.boot.aon }
    let s := if d = .svc then { s with boot := s.boot.linkLost } else s
    if s.dev.state = .dark then s else
    let works := 2 ≤ s.dev.state.code
    let fog := d = .mem ∧ ¬ s.faults.causes.any (·.1 = .mem)
    let s := if works ∧ ¬ fog then s.log 0x0A 0 (domBit d) 0 0 0 else s
    match d with
    | .mem =>
      let s := { s with mem := { s.mem with reachable := false } }
      if works then s.addCause .mem 0x0A 1 else s
    | .sensor => s.sensorsLost
    | .chain => (List.range 2).foldl (fun s p => if (s.port p).state = .down then s else s.portDown p) s
    | _ => s

/-- A package is removed (R414): its region entry takes back the permissions it had. -/
def State.removePackage (s : State) (i : Nat) : State :=
  match at_ s.boot.packages i none with
  | none => s
  | some p =>
    let s := { s with
      boot := { s.boot with packages := put s.boot.packages i none }
      mem := { s.mem with spoilt := s.mem.spoilt &&& ~~~ BitVec.ofNat 16 (2 ^ i) } }
    match look s.mem.regions p.region with
    | none => s
    | some (w0, w1, w2) =>
      let w0 := pack [(bits w0 63 63, 63, 63), (b2n p.rd, 62, 62), (b2n p.wr, 61, 61), (b2n p.ls, 60, 60), (bits w0 59 0, 59, 0)]
      { s with mem := { s.mem with regions := insertKey s.mem.regions p.region (w0, w1, w2) } }

/-- LPDDR5X written to 0: its errors go with its contents. -/
def Mem.clearLpddr (m : Mem) : Mem :=
  { m with cells := m.cells.filter fun c => decide (0x2000000000 ≤ c.1)
           ueWords := m.ueWords.filter fun a => decide (0x2000000000 ≤ a)
           ceWords := m.ceWords.filter fun a => decide (0x2000000000 ≤ a) }

/-- CLOCK_DOMAIN_RELOCK (R397, R436): the domain's lock has been stable again for 4,096 reference cycles. -/
def execClockDomainRelock (d : Domain) (s : State) : Host.Outcome State Fault Refusal :=
  let locked := match (s.dom d).lostAt with
    | some at_ => s.boot.lockTime at_
    | none => false
  fin s [.mem, .cells, .devState, .chain, .boot, .faults] <| if !locked then s else
  let s := s.releaseDom d
  match d with
  | .mem =>
    let s := (List.range 16).foldl State.removePackage s
    { s with mem := { s.mem.clearLpddr with reachable := true } }
  | .sensor => s.endCause .sensor
  | .chain => (s.trainPort 0).trainPort 1
  | _ => s

/-- RELOCK_TIMEOUT (R436). -/
def execRelockTimeout (d : Domain) (s : State) : Host.Outcome State Fault Refusal :=
  let x := s.dom d
  fin s (logParts ++ [.boot]) <| match x.lostAt with
  | none => s
  | some at_ =>
    if x.late ∨ s.boot.aon < at_ + 10 * cycMs then s else
    let s := s.setDom d { x with late := true }
    if d = .sensor then s.addCause .sensor 0x0A 4 else s

/-- MEM_REWRITE_DONE (R436). -/
def execMemRewriteDone (s : State) : Host.Outcome State Fault Refusal :=
  fin s [.dev, .faults] <| if s.mem.reachable then s.endCause .mem else s

/-! ### Option load and boot (R400 to R410) -/

/-- The resistances of the CFG_STRAP values 0 to 14 in ohms; value 15 is open (R401). -/
def strapOhms : List Nat :=
  [0, 1000, 2200, 3300, 4700, 6800, 10000, 15000, 22000, 33000, 47000, 68000, 100000, 150000, 220000]

/-- The strap value of a resistance, decided at the geometric means of neighbouring resistances (R400). Between 0 Ω and 1.0 kΩ,
between 220 kΩ and open, and at a mean itself, it is one of the two: the `k`-th free value tells which. -/
def strapOf (k : Nat) : Option Nat → Nat
  | none => 15
  | some r =>
    let either := Config.freeNat k % 2
    if r = 0 then 0
    else if r < 1000 then either
    else if 220000 < r then 14 + either
    else
      let above := (List.range 14).filter fun i => 1 ≤ i && decide (strapOhms[i]! * strapOhms[i + 1]! < r * r)
      let level := (List.range 14).any fun i => 1 ≤ i && decide (strapOhms[i]! * strapOhms[i + 1]! = r * r)
      1 + above.length + (if level then either else 0)

/-- A field of the OTP cannot be decided: of one of its bits, two of the three copies do not read (R402). -/
def otpLost (lost : List (OtpField × Nat × Fin 3)) : Bool :=
  lost.any fun x => lost.any fun y => x.1 == y.1 && x.2.1 == y.2.1 && x.2.2 != y.2.2

/-- A strap value takes effect (R400 to R402), and KEEPER_BOOT begins; to read the boot flash the keeper sets it to 8D-8D-8D
mode (R405). The watchdog of a device that boots over the chain waits
for the image's first flit (R395). -/
def State.takeStrap (s : State) (strap : BitVec 4) (corrupt : Bool) : State :=
  let lead := !strap.getLsbD 1
  let on := lead || !strap.getLsbD 2
  let chainBoot := !lead && strap.getLsbD 0
  let b := if on then s.boot else s.boot.linkLost
  { s with
    dev := { s.dev with state := .keeperBoot, from_ := .optionLoad }
    boot := { b with
      strap := strap, member := !lead, chainBoot := chainBoot, serviceOn := on, watchdogOn := !strap.getLsbD 3
      strapIgnored := lead && (strap.getLsbD 0 || strap.getLsbD 2), otpCorrupt := corrupt
      octal := !chainBoot, wdFrom := if chainBoot then none else b.wdFrom } }

/-- OPTION_LOAD_DONE (R398, R400 to R402): the strap takes effect, the ports train, KEEPER_BOOT begins. -/
def execOptionLoadDone (ohms : Option Nat) (lost : List (OtpField × Nat × Fin 3)) (s : State) :
    Host.Outcome State Fault Refusal :=
  fin s [.devState, .chain, .boot, .free] <| if s.dev.state ≠ .optionLoad then s else
  let (k, s) := s.take 1
  ((s.takeStrap (BitVec.ofNat 4 (strapOf k ohms)) (otpLost lost)).trainPort 0).trainPort 1

/-! ### Images (R406 to R408) -/

/-- Bytes of an image; where nothing has been written flash is erased (log entry 5). -/
def imgSlice (b : List Byte) (at_ n : Nat) : List Byte :=
  let x := (b.drop at_).take n
  x ++ List.replicate (n - x.length) 0xFF

/-- Word of an image header (R407). -/
def imgWord (b : List Byte) (k : Nat) : Word := wd (leNat (imgSlice b (8 * k) 8))

/-- Fields of an image header (R407). -/
def imgRoot (b : List Byte) : Nat := bits (imgWord b 0) 9 8
def imgRollback (b : List Byte) : Nat := bits (imgWord b 0) 6 0
def imgBody (b : List Byte) : Nat := (imgWord b 2).toNat
def imgChunkLog (b : List Byte) : Nat := bits (imgWord b 3) 37 32
def imgChunks (b : List Byte) : Nat := bits (imgWord b 3) 23 0
def imgOfs (b : List Byte) : Nat := (imgWord b 4).toNat

/-- Bytes of the signed region: header, key record and chunk table (R406). -/
def imgSigned (b : List Byte) : List Byte := imgSlice b 0 (288 + 48 * imgChunks b)

/-- Bytes of an image from its start to its end: the body's, or the signatures' where they end later (R406). -/
def imgBytes (b : List Byte) : Nat := max (imgOfs b + imgBody b) (288 + 48 * imgChunks b + 96 + 1744)

/-- The 48 bytes of a SHA-384 digest, first byte first. -/
def digestBytes (d : BitVec 384) : List Byte := beBytes 48 d.toNat

/-- Step 5 of R408: the ECDSA signature, r then s, over the SHA-384 of the signed region verifies with the key record's public key
of 97 bytes. -/
def ecdsaOk (b : List Byte) : Bool :=
  ecdsaVerify (imgSlice b 128 97) (sha384 (imgSigned b)).toNat (imgSlice b (288 + 48 * imgChunks b) 96)

/-- Step 6 of R408: the LMS signature of 1,740 bytes over the signed region verifies with the key record's public key of 48 bytes. -/
def lmsOk (b : List Byte) : Bool :=
  lmsVerify (imgSlice b 225 48) (imgSigned b) (imgSlice b (288 + 48 * imgChunks b + 96) 1740)

/-- Step 7 of R408: every chunk's SHA-384 equals its table entry. Chunk k covers the body from k × 2^CHUNK_LOG on, the last to
its end (R406). -/
def chunksOk (b : List Byte) : Bool :=
  (List.range (imgChunks b)).all fun k =>
    let at_ := k * 2 ^ imgChunkLog b
    imgSlice b (288 + 48 * k) 48 ==
      digestBytes (sha384 (imgSlice b (imgOfs b + at_) (min (2 ^ imgChunkLog b) (imgBody b - at_))))

/-- Verification of R408, with or without step 7: the error code, 0 where it passes. `typ` is 1 for firmware, 2 for a package. -/
def Otp.verify (o : Otp) (typ : Nat) (b : List Byte) (chunks : Bool) : Nat :=
  let w := imgWord b 0
  let slot := imgRoot b
  let role := if typ = 1 then decide (slot < 2) else decide (2 ≤ slot)
  if bits w 63 32 ≠ 0x53564346 ∨ bits w 31 24 ≠ 1 ∨ bits w 23 16 ≠ typ then 1
  else if ¬ (sha384 (imgSlice b 128 160) == at_ o.keyHash slot 0 && o.programmed.getLsbD slot && role) then 2
  else if o.revoked.getLsbD slot then 3
  else if imgRollback b < o.rollback then 4
  else if ¬ ecdsaOk b then 5
  else if ¬ lmsOk b then 6
  else if chunks ∧ ¬ chunksOk b then 7
  else 0

/-- The firmware that an image becomes, its body copied into keeper-local SRAM (R409, R416). -/
def imgFirmware (b : List Byte) (slot : Nat) : Firmware :=
  { version := imgWord b 1, rootSlot := imgRoot b, rollback := imgRollback b, digest := sha384 (imgSigned b), slot := slot
    body := (b.drop (imgOfs b)).take (imgBody b) }

/-- Bytes of a slot, and the flash offset at which slot `k` begins (R405). -/
def slotBytes : Nat := 0x800000
def slotBase (k : Nat) : Nat := 0x100000 + k * slotBytes

/-- What flash holds from an offset to the end of the slot that the offset lies in: the V7F reads no other part (R405). -/
def Boot.flashFrom (b : Boot) (ofs : Nat) : List Byte :=
  if ofs < slotBase 0 ∨ slotBase 2 ≤ ofs then []
  else
    let k := (ofs - slotBase 0) / slotBytes
    ((at_ b.flash k []).take slotBytes).drop (ofs - slotBase k)

/-- The image in a slot. -/
def Boot.image (b : Boot) (k : Nat) : List Byte := b.flashFrom (slotBase k)

/-- The boot flash after an agent outside has written slots (R409). -/
def Boot.rewritten (b : Boot) (ext0 ext1 : Option (List Byte)) : Boot :=
  { b with flash := #v[(ext0.getD b.flash[0]).take slotBytes, (ext1.getD b.flash[1]).take slotBytes] }

/-- The slots in the order of R409: descending VERSION as their headers read, slot 0 first when equal. -/
def Boot.order (b : Boot) : List Nat :=
  if (imgWord (b.image 0) 1).toNat < (imgWord (b.image 1) 1).toNat then [1, 0] else [0, 1]

/-- What boot finds: the firmware to run, and the errors of slots 0 and 1 (R409, R410). -/
def Boot.choose (b : Boot) : Option Firmware × Nat × Nat :=
  if b.otpCorrupt then (none, 8, 8)
  else if b.chainBoot then
    let e := b.otp.verify 1 b.chainBytes true
    if e = 0 then (some (imgFirmware b.chainBytes 0), 0, 10) else (none, e, 10)
  else
    let err := fun (k : Nat) => b.otp.verify 1 (b.image k) true
    match b.order with
    | a :: c :: _ =>
      let pair := fun (x y : Nat) => if a = 0 then (x, y) else (y, x)
      if err a = 0 then (some (imgFirmware (b.image a) a), pair 0 10)
      else if err c = 0 then (some (imgFirmware (b.image c) c), pair (err a) 0)
      else (none, pair (err a) (err c))
    | _ => (none, 10, 10)

/-- A near-SRAM bank fails in the boot's self-test: the spare bank of its quadrant serves it, or it is kept (R425, R426). -/
def State.bootBank (s : State) (n : Nat) : State :=
  if s.faults.bankSpareGone.getLsbD (n / 16) ∨ 64 ≤ n then s.spareBank n else
  let s := { s with faults := { s.faults with
    bankSubst := s.faults.bankSubst ||| BitVec.ofNat 64 (2 ^ n)
    bankSpareGone := s.faults.bankSpareGone ||| BitVec.ofNat 4 (2 ^ (n / 16)) } }
  (s.log 0x06 1 n 0 (nearBase n 0 0) 0).wearHalf 0x06 n (popN 4 s.faults.bankSpareGone.toNat) 4

/-- A chain lane fails in the boot's self-test: the spare of its direction serves it at once (R377, R425). -/
def State.bootLane (s : State) (n : Nat) : State :=
  let t := s.chainLaneFails (n / 16) 0 (n % 16) 0
  match t.faults.queue.find? fun q => q.cls == 4 && q.unit == n with
  | some q => { t with faults := { t.faults with queue := t.faults.queue.erase q } }.switchChainLane q true
  | none => t

/-- The self-test of KEEPER_BOOT replaces or retires a unit (R425). In a full reset every row of LPDDR5X is read back as well
(R432). -/
def State.bootTest (full : Bool) (s : State) (u : UnitId) : State :=
  let n := u.unit.toNat
  let da := u.addr.toNat
  match u.cls.toNat with
  | 1 => s.coreFails n
  | 2 => if s.works n then s.switchTile n true else s
  | 3 => if n = 16 then s.spareLaneFails else if s.faults.laneIn.getLsbD n then s.switchLane n true else s
  | 4 => if n < 32 ∧ n % 16 ≤ 8 then s.bootLane n else s
  | 5 => if place s.boot.otp.part128 da = .near then s.spareNearRow (nearOf da).1 (nearOf da).2.1 (nearOf da).2.2 else s
  | 6 => s.bootBank n
  | 7 => s.spareKeeperRow n
  | 8 =>
    if full ∧ s.mem.reachable ∧ (place s.boot.otp.part128 da = .lpddr ∨ place s.boot.otp.part128 da = .reserve) then s.repairRow da
    else s
  | 9 =>
    if 7 ≤ n then s else
    let s := ({ s with faults := { s.faults with engines := s.faults.engines &&& ~~~ BitVec.ofNat 7 (2 ^ n) } }).log 0x09 2 n 0 0 0
    if n = 0 then s.addCause .pointCloud 0x09 0 else s
  | _ => s

/-- The mailboxes open (R352, R359, R395): held RING writes are served in ascending channel. -/
def State.openMail (s : State) : State :=
  (List.range 32).foldl State.serveHeld { s with boot := { s.boot with openAt := s.boot.aon } }

/-- Boot fails: FAULT_HALT from KEEPER_BOOT, in which the boot ROM serves (R409). -/
def State.bootFails (s : State) (e0 e1 : Nat) : State :=
  let s := { s with boot := { s.boot with slot0Error := BitVec.ofNat 4 e0, slot1Error := BitVec.ofNat 4 e1, romServes := true } }
  (s.changeState .faultHalt).openMail

/-- The device keys that the keeper derives from the secrets (R416). -/
def Otp.deviceKeys (o : Otp) : DevKeys :=
  { ecdsa := 1 + Config.ecdsaScalar o.secrets % (n384 - 1), lmsId := Config.lmsId o.secrets, seed := o.secrets }

/-- KEEPER_BOOT_DONE (R376, R390, R398, R399, R409, R410, R425): a slot that an outside agent has written since holds its
bytes.
Ages that run on the counter start here. A domain that is still out of lock holds its fog cause (R436, R437). -/
def execKeeperBootDone (ext0 ext1 : Option (List Byte)) (failed : List UnitId) (s : State) :
    Host.Outcome State Fault Refusal :=
  let b := s.boot.rewritten ext0 ext1
  fin s (unitParts ++ [.chars, .ll, .tiles, .layout, .solver, .cells, .devState, .boot]) <| if s.dev.state ≠ .keeperBoot ∨ (b.chainBoot ∧ ¬ b.otpCorrupt ∧ ¬ b.chainWhole) then s else
  let s := { s with boot := b }
  match b.choose with
  | (none, e0, e1) => s.bootFails e0 e1
  | (some f, e0, e1) =>
    let now := s.time.counter
    let m := if b.clearLpddr then s.mem.clearLpddr else s.mem
    let s := { s with
      boot := { b with fw := some f, slot := f.slot, slot0Error := BitVec.ofNat 4 e0, slot1Error := BitVec.ofNat 4 e1
                       clearLpddr := false, devKeys := some b.otp.deviceKeys }
      mem := { m with asleep := 0, lastLpddr := now }
      tiles := { s.tiles with katAt := Vector.replicate 64 now }
      solver := { s.solver with katAt := Vector.replicate 17 now }
      faults := { s.faults with wearAt := now, pprHard := s.faults.pprUsed }
      budget := { s.budget with windowAt := now, windowMs := s.time.line / ms48 } }
    let s := failed.foldl (State.bootTest b.clearLpddr) s
    let s := if s.mem.reachable then s else s.addCause .mem 0x0A 1
    let s := if (s.dom .sensor).late then s.addCause .sensor 0x0A 4 else s
    let s := (s.changeState .standby).openMail.sendImage
    if s.lanes == 0 then s.enterHalt 0x03 0 else s

/-- FLASH_TIMEOUT (R409): a read of one slot does not complete. Both headers are read before a slot is tried; a slot tried
before keeps its error, any other was not tried. A slot that an outside agent has written since holds its bytes. -/
def execFlashTimeout (r : FlashRead) (s : State) : Host.Outcome State Fault Refusal :=
  let b := s.boot.rewritten r.ext0 r.ext1
  fin s (noteParts ++ [.devState, .boot]) <| if s.dev.state ≠ .keeperBoot ∨ b.chainBoot ∨ b.otpCorrupt then s else
  let e := b.otp.verify 1 (b.image (1 - r.slot.val)) true
  let other := if r.header ∨ b.order.headD 0 = r.slot.val ∨ e = 0 then 10 else e
  let s := { s with boot := b }
  if r.slot.val = 0 then s.bootFails 9 other else s.bootFails other 9

/-- CHAIN_BOOT_IMAGE (R395, R410): the image comes in CONTROL flits; the first starts the boot watchdog. -/
def execChainBootImage (part : ImagePart) (s : State) : Host.Outcome State Fault Refusal :=
  let b := s.boot
  fin s [.boot, .pm] <| if s.dev.state = .keeperBoot ∧ b.chainBoot ∧ s.portUp 0 ∧ ¬ b.chainWhole then
    { s.recvFlits 0 (flitsOf part.bs.length) with boot := { b with
      chainBytes := b.chainBytes ++ part.bs, chainWhole := part.last
      wdFrom := if b.wdFrom.isNone then some b.aon else b.wdFrom } }
  else s

/-! ### The service-port link (R352, R392) -/

/-- SVC_LINK_RESET (R392): a hot reset or a link that goes down resets the port's configuration space and nothing else; BAR0
answers again once the link is up. -/
def execSvcLinkReset (s : State) : Host.Outcome State Fault Refusal := fin s [.boot] { s with boot := s.boot.linkLost }

/-- SERVICE_PORT_LINK_UP (R351, R352, R401): the link trains at 1, 2 or 4 lanes and at one of five speeds, 1 to 5 for 2.5 to
32 GT/s; at which of them is free (log entry 98). -/
def execServicePortLinkUp (s : State) : Host.Outcome State Fault Refusal :=
  fin s [.boot, .free] <|
  if (s.dom .svc).up ∧ (s.dev.state.code < 2 ∨ s.boot.serviceOn) then
    let (k, s) := s.take 2
    { s with boot := { s.boot with linkUp := true, svc := { s.boot.svc with
        width := at_ #v[1, 2, 4] (Config.freeNat k % 3) 1, speed := Config.freeNat (k + 1) % 5 + 1 } } }
  else s

end Sys2Proof.Machine
end

