-- ==== Sys2Proof/Machine/Security.lean ====
section
/-! DEFINITION. Packages, firmware update and attestation: the security messages (R411 to R422). -/
namespace Sys2Proof.Machine

/-- SC_EVENT (R421, R422). -/
def State.scEvent (s : State) (ev index value : Nat) : State := s.event 0xAF0 (pack [(index, 11, 8), (ev, 7, 0)]) (wd value)

/-- A valid region entry with RD covers a range. -/
def coversRd (w0 w2 : Word) (va n : Nat) : Bool :=
  bit w0 63 && bit w0 62 && decide (bits w0 47 0 ≤ va ∧ va + n ≤ bits w0 47 0 + regionSize w0 w2)

/-- Set RD, WR and LS of a region entry. -/
def State.setPerms (s : State) (i : Nat) (rd wr ls : Bool) : State :=
  match look s.mem.regions i with
  | none => s
  | some (w0, w1, w2) =>
    let w0 := pack [(bits w0 63 63, 63, 63), (b2n rd, 62, 62), (b2n wr, 61, 61), (b2n ls, 60, 60), (bits w0 59 0, 59, 0)]
    { s with mem := { s.mem with regions := insertKey s.mem.regions i (w0, w1, w2) } }

/-- SC_INSTALL (R414, R421): the range must hold the header, and then the image that the header describes. From its beginning
on no unit reaches the range; the completion waits for the security engine, which takes the given keeper cycles. -/
def scInstall (cycles : Nat) (c : Cmd) (s : State) : Ans :=
  let w := wAt c.words 0
  let i := bits w 3 0
  let region := bits w 25 16
  let va := bits (wAt c.words 1) 47 0
  let held := at_ s.boot.packages i none
  if bit w 63 then stateCheck held.isSome (ok (s.removePackage i)) else
  stateCheck held.isNone <|
  match look s.mem.regions region with
  | none => badArg 0
  | some (w0, _, w2) =>
    checked [(0, coversRd w0 w2 va 128)] <|
    match s.keeperRead va 128 with
    | (none, t) => .ok (t, { status := 7 })
    | (some bs, t) =>
      checked [(0, coversRd w0 w2 va (imgBytes bs))] <|
      let t := t.setPerms region false false false
      .ok ({ t with boot := { t.boot with job := some (.install i region va (bit w0 62) (bit w0 61) (bit w0 60)) } },
        { wait := .engine (s.time.counter + cycles) })
def execScInstall (ch : Fin 33) (cycles : Nat) (s : State) : Host.Outcome State Fault Refusal :=
  fin s (ansParts ++ [.mem, .boot, .faults]) (s.serve ch 0xA00 2 (scInstall cycles))

/-- The security engine's read of a closed range, with FIRMWARE privilege (R350, R414). -/
def State.engineRead (s : State) (region va n : Nat) : Option (List Byte) × State :=
  let (r, t) := (s.setPerms region true false false).keeperRead va n
  (r, t.setPerms region false false false)

/-- The end of an installation (R408, R414): the state, the completion's status and its error words. -/
def State.endInstall (s : State) (i region va : Nat) (rd wr ls : Bool) : State × Nat × List Word :=
  let undo := fun (t : State) => t.setPerms region rd wr ls
  match s.engineRead region va 128 with
  | (none, t) => (undo t, 7, [])
  | (some head, t) =>
    match t.engineRead region va (imgBytes head) with
    | (none, t) => (undo t, 7, [])
    | (some b, t) =>
      let e := t.boot.otp.verify 2 b true
      if e ≠ 0 then ((undo t).scEvent 2 i e, 6, [wd e]) else
      let p : Package := { id := imgWord b 5, version := imgWord b 1, region := region, va := va, rootSlot := imgRoot b
                           rollback := imgRollback b, digest := sha384 (imgSigned b), bytes := imgBytes b, rd := rd, wr := wr, ls := ls }
      let t := t.setPerms region true false true
      (({ t with boot := { t.boot with packages := put t.boot.packages i (some p) } }).scEvent 1 i 0, 0, [])

/-- SC_GET_PACKAGES (R421). -/
def scGetPackages (_ : Cmd) (s : State) : Ans :=
  let ps := s.boot.packages.toList
  let mask := ps.zipIdx.foldl (fun a p => a + b2n p.1.isSome * 2 ^ p.2) 0
  okWith s (wd mask :: (ps.map fun (p : Option Package) => match p with
    | some q => [q.id, q.version, pack [(q.region, 57, 48), (q.va, 47, 0)]]
    | none => [0, 0, 0]).flatten)
def execScGetPackages (ch : Fin 33) (s : State) : Host.Outcome State Fault Refusal :=
  fin s ansParts (s.serve ch 0xA01 0 scGetPackages)

/-- SC_UPDATE_FIRMWARE (R415): once steps 1 to 6 have passed, the slot that is not running is erased; the completion waits until
the image is written, at most 60 s. -/
def scUpdateFirmware (cycles : Nat) (damage : List (Nat × Byte)) (c : Cmd) (s : State) : Ans :=
  let va := bits (wAt c.words 0) 47 0
  let fw : Firmware := s.boot.fw.getD { version := 0, rootSlot := 0, rollback := 0, digest := 0, slot := 0 }
  match s.keeperRead va 128 with
  | (none, t) => .ok (t, { status := 7 })
  | (some head, t) =>
    checked [(0, decide (fw.version.toNat < (imgWord head 1).toNat))] <|
    match t.keeperRead va (imgBytes head) with
    | (none, t) => .ok (t, { status := 7 })
    | (some b, t) =>
      let e := t.boot.otp.verify 1 b false
      if e ≠ 0 then .ok (t, { status := 6, resp := [wd e] })
      else
        .ok ({ t with boot := { t.boot with
          flash := put t.boot.flash (1 - fw.slot) [], job := some (.update (1 - fw.slot) b damage) } },
          { wait := .engine (s.time.counter + min cycles (60 * cycSec)) })
def execScUpdateFirmware (ch : Fin 33) (cycles : Nat) (damage : List (Nat × Byte)) (s : State) : Host.Outcome State Fault Refusal :=
  fin s (ansParts ++ [.mem, .boot, .faults]) (s.serve ch 0xA02 1 (scUpdateFirmware cycles damage))

/-- The end of an update (R405, R415): the slot of 8 MiB holds the image, as far as flash took it; step 7 is checked on what it
holds. -/
def State.endUpdate (s : State) (slot : Nat) (image : List Byte) (damage : List (Nat × Byte)) : State × Nat × List Word :=
  let b := damage.foldl (fun b d => b.set d.1 d.2) (image.take slotBytes)
  let t := { s with boot := { s.boot with flash := put s.boot.flash slot b, octal := true } }
  if chunksOk b then (t.scEvent 3 0 0, 0, []) else (t, 7, [7])

/-- The security engine has ended its work (R414, R415): the state, the completion's status and its error words. -/
def State.endJob (s : State) : State × Nat × List Word :=
  let t := { s with boot := { s.boot with job := none } }
  match s.boot.job with
  | none => (s, 0, [])
  | some (.install i region va rd wr ls) => t.endInstall i region va rd wr ls
  | some (.update slot image damage) => t.endUpdate slot image damage

/-- The waiting command of a channel with what the security engine answers; its notification follows its completion. -/
def State.engineAnswer (s : State) (i : Nat) (a : Await) : State :=
  let (t, status, resp) := ({ s with criser := { s.criser with hold := some [] } }).endJob
  let t := t.release a.cmd
  t.setChan i { t.chan i with await := some { a with status := BitVec.ofNat 8 status, resp := resp, wait := .room } }

/-- The waiting command of a channel with what the chain brings once the downstream port has trained (R377 to R379). -/
def State.chainAnswer (s : State) (i : Nat) (a : Await) (j : ChainJob) : State :=
  let (t, status, resp) := s.endChainJob j
  t.setChan i { t.chan i with await := some { a with status := BitVec.ofNat 8 status, resp := resp, wait := .room } }

/-- CRISER_COMPLETION (R360): a completion that waited is written once its wait has ended and it fits. The work of
the security engine (R414, R415), and what a retrain held up (R377), ends with it. -/
def execCriserCompletion (ch : Fin 33) (s : State) : Host.Outcome State Fault Refusal :=
  let i := ch.val
  let s0 := s
  let s := match (s.chan i).await with
    | some a =>
      if !s.keeperUp then s
      else match a.wait with
        | .engine _ => if s.engineDone a.wait then s.engineAnswer i a else s
        | .chain j => if s.waitOver a.wait then s.chainAnswer i a j else s
        | _ => s
    | none => s
  let outbox : State :=
    match (s.chan i).outbox with
    | [] => s
    | a :: r => match (s.setChan i { s.chan i with outbox := r }).sendCompletion i a with
      | some t => t
      | none => s
  fin s0 (ansParts ++ [.mem, .boot, .faults]) <| if !s.keeperUp then s else match (s.chan i).await with
  | none => outbox
  | some a => if s.waitOver a.wait && (s.sendCompletion i a).isSome then s.complete i a else outbox

/-- ROOTS (R416). -/
def Otp.roots (o : Otp) : Nat :=
  (List.range 4).foldl (fun a i => a + (b2n (o.programmed.getLsbD i) + 2 * b2n (o.revoked.getLsbD i)) * 4 ^ i) 0

/-- The 6 words of a SHA-384 digest. -/
def digestWords (d : BitVec 384) : List Word := bytesWords 6 (digestBytes d)

/-- Words w0 to w21 of the attestation report (R416). -/
def State.reportBody (s : State) (nonce : List Word) (leaf : Nat) : List Word :=
  let b := s.boot
  let ps := b.packages.toList.zipIdx.filterMap fun p => p.1.map fun (q : Package) => (p.2, q.digest)
  let pkg := (ps.map fun p => BitVec.ofNat 8 p.1 :: digestBytes p.2).flatten
  let fw : Firmware := b.fw.getD { version := 0, rootSlot := 0, rollback := 0, digest := 0, slot := 0 }
  [pack [(1, 63, 56), (s.dev.state.code, 51, 48), (b.cause.toNat, 47, 44), (b2n b.warm, 40, 40), (b2n b.otp.part128, 36, 36),
      (b.otp.rollback, 30, 24), (b.otp.roots, 23, 16), (s.chain.number.toNat, 15, 0)],
    b.otp.serial, fw.version] ++ digestWords fw.digest ++ digestWords (sha384 pkg) ++
  [wAt nonce 0, wAt nonce 1, wAt nonce 2, wAt nonce 3] ++ s.now.words ++ [pack [(ps.length, 36, 32), (leaf, 19, 0)]]

/-- Words w22 to w251 of the attestation report (R416): the ECDSA and the LMS signature of its other bytes, and 4 bytes of 0. -/
def DevKeys.sign (k : DevKeys) (leaf : Nat) (msg : List Byte) : List Word :=
  let bytes24 := fun (x : BitVec 192) => beBytes 24 x.toNat
  bytesWords 12 (ecdsaSign k.ecdsa (sha384 msg).toNat) ++
  bytesWords 218 (lmsSign (beBytes 16 k.lmsId.toNat) (fun q i => bytes24 (Config.lmsElement k.seed q i)) leaf
    (bytes24 (Config.lmsRandomizer k.seed leaf)) msg ++ List.replicate 4 0)

/-- SC_ATTEST (R416 to R418). -/
def scAttest (c : Cmd) (s : State) : Ans :=
  let b := s.boot
  let burn := !b.blockOpen || decide (1024 ≤ b.nextLeaf)
  if burn ∧ 1024 ≤ b.otp.blocks then
    let t := if b.exhaustedSent then s
      else ({ s with boot := { b with exhaustedSent := true } }).scEvent 6 0 0
    .ok (t, { status := 3, resp := [1] })
  else
    let blocks := if burn then b.otp.blocks + 1 else b.otp.blocks
    let next := if burn then 0 else b.nextLeaf
    let leaf := 1024 * (blocks - 1) + next
    let s := { s with boot := { b with otp := { b.otp with blocks := blocks }, blockOpen := true, nextLeaf := next + 1
                                       reports := sat32 (b.reports + 1) } }
    let body := s.reportBody c.words leaf
    okWith s (body ++ (b.devKeys.getD b.otp.deviceKeys).sign leaf (wordBytes body))
def execScAttest (ch : Fin 33) (s : State) : Host.Outcome State Fault Refusal :=
  fin s (ansParts ++ [.boot, .otp]) (s.serve ch 0xA10 4 scAttest)

/-- SC_REVOKE_ROOT (R412). -/
def scRevokeRoot (c : Cmd) (s : State) : Ans :=
  let i := bits (wAt c.words 0) 1 0
  let o := s.boot.otp
  checked [(0, o.programmed.getLsbD i)] <|
  match s.boot.fw with
  | some f => if f.rootSlot = i then denied
    else ok (({ s with boot := { s.boot with otp := { o with revoked := o.revoked ||| BitVec.ofNat 4 (2 ^ i) } } }).scEvent 4 0 i)
  | none => denied
def execScRevokeRoot (ch : Fin 33) (s : State) : Host.Outcome State Fault Refusal :=
  fin s (ansParts ++ [.otp]) (s.serve ch 0xA20 1 scRevokeRoot)

/-- SC_ADVANCE_ROLLBACK (R413). -/
def scAdvanceRollback (c : Cmd) (s : State) : Ans :=
  let v := bits (wAt c.words 0) 6 0
  let o := s.boot.otp
  let most := match s.boot.fw with
    | some f => f.rollback
    | none => 0
  checked [(0, decide (1 ≤ v ∧ v ≤ 64 ∧ o.rollback < v ∧ v ≤ most))] <|
  ok (({ s with boot := { s.boot with otp := { o with rollback := v } } }).scEvent 5 0 v)
def execScAdvanceRollback (ch : Fin 33) (s : State) : Host.Outcome State Fault Refusal :=
  fin s (ansParts ++ [.otp]) (s.serve ch 0xA21 1 scAdvanceRollback)

/-- SC_GET_STATUS (R421). -/
def scGetStatus (_ : Cmd) (s : State) : Ans :=
  let b := s.boot
  let fw : Firmware := b.fw.getD { version := 0, rootSlot := 0, rollback := 0, digest := 0, slot := 0 }
  let left := (1024 - b.otp.blocks) * 1024 + (if b.blockOpen then 1024 - b.nextLeaf else 0)
  okWith s [pack [(b.otp.rollback, 30, 24), (b.otp.roots, 23, 16), (fw.rootSlot, 9, 8), (b.slot, 0, 0)], fw.version,
    pack [(b.otp.blocks, 42, 32), (left, 20, 0)], pack [(b.reports, 31, 0)]]
def execScGetStatus (ch : Fin 33) (s : State) : Host.Outcome State Fault Refusal :=
  fin s ansParts (s.serve ch 0xA30 0 scGetStatus)

end Sys2Proof.Machine
end

