-- ==== Sys2Proof/Machine/Counters.lean ====
section
/-! DEFINITION. Performance counters, sampling and the collector (ch. 18). -/
namespace Sys2Proof.Machine

/-- Events of a tile's list (R449). -/
def tileEvent (e : Nat) : Bool := decide (0x10 ≤ e ∧ e ≤ 0x16)

/-- Events of the list of a block (R449). -/
def blockEvent (b e : Nat) : Bool :=
  let r := fun (x y : Nat) => decide (x ≤ e ∧ e ≤ y)
  if b < 16 then r 0x20 0x25 else if b = 16 then r 0x30 0x37 else if b = 17 then r 0x40 0x47 else if b = 18 then r 0x50 0x56
  else if b = 19 then r 0x60 0x65 else if b = 20 then r 0x68 0x6A else if b < 25 then r 0x70 0x76 else if b < 29 then r 0x78 0x7B
  else if b < 31 then r 0x80 0x86 else if b = 31 then r 0x90 0x95 else if b = 32 then r 0x98 0x9C else r 0xA0 0xA5

/-- A counter may count an event (R449). -/
def eventOk (i e : Nat) : Bool := decide (e ≤ 1) || (if i < 272 then tileEvent e else blockEvent ((i - 272) / 8) e)

/-- Events that the operands of ARRAY_CYCLE_COUNT name: those of conditions that the state does not decide, and the row misses
and turnarounds of LPDDR5X, whose occurrence follows from the order of accesses at the controller (log entry 88). -/
def cycleEvents : List Nat :=
  [0x10, 0x11, 0x12, 0x15, 0x63, 0x72, 0x73, 0x74, 0x7A, 0x7B, 0x80, 0x81, 0x82, 0x83, 0x84]

/-- The group of the position that a tile serves: its own, or that of the tile it replaces. -/
def State.groupOfTile (s : State) (tile : Nat) : Option Nat :=
  if tile < 64 then some (tile / 4) else (s.spareUnit (4 * tile)).map (·.2.1)

/-- A list runs at a sequencer, and its run there is as said. -/
def State.runsAt (s : State) (target group : Nat) (p : Run → Bool) : Bool :=
  s.dev.launches.any fun l => (l.runOn target group).any fun r => r.status == .running && p r

/-- Blocks and events of conditions that the state decides (R449): a sequencer at a barrier, an engine with a list running, sixteen
channels asleep, a queue whose flag is asserted (log entry 88). -/
def State.blockConds (s : State) : List (Nat × Nat) :=
  ((List.range 16).filter fun g => s.runsAt g g (·.atBarrier)).map (fun g => (g, 0x23)) ++
  ([(16, 0x32, 0x21), (17, 0x47, 0x20), (18, 0x56, 0x22), (19, 0x65, 0x23)].filter fun x => s.runsAt x.2.2 16 fun _ => true).map
    (fun x => (x.1, x.2.1)) ++
  ((List.range 4).filter fun j => (List.range 16).all fun k => s.mem.asleep.getLsbD (16 * j + k)).map (fun j => (21 + j, 0x76)) ++
  (if s.iq.toList.any (·.flag) then [(32, 0x9C)] else [])

/-- Tiles whose group is gated count GATED (R449). -/
def State.tileGated (s : State) (tile : Nat) : Bool := (s.groupOfTile tile).any fun g => (at_ s.tiles.groups g {}).gated

/-- What one array cycle adds to the counters (R449): CYCLES, the conditions that the state decides, and those that are named. A
condition counts once; of row misses and turnarounds each of the 16 channels may have one. -/
def State.countCycle (s : State) (conds : List (Nat × Nat)) : State :=
  let u := (List.range 544).foldl (fun u i => u.countOne i 1 1) s
  let u := s.blockConds.foldl (fun u c => u.count c.1 c.2 1) u
  let u := ((List.range 68).filter s.tileGated).foldl (fun u t => u.countTile t 0x13 1) u
  conds.eraseDups.foldl (fun u c =>
    let n := if c.2 = 0x72 ∨ c.2 = 0x73 then min 16 (conds.count c) else 1
    if ¬ cycleEvents.contains c.2 then u
    else if c.1 < 34 then (if blockEvent c.1 c.2 then u.count c.1 c.2 n else u)
    else if c.1 < 102 ∧ tileEvent c.2 then u.countTile (c.1 - 34) c.2 n else u) u

/-- ARRAY_CYCLE_COUNT (R15, R449 to R451): at an array edge, which it counts once. -/
def execArrayCycleCount (conds : List (Nat × Nat)) (s : State) : Host.Outcome State Fault Refusal :=
  let counts := s.dev.state = .standby ∨ s.dev.state = .armed ∨ s.dev.state = .running
  fin s [.pm] <| if ¬ counts ∨ ¬ s.arrayEdge ∨ s.pm.countedAt = some s.time.counter then s else
    { s with pm := { s.pm with countedAt := some s.time.counter } }.countCycle conds

/-! ### The counter windows (R452, R453) -/

/-- A latched counter: WRAPPED and value of an index before the array cycle `now` changed it (R451), 0 above 543. -/
def PmWin.latch (p : Pm) (sel now : Nat) : PmWin :=
  if sel < 544 then
    let (v, w) := (at_ p.ctr sel {}).latched now
    { sel := sel, lo := rg (v % 2 ^ 32), hi := rg (b2n w * 2 ^ 31 + v / 2 ^ 32) }
  else { sel := sel }

/-- A write to PM_SEL. -/
def State.pmSel (s : State) (w : Win) (v : Reg) : State :=
  let x := PmWin.latch s.pm (v.toNat % 1024) (s.time.counter / 4)
  match w with
  | .bar0 => { s with pm := { s.pm with bar0 := x } }
  | .list => { s with pm := { s.pm with list := x } }

/-- BAR0 takes writes to the windows (R352). -/
def State.bar0Takes (s : State) : Win → Bool
  | .bar0 => s.boot.linkUp && s.mailOpen
  | .list => true

/-- PM_SEL_WRITE (R452). -/
def execPmSelWrite (w : Win) (v : Reg) (s : State) : Host.Outcome State Fault Refusal :=
  fin s [.pm] (if s.bar0Takes w then s.pmSel w v else s)

/-- Words of the ring, and words it holds (R457). -/
def Pm.words (p : Pm) : Nat := p.ringBytes / 8
def Pm.fill (p : Pm) : Nat := if p.words = 0 then 0 else (p.wr + 2 * p.words - p.rd % (2 * p.words)) % (2 * p.words)

/-- Memory at a ring that no more holds defined records (R460.2): free bytes. -/
def State.freeRing (s : State) : State := s.freeAt (s.places [(s.pm.ringVa, s.pm.ringBytes)])

/-- RD takes a value: one that stepping forward to WR does not reach leaves the records then read, and the records
dropped, undefined until the next PM_START (R460.2). -/
def State.stepRd (s : State) (v : Reg) : State :=
  let p := s.pm
  let rd := v.toNat % 2 ^ 24
  let good := p.words = 0 || (decide (rd < 2 * p.words) &&
    decide ((rd + 2 * p.words - p.rd % (2 * p.words)) % (2 * p.words) ≤ p.fill))
  if good then { s with pm := { p with rd := rd } }
  else ({ s with pm := { p with rd := rd, strayRd := true } }).freeRing

/-- The write to PM_RING_RD that came through the LIST window in the present array cycle: RD before it, and its value. -/
def State.listRdNow (s : State) : Option (Nat × Reg) :=
  match s.pm.listRd with
  | some (c, rd, v) => if c = s.time.counter / 4 then some (rd, v) else none
  | none => none

/-- A write to PM_RING_RD through a window: in one array cycle the write of BAR0 takes effect before that of LIST (R453). -/
def State.pmRingRd (s : State) (w : Win) (v : Reg) : State :=
  match w, s.listRdNow with
  | .list, x =>
    let rd := match x with
      | some y => y.1
      | none => s.pm.rd
    { s with pm := { s.pm with listRd := some (s.time.counter / 4, rd, v) } }.stepRd v
  | .bar0, none => s.stepRd v
  | .bar0, some (rd, last) => ({ s with pm := { s.pm with rd := rd } }.stepRd v).stepRd last

/-- PM_RING_RD_WRITE (R453). -/
def execPmRingRdWrite (w : Win) (v : Reg) (s : State) : Host.Outcome State Fault Refusal :=
  fin s (logParts ++ [.mem, .cells]) (if s.bar0Takes w then s.pmRingRd w v else s)

/-! ### Records (R455 to R458) -/

/-- Write words at the ring's write pointer, in one or two runs: all of them or none. -/
def ringWrite (p : Pm) (bs : List Byte) : TaskM Unit := do
  let at_ := p.wr % p.words
  let n := min bs.length (8 * (p.words - at_))
  let a ← checkWrite (p.ringVa + 8 * at_) n
  let b ← checkWrite p.ringVa (bs.length - n)
  modify fun s => (s.writeAt a (bs.take n)).writeAt b (bs.drop n)

/-- PM_EVENT RING_FULL, at most once per second (R459). -/
def State.ringFull (s : State) : State :=
  if s.rateOk (0xCF0 * 256 + 2) 0 1 then
    let s := s.eventLimited 0xCF0 2 0 1 (wd 2) (wd s.pm.fullDropped)
    { s with pm := { s.pm with fullDropped := 0 } }
  else s

/-- The ring overlaps a command list or a package, where it stands in memory (R460.1); destinations of launches show when
they are written. -/
def State.ringOverlaps (s : State) : Bool :=
  let ring := [(s.pm.ringVa, s.pm.ringBytes)]
  s.meet ring s.listRuns || runsMeet (s.places ring) (s.packageRuns.map fun x => x.2)

/-- Write a record, or drop it when it does not fit; either uses up one SEQ. A ring fault stops the collector. Into a ring
that overlaps other data go free bytes (R460.1). -/
def State.record (s : State) (ws : List Word) : State :=
  let s := if !s.pm.ringMet && s.ringOverlaps then s.meetRing else s
  let p := s.pm
  let n := ws.length
  let (k, s) := s.take (if p.strayRd || p.ringMet then 8 * n + 1 else 0)
  let fits := if p.strayRd then Config.freeNat k % 2 = 0 else decide (p.fill + n ≤ p.words)
  let seq := (p.seq + 1) % 2 ^ 48
  if fits then
    match (ringWrite p (if p.strayRd || p.ringMet then freeBytes (k + 1) (8 * n) else wordBytes ws)).go s.outsideLaunch with
    | (.ok _, t) =>
      let t := s.keepIdle t
      { t with pm := { t.pm with seq := seq, wr := (p.wr + n) % (2 * p.words) } }
    | (.error _, _) => ({ s with pm := { p with seq := seq } }).stopCollector 2
  else
    ({ s with pm := { p with seq := seq, dropped := sat32 (p.dropped + 1), fullDropped := sat32 (p.fullDropped + 1) } }).ringFull

/-- The record of a latched snapshot (R457). -/
def State.snapRecord (s : State) (when_ values : List Word) : State :=
  { s with pm := { s.pm with snap := none } }.record
    (when_ ++ [pack [(0, 63, 60), (values.length, 54, 48), (s.pm.seq, 47, 0)]] ++ values)

/-- COLLECTOR_SNAPSHOT (R456, R457): the record of the snapshot latched at the last instant is written. The latching itself
comes with the array edge (State.latchSnap). -/
def execCollectorSnapshot (s : State) : Host.Outcome State Fault Refusal :=
  fin s (logParts ++ [.mem, .cells]) <| match s.pm.snap with
  | some (_, w, v) => s.snapRecord w v
  | none => s

/-- TARGET, LIST_VA and COMMAND_VA of a sample (R455): the command in progress when the counter passed, or one up to two later
in the same list, which END closes. The priority level that a keeper counter meets is free. -/
def State.sampleAt (s : State) (i skid : Nat) (r : Raised) : (Nat × Nat × Nat) × State :=
  let b := (i - 272) / 8
  if 272 ≤ i ∧ (b = 29 ∨ b = 30) then
    let (k, s) := s.take 1
    ((0xFF, 0, 1 + Config.freeNat k % 5), s)
  else ((r.target, r.listVa, if r.size = 0 then r.pc else min (r.pc + min skid 2 * r.size) (s.listEnd r.pc r.size - r.size)), s)

/-- The record of a counter's request comes now: not while one of the same array cycle comes before it, the snapshot or the
request of a lower counter (R456). -/
def Pm.turn (p : Pm) (idx : Nat) : Bool :=
  match (at_ p.ctr idx {}).request with
  | none => false
  | some a => !(p.snap.any fun x => x.1 == a.cycle) &&
    !((List.range idx).any fun j => (at_ p.ctr j {}).request.any fun x => x.cycle == a.cycle)

/-- The sample record of a counter's request (R455 to R457). -/
def State.sampleRecord (s : State) (idx skid : Nat) : State :=
  let c := at_ s.pm.ctr idx {}
  match c.request with
  | none => s
  | some r =>
    let s := { s with pm := { s.pm with ctr := put s.pm.ctr idx { c with request := none } } }
    let (loc, s) := s.sampleAt idx skid r
    s.record (s.now.words ++ [pack [(1, 63, 60), (s.pm.seq, 47, 0)], pack [(idx, 57, 48), (loc.1, 7, 0)], pack [(loc.2.1, 47, 0)],
      pack [(loc.2.2, 47, 0)]])

/-- SAMPLE_RECORD (R455 to R457): a keeper pair that works serves the request. -/
def execSampleRecord (idx : Fin 544) (skid : Fin 5) (s : State) : Host.Outcome State Fault Refusal :=
  fin s (logParts ++ [.mem, .cells]) <|
    if s.keeperUp ∧ s.pm.running ∧ s.pm.turn idx.val then s.sampleRecord idx.val skid.val else s

/-! ### Messages (R451, R454, R459) -/

/-- PM_SET (R451, R454, R459). -/
def pmSet (c : Cmd) (s : State) : Ans :=
  let w0 := wAt c.words 0
  let ev := bits w0 23 16
  let i := bits w0 9 0
  let period := bits (wAt c.words 1) 47 0
  checked [(0, decide (i < 544)), (0, eventOk i ev), (1, period = 0 || decide (1024 ≤ period ∧ period ≤ 2 ^ 47))] <|
  let b := at_ s.pm.ctr i {}
  let x : Counter := { event := BitVec.ofNat 8 ev, period := period, value := if period = 0 then 0 else 2 ^ 48 - period
                       request := b.request, old := b.before (s.time.counter / 4) }
  ok { s with pm := { s.pm with ctr := put s.pm.ctr i x } }
def execPmSet (ch : Fin 33) (s : State) : Host.Outcome State Fault Refusal := fin s ansParts (s.serve ch 0xC00 2 pmSet)

/-- Every page of a range is mapped with a permission (R336). -/
def State.mapped (s : State) (va n : Nat) (need : Need) : Bool :=
  (split4k va n).all fun p => match s.translate p.1 need with
    | .ok _ => true
    | .error _ => false

/-- PM_START (R456, R459). WR and RD start at 0. -/
def pmStart (c : Cmd) (s : State) : Ans :=
  let w0 := wAt c.words 0
  let n := bits w0 38 32
  let us := bits w0 19 0
  let va := bits (wAt c.words 1) 47 0
  let bytes := bits (wAt c.words 2) 31 0
  let item := fun (k : Nat) => bits (wAt c.words (3 + k / 4)) (16 * (k % 4) + 9) (16 * (k % 4))
  checked ([(0, decide (n ≤ 64)), (0, decide (10 ≤ us ∧ us ≤ 1000000) && 1000000 % us == 0), (1, va % 4096 = 0),
    (1, s.pm.running || s.mapped va bytes .wr),
    (2, decide (4096 ≤ bytes ∧ bytes ≤ 67108864) && bytes % 4096 == 0)] ++
    (List.range (min n 64)).map fun k => (3 + k / 4, decide (item k < 544))) <|
  stateCheck (!s.pm.running) <|
  ok { s with pm := { s.pm with
    running := true, intervalUs := us, items := (List.range n).map item, ringVa := va, ringBytes := bytes
    wr := 0, rd := 0, strayRd := false, ringMet := false, seq := 0, snap := none, listRd := none, edgeLine := some s.time.line } }
def execPmStart (ch : Fin 33) (s : State) : Host.Outcome State Fault Refusal :=
  fin s ansParts (s.serve ch 0xC01 19 pmStart)

/-- The sample records of the requests that wait, in ascending counter index, each of a location up to two commands on. -/
def State.lastSamples (s : State) : State :=
  (List.range 544).foldl (fun s i =>
    if !s.pm.running || (at_ s.pm.ctr i {}).request.isNone then s else
    let (k, s) := s.take 1
    s.sampleRecord i (Config.freeNat k % 3)) s

/-- PM_STOP (R459): what has been latched is written first, a snapshot and then the samples. -/
def pmStop (_ : Cmd) (s : State) : Ans :=
  if ¬ s.pm.running then ok s else
  let s := match s.pm.snap with
    | some (_, w, v) => s.snapRecord w v
    | none => s
  let s := s.lastSamples
  ok { s with pm := { s.pm with running := false, ctr := s.pm.ctr.map fun (c : Counter) => { c with request := none } } }
def execPmStop (ch : Fin 33) (s : State) : Host.Outcome State Fault Refusal :=
  fin s (ansParts ++ [.mem, .cells, .faults]) (s.serve ch 0xC02 0 pmStop)

/-- PM_GET_STATUS (R459). The payload table puts INTERVAL_US at bits 19:0 and SAMPLING and RUNNING at bits 1 and 0 of the
same word: which of the two those bits carry is free (log entry 18). -/
def pmGetStatus (_ : Cmd) (s : State) : Ans :=
  let p := s.pm
  let (k, s) := s.take 1
  let low := if Config.freeNat k % 2 = 0 then p.intervalUs % 4 else s.pmStatus.toNat
  okWith s [pack [(p.items.length, 38, 32), (p.intervalUs / 4, 19, 2), (low, 1, 0)], pack [(p.seq, 47, 0)],
    pack [(p.dropped, 63, 32), (p.skipped, 31, 0)], pack [(p.samples, 31, 0)]]
def execPmGetStatus (ch : Fin 33) (s : State) : Host.Outcome State Fault Refusal :=
  fin s ansParts (s.serve ch 0xC03 0 pmGetStatus)

end Sys2Proof.Machine
end

