-- ==== Sys2Proof/Machine/Registers.lean ====
section
/-! DEFINITION. The register windows that command lists reach (R324) and the accesses of R9: reads that clear, writes that
act. -/
namespace Sys2Proof.Machine

/-- A register read and the state after it. -/
abbrev RegRead := Reg × State

/-- TL_SNAP_CTRL to TL_STATUS, of a copy of the window (R36). -/
def regTime (x : Snap) (off : Nat) (s : State) : Reg :=
  if off = 4 then x.secLo else if off = 8 then x.secHi else if off = 12 then x.ns else if off = 16 then x.aux
  else if off = 20 then s.time.status else 0

/-- TT_SAT and TT_NAN of a group (R158). -/
def State.readTtSat (s : State) (g : Nat) : RegRead :=
  let x := at_ s.tiles.groups g {}
  (rg x.sat, { s with tiles := { s.tiles with groups := put s.tiles.groups g { x with sat := 0 } } })
def State.readTtNan (s : State) (g : Nat) : RegRead :=
  let x := at_ s.tiles.groups g {}
  (rg x.nan, { s with tiles := { s.tiles with groups := put s.tiles.groups g { x with nan := 0 } } })

/-- XE_ERR (R179). -/
def Layout.errReg (l : Layout) : Reg := rg (b2n l.errZstride * 2 + b2n l.errAlign)

/-- A write of XE_ERR clears the bits written as 1 (R9, R179). -/
def State.writeXeErr (s : State) (v : Reg) : State :=
  { s with layout := { s.layout with
    errAlign := s.layout.errAlign && !v.getLsbD 0, errZstride := s.layout.errZstride && !v.getLsbD 1 } }

/-- XE_OOB_READ and XE_OOB_WRITE (R179). -/
def State.readXeOobRead (s : State) : RegRead := (rg s.layout.oobRead, { s with layout := { s.layout with oobRead := 0 } })
def State.readXeOobWrite (s : State) : RegRead := (rg s.layout.oobWrite, { s with layout := { s.layout with oobWrite := 0 } })

/-- SV_SAT, SV_PIVOT, SV_NAR and SV_WARM (R272). -/
def State.readSvSat (s : State) : RegRead := (rg s.solver.sat, { s with solver := { s.solver with sat := 0 } })
def State.readSvPivot (s : State) : RegRead := (rg s.solver.pivot, { s with solver := { s.solver with pivot := 0 } })
def State.readSvNar (s : State) : RegRead := (rg s.solver.nar, { s with solver := { s.solver with nar := 0 } })
def State.readSvWarm (s : State) : RegRead := (rg s.solver.warm, { s with solver := { s.solver with warm := 0 } })

/-- KV_COPIES and KV_NOPAGE (R318). -/
def State.readKvCopies (s : State) : RegRead := (rg s.kv.copies, { s with kv := { s.kv with copies := 0 } })
def State.readKvNopage (s : State) : RegRead := (rg s.kv.nopage, { s with kv := { s.kv with nopage := 0 } })

/-- Free descriptors and pinned pages (R318). -/
def Kv.freeCount (k : Kv) : Nat := 131072 - k.pages.length
def Kv.pinnedCount (k : Kv) : Nat := (k.pages.filter fun p => p.2.pinned).length

/-- The registers of the ingress window (R127), of queue q at 0x40 × q. -/
def regIngress (off : Nat) (s : State) : RegRead :=
  let q := off / 64
  let x := s.queue q
  match off % 64 with
  | 4 => (x.wordLo, s)
  | 8 => (x.wordHi, s)
  | 12 => let t := (s.checkPtr q).2; ((t.queue q).statusReg, t)
  | 16 => (rg x.discarded, s.setQueue q { x with discarded := 0 })
  | _ => (0, s)

/-- The registers of the tile window (R158), of group g at 0x40 × g. -/
def regTile (off : Nat) (s : State) : RegRead :=
  match off % 64 with
  | 0 => (s.groupStatus (off / 64), s)
  | 4 => s.readTtSat (off / 64)
  | 8 => s.readTtNan (off / 64)
  | _ => (0, s)

/-- The registers of the layout window (R179). -/
def regLayout (off : Nat) (s : State) : RegRead :=
  match off with
  | 0 => (s.xeStatus, s)
  | 4 => (s.layout.errReg, s)
  | 8 => (rg s.layout.errVa, s)
  | 12 => (rg (s.layout.errVa / 2 ^ 32), s)
  | 16 => s.readXeOobRead
  | 20 => s.readXeOobWrite
  | _ => (0, s)

/-- OP of the command at which a launch's list stands at a unit. -/
def State.opOf (s : State) (target : Nat) (l : Launch) : Nat :=
  let pc := match l.runOn target 16 with
    | some r => r.pc
    | none => l.listVa
  if l.ego then 0 else
  match s.target pc .ls with
  | .ok (da, _) => (memGet s.mem.cells (da + 7)).toNat
  | .error _ => 0

/-- OP of the command in progress at a unit: the one at which the list that runs there stands; 0 if none (log entry 23). -/
def State.opNow (s : State) (target : Nat) : Nat := match s.runningAt target 16 with
  | none => 0
  | some l => s.opOf target l

/-- KIND of the work in progress at the solver (R272). -/
def State.svKind (s : State) : Nat :=
  match s.runningAt 0x21 16 with
  | none => 0
  | some l => if l.ego then 3 else if s.opNow 0x21 = 0x50 then 1 else if s.opNow 0x21 = 0x70 then 2 else 0

/-- TRACK_ACTIVE: a TRACK is running or preempted (R240). -/
def State.trackActive (s : State) : Bool :=
  s.dev.launches.any fun l => l.hasRun 0x21 16 (fun r => r = .running || r = .preempted) && s.opOf 0x21 l == 0x70

/-- The registers of the point-cloud window (R211). -/
def regCloud (off : Nat) (s : State) : Reg :=
  if off = 0 then s.vxStatus (s.opNow 0x20) else if off = 4 then rg s.cloud.sites else if off = 8 then rg s.cloud.points
  else if off = 12 then rg s.cloud.flags else 0

/-- The registers of the buoy window (R240). -/
def regBuoy (off : Nat) (s : State) : Reg :=
  if off = 0 then s.btStatus s.trackActive else if off = 4 then rg s.buoys.nextId else 0

/-- The registers of the solver window (R272). -/
def regSolver (off : Nat) (s : State) : RegRead :=
  match off with
  | 0 => (s.svStatus s.svKind, s)
  | 4 => s.readSvSat
  | 8 => s.readSvPivot
  | 12 => s.readSvNar
  | 16 => s.readSvWarm
  | _ => (0, s)

/-- The registers of the attention window (R318). -/
def regKv (off : Nat) (s : State) : RegRead :=
  match off with
  | 0 => (s.kvStatus (s.opNow 0x23), s)
  | 4 => s.readKvCopies
  | 8 => s.readKvNopage
  | 12 => (rg s.kv.freeCount, s)
  | 16 => (rg s.kv.pinnedCount, s)
  | _ => (0, s)

/-- MM_ECC_CE and MM_ECC_UE (R343). -/
def State.readCe (s : State) : RegRead := (rg s.mem.ce, { s with mem := { s.mem with ce := 0 } })
def State.readUe (s : State) : RegRead := (rg s.mem.ue, { s with mem := { s.mem with ue := 0 } })

/-- The registers of the memory window (R343). -/
def regMem (off : Nat) (s : State) : RegRead :=
  match off with
  | 0 => s.readCe
  | 4 => s.readUe
  | 8 => (rg s.mem.ueDa, s)
  | 12 => (rg (b2n s.mem.ueScrub * 65536 + s.mem.ueDa / 2 ^ 32), s)
  | _ => (0, s)

/-- The registers of a counter window (R452). -/
def regPm (x : PmWin) (off : Nat) (s : State) : Reg :=
  if off = 0 then s.pmStatus else if off = 4 then rg x.sel else if off = 8 then x.lo else if off = 12 then x.hi
  else if off = 16 then rg s.pm.wr else if off = 20 then rg s.pm.rd else 0

/-- A 32-bit read at an offset in the register windows (R324). -/
def regReadAt (off : Nat) (s : State) : RegRead :=
  let o := off % 65536
  match off / 65536 with
  | 0 => (regTime s.time.snapList o s, s)
  | 1 => if o < 4096 then regIngress o s else (0, s)
  | 2 => if o < 1024 then regTile o s else (0, s)
  | 3 => regLayout o s
  | 4 => (regCloud o s, s)
  | 5 => (regBuoy o s, s)
  | 6 => regSolver o s
  | 7 => regKv o s
  | 8 => regMem o s
  | 9 => (regPm s.pm.list o s, s)
  | _ => (0, s)

/-- A write of IQ_CMD (R127): the drop acts before the pop. An uncorrectable word faults the writer (R125). -/
def iqCmd (q : Nat) (v : Reg) : TaskM Unit := do
  if v.getLsbD 1 then
    let (fine, t) := (← get).dropToStart q
    set t
    if !fine then throw .uncorrectable
  if v.getLsbD 0 then
    let (fine, t) := (← get).iqPop q
    set t
    if !fine then throw .uncorrectable

/-- A 32-bit write at an offset in the register windows (R9, R324): registers that take no write ignore it. -/
def regWriteAt (off : Nat) (v : Reg) : TaskM Unit := do
  let o := off % 65536
  match off / 65536 with
  | 0 => if o = 0 ∧ v.getLsbD 0 then modify fun s => { s with time := { s.time with snapList := s.now.snap } }
  | 1 => if o < 4096 ∧ o % 64 = 0 then iqCmd (o / 64) v
  | 3 => if o = 4 then modify fun s => s.writeXeErr v
  | 9 => if o = 4 then modify fun s => s.pmSel .list v else if o = 20 then modify fun s => s.pmRingRd .list v
  | _ => pure ()

/-- Answer a register read on the bus, and keep the state that the read leaves. -/
def RegRead.answer (r : RegRead) : State := r.2.answerReg r.1

/-! ### The rows -/

/-- TT_SAT_READ and TT_NAN_READ (R158): RC. -/
def execTtSatRead (g : Fin 16) (s : State) : Host.Outcome State Fault Refusal :=
  fin s [.tiles, .pins] (s.readTtSat g.val).answer
def execTtNanRead (g : Fin 16) (s : State) : Host.Outcome State Fault Refusal :=
  fin s [.tiles, .pins] (s.readTtNan g.val).answer

/-- XE_ERR_WRITE (R179): W1C. -/
def execXeErrWrite (v : Reg) (s : State) : Host.Outcome State Fault Refusal := fin s [.layout] (s.writeXeErr v)

/-- XE_OOB_READ_READ and XE_OOB_WRITE_READ (R179): RC. -/
def execXeOobReadRead (s : State) : Host.Outcome State Fault Refusal := fin s [.layout, .pins] s.readXeOobRead.answer
def execXeOobWriteRead (s : State) : Host.Outcome State Fault Refusal := fin s [.layout, .pins] s.readXeOobWrite.answer

/-- SV_SAT_READ, SV_PIVOT_READ, SV_NAR_READ and SV_WARM_READ (R272): RC. -/
def execSvSatRead (s : State) : Host.Outcome State Fault Refusal := fin s [.solver, .pins] s.readSvSat.answer
def execSvPivotRead (s : State) : Host.Outcome State Fault Refusal := fin s [.solver, .pins] s.readSvPivot.answer
def execSvNarRead (s : State) : Host.Outcome State Fault Refusal := fin s [.solver, .pins] s.readSvNar.answer
def execSvWarmRead (s : State) : Host.Outcome State Fault Refusal := fin s [.solver, .pins] s.readSvWarm.answer

/-- KV_COPIES_READ and KV_NOPAGE_READ (R318): RC. -/
def execKvCopiesRead (s : State) : Host.Outcome State Fault Refusal := fin s [.kv, .pins] s.readKvCopies.answer
def execKvNopageRead (s : State) : Host.Outcome State Fault Refusal := fin s [.kv, .pins] s.readKvNopage.answer

/-! ### BAR0 (R9, R352) -/

/-- The registers of a channel (R352): the doorbell is WO and reads 0. -/
def Channel.reg (c : Channel) (off : Nat) : Reg :=
  if off = 4 then c.status else if off = 8 then rg c.outWr else if off = 12 then rg c.outRd else 0

/-- Half a word of a channel's window (R353): the inbound buffer, and from 0x800 on the outbound ring. -/
def Channel.half (c : Channel) (off : Nat) : Reg :=
  let w := if off < 2048 then at_ c.inBuf (off / 8) 0 else at_ c.ring ((off - 2048) / 8) 0
  if off % 8 = 0 then BitVec.setWidth 32 w else BitVec.setWidth 32 (w >>> 32)

/-- The offset is one of MB_CH_STATUS; the channel is `(off - 0x100) / 16`. -/
def isChStatus (off : Nat) : Bool := decide (0x100 ≤ off ∧ off < 0x300 ∧ off % 16 = 4)

/-- The 32-bit value at an aligned offset of BAR0 (R36, R352, R419, R452). MB_ID, MB_DEV_STATE and the reset and boot
registers are live; the others read their reset values until the mailboxes open. An offset with no register reads 0. -/
def State.bar0Reg (s : State) (off : Nat) : Reg :=
  if off = 0 then s.mbId
  else if off = 4 then s.mbDevState
  else if off = 0x800 then s.boot.resetCauseReg
  else if off = 0x804 then s.boot.statusReg
  else if off = 0x808 then s.boot.strapReg
  else if !s.mailOpen then (if off = 0x1014 then 1 else 0)
  else if off = 8 then s.mbReady
  else if 0x100 ≤ off ∧ off < 0x300 then (s.chan ((off - 0x100) / 16)).reg (off % 16)
  else if 0x1000 ≤ off ∧ off < 0x2000 then regTime s.time.snapBar0 (off - 0x1000) s
  else if 0x2000 ≤ off ∧ off < 0x3000 then regPm s.pm.bar0 (off - 0x2000) s
  else if 0x20000 ≤ off then (s.chan ((off - 0x20000) / 4096)).half (off % 4096)
  else 0

/-- A read of the 32-bit value, and what it clears (R9). -/
def State.bar0Get (s : State) (off : Nat) : RegRead :=
  (s.bar0Reg off, if isChStatus off then s.chStatusTaken ((off - 0x100) / 16) else s)

/-- An access of R352: 4 or 8 bytes, aligned to its width. -/
def goodForm (off bytes : Nat) : Bool := (bytes == 4 || bytes == 8) && off % bytes == 0

/-- A read in BAR0: an 8-byte read takes the register at its offset and then the one 4 above. Any form but those of R352
completes with Unsupported Request. -/
def State.bar0Read (s : State) (off bytes : Nat) : State :=
  if !s.boot.linkUp || !goodForm off bytes then s.answerBus .unsupportedRequest
  else
    let lo := s.bar0Get off
    if bytes = 4 then lo.2.answerBus (.reg lo.1)
    else
      let hi := lo.2.bar0Get (off + 4)
      hi.2.answerBus (.wide (hi.1 ++ lo.1))

/-- A 32-bit write at an aligned offset of BAR0: registers that no write sets, and offsets with no register, ignore it. -/
def State.bar0Put (s : State) (off : Nat) (v : Reg) : State :=
  let i := (off - 0x100) / 16
  if 0x100 ≤ off ∧ off < 0x300 then
    (if off % 16 = 0 then (if v.getLsbD 0 then s.ring i else s)
    else if off % 16 = 4 then s.chStatusWrite i v
    else if off % 16 = 12 then s.outRdWrite i v else s)
  else if 0x20000 ≤ off then s.inboundWrite ((off - 0x20000) / 4096) (off % 4096) false (BitVec.setWidth 64 v)
  else if !s.bar0Takes .bar0 then s
  else if off = 0x1000 ∧ v.getLsbD 0 then { s with time := { s.time with snapBar0 := s.now.snap } }
  else if off = 0x2004 then s.pmSel .bar0 v
  else if off = 0x2014 then s.pmRingRd .bar0 v
  else s

/-- A write in BAR0: 8 bytes are a word of a mailbox window, or the registers at the offset and 4 above it, in that order. A
write of any form but those of R352 is dropped. -/
def State.bar0Write (s : State) (off bytes : Nat) (v : Word) : State :=
  if !s.boot.linkUp || !goodForm off bytes then s
  else if bytes = 4 then s.bar0Put off (BitVec.setWidth 32 v)
  else if 0x20000 ≤ off then s.inboundWrite ((off - 0x20000) / 4096) (off % 4096) true v
  else (s.bar0Put off (BitVec.setWidth 32 v)).bar0Put (off + 4) (BitVec.setWidth 32 (v >>> 32))

/-! ### Configuration space of the service port (R351, log entry 97) -/

/-- A read of a configuration register. BAR0 is 32-bit and not prefetchable, BAR2 64-bit and prefetchable (bits 3:0 of its
lower half 0b1100) of 16 GiB; no other BAR is implemented, and Interrupt Pin reads 0. -/
def SvcPort.read (p : SvcPort) : CfgReg → Reg
  | .bar0 => p.bar0
  | .bar2Lo => 12
  | .bar2Hi => p.bar2
  | .otherBar | .interruptPin => 0
  | .maxPayload => rg p.maxPayload
  | .aerStatus => p.aer
  | .link => rg (p.width * 16 + p.speed)

/-- A write of a configuration register: BAR0 takes multiples of 256 KiB, BAR2 of 16 GiB, the payload size 128 to 512 bytes;
the error status clears the bits written as 1. -/
def SvcPort.write (p : SvcPort) (r : CfgReg) (v : Reg) : SvcPort :=
  match r with
  | .bar0 => { p with bar0 := v &&& 0xFFFC0000#32 }
  | .bar2Hi => { p with bar2 := v &&& 0xFFFFFFFC#32 }
  | .maxPayload => if v.toNat ≤ 2 then { p with maxPayload := v.toNat } else p
  | .aerStatus => { p with aer := p.aer &&& ~~~v }
  | .bar2Lo | .otherBar | .interruptPin | .link => p

/-- REG_WRITE_OTHER (R9, R351, R352): an access to a register that has no row of its own. In the register windows of command
lists a write sets the RW fields; in BAR0 and in the configuration space of the service port both reads and writes are
accesses of this row (log entry 98), and reach every register. -/
def execRegWriteOther (place : RegPlace) (bytes : Nat) (v : Option Word) (s : State) : Host.Outcome State Fault Refusal :=
  fin s (logParts ++ [.time, .iq, .layout, .mem, .cells, .boot]) <| match place, v with
  | .list off, some v => ((regWriteAt off.toNat (BitVec.setWidth 32 v)).go s).2
  | .list _, none => s
  | .bar0 off, some v => s.bar0Write off.toNat bytes v
  | .bar0 off, none => s.bar0Read off.toNat bytes
  | .cfg r, some v =>
    if !s.boot.linkUp then s else { s with boot := { s.boot with svc := s.boot.svc.write r (BitVec.setWidth 32 v) } }
  | .cfg r, none => if !s.boot.linkUp then s.answerBus .unsupportedRequest else s.answerBus (.reg (s.boot.svc.read r))

end Sys2Proof.Machine
end

