-- ==== Sys2Proof/Machine/Engine.lean ====
section
/-! DEFINITION. How a sequencer or an engine runs one command of the list of its running launch (R135, R140, R162, R174,
R185, R265, R307). -/
namespace Sys2Proof.Machine

/-- What the body of a command came to. -/
inductive CmdEnd where
  /-- the command is complete: the list goes on -/
  | next
  /-- END: the list is complete -/
  | endList
  /-- the command makes no progress yet -/
  | stay
  /-- the command has acted, and is not yet complete -/
  | hold
  /-- a task fault, with DETAIL of its fault-log entry (R442) -/
  | fault (detail : Nat)
  deriving DecidableEq, Repr

/-- A body that only computes over memory: it completes, or faults with a detail. -/
def ofTask (detail : Nat) (x : TaskM Unit) (s : State) : CmdEnd × State :=
  match x.go s with
  | (.ok _, t) => (.next, t)
  | (.error _, t) => (.fault detail, t)

/-- The address of the next command of a launch's run. -/
def Launch.pcOf (l : Launch) (target group : Nat) : Nat :=
  match l.runOn target group with
  | some r => r.pc
  | none => l.listVa

/-- The run of a launch goes on `n` bytes further (addresses wrap, R143). -/
def State.advance (s : State) (id group n : Nat) : State :=
  { s with dev := { s.dev with launches := s.dev.launches.map fun m =>
    if m.id = id then { m with runs := m.runs.map fun r => if r.group = group then { r with pc := (r.pc + n) % 2 ^ 48, solved := none, held := none } else r }
    else m } }

/-- The launch with a number. -/
def State.launchOf (s : State) (id : Nat) : Option Launch := s.dev.launches.find? (·.id = id)

/-- The command that a launch has in progress at a unit (R339). -/
def Launch.heldAt (l : Launch) (target group : Nat) : Option Held := (l.runOn target group).bind (·.held)

/-- A command of a launch is in progress at a unit from now on. -/
def State.holdCmd (s : State) (id group : Nat) (h : Held) : State :=
  { s with dev := { s.dev with launches := s.dev.launches.map fun m =>
    if m.id = id then { m with runs := m.runs.map fun r => if r.group = group then { r with held := some h } else r } else m } }

/-- What follows the body of a command at address `pc` of `size` bytes. -/
def State.after (s : State) (r : CmdEnd × State) (l : Launch) (group size pc : Nat) : State :=
  match r with
  | (.stay, _) => s
  | (.hold, t) => t
  | (.next, t) => t.advance l.id group size
  | (.fault d, t) => t.taskFault l.target.toNat group pc d
  | (.endList, t) => match t.launchOf l.id with
    | some m => t.endRun m group false
    | none => t

/-- Run a command whose words are at hand under the region table it began with (R339), and do what its body says. -/
def State.runWords (s t : State) (l : Launch) (group size pc : Nat) (h : Held)
    (body : Launch → Nat → List Word → State → CmdEnd × State) : State :=
  let r := body l pc h.words ({ t with mem := { t.mem with regions := h.regions.getD t.mem.regions } }.byLaunch l.id)
  let u := { r.2 with mem := { r.2.mem with regions := t.mem.regions } }.byNone
  let v := s.after (r.1, u) l group size pc
  if r.1 = .hold then v.holdCmd l.id group h else v

/-- Run the next command of the list at a unit, if its OP is one of the row's (R136): fetch it with LS (R336), and do what
its body says; a command in progress goes on with the words it was fetched as. A fetch that faults is a task fault of the
launch. -/
def State.runCmd (s : State) (target group size : Nat) (mine : Nat → Bool)
    (body : Launch → Nat → List Word → State → CmdEnd × State) : State :=
  match s.runningAt target group with
  | none => s
  | some l =>
    if l.ego then s else
    let pc := l.pcOf target group
    match l.heldAt target group with
    | some h => if mine (bits (wAt h.words 0) 63 56) then s.runWords s l group size pc h body else s
    | none =>
      match (readWords pc (size / 8) .ls).go s with
      | (.error _, t) => t.taskFault l.target.toNat group pc 0
      | (.ok ws, t) => if mine (bits (wAt ws 0) 63 56) then s.runWords t l group size pc { words := ws } body else s

/-- A command with no effect. -/
def bodyNop (_ : Launch) (_ : Nat) (_ : List Word) (t : State) : CmdEnd × State := (.next, t)

/-- END of a list. -/
def bodyEnd (_ : Launch) (_ : Nat) (_ : List Word) (t : State) : CmdEnd × State := (.endList, t)

end Sys2Proof.Machine
end

