-- ==== Sys2Proof/Machine/Numbers.lean ====
section
/-! DEFINITION. Number formats and rounding of the tiles (R146, R147, R149, R150) as exact dyadic numbers, and the vector
functions of R154. -/
namespace Sys2Proof.Machine

/-- A number of one of the ten formats: NaN (NaR), an infinity, or ± m × 2^e. -/
inductive Num where
  | nan
  | inf (neg : Bool)
  | fin (neg : Bool) (m : Nat) (e : Int)
  deriving DecidableEq, Repr

/-- Zero, and a whole number. -/
def Num.zero : Num := .fin false 0 0
def Num.ofInt (i : Int) : Num := .fin (decide (i < 0)) i.natAbs 0

def Num.neg_ : Num → Num
  | .nan => .nan
  | .inf n => .inf (!n)
  | .fin n m e => .fin (!n) m e

/-- m × 2^(e - b), for b at most e. -/
def scaleUp (m : Nat) (e b : Int) : Nat := m <<< (e - b).toNat

/-- The signed integer in units of 2^b of a finite value, for b at most its exponent. -/
def signedAt (n : Bool) (m : Nat) (e b : Int) : Int := if n then -(scaleUp m e b : Int) else scaleUp m e b

/-- The exact product (R148): infinity × 0 is NaN. -/
def Num.mul_ : Num → Num → Num
  | .nan, _ => .nan
  | _, .nan => .nan
  | .inf a, .inf b => .inf (a != b)
  | .inf a, .fin b m _ => if m = 0 then .nan else .inf (a != b)
  | .fin a m _, .inf b => if m = 0 then .nan else .inf (a != b)
  | .fin a m e, .fin b k f => .fin (a != b) (m * k) (e + f)

/-- The exact sum (R148): infinities of opposite signs give NaN; a zero sum is -0 only of two negative zeros. -/
def Num.add_ : Num → Num → Num
  | .nan, _ => .nan
  | _, .nan => .nan
  | .inf a, .inf b => if a = b then .inf a else .nan
  | .inf a, .fin _ _ _ => .inf a
  | .fin _ _ _, .inf b => .inf b
  | .fin a m e, .fin b k f =>
    let l := min e f
    let t := signedAt a m e l + signedAt b k f l
    .fin (if t = 0 then a && b else decide (t < 0)) t.natAbs l

/-- x ≤ y between numbers that are not NaN; -0 comes before +0. -/
def Num.le_ : Num → Num → Bool
  | .inf a, .inf b => a || !b
  | .inf a, _ => a
  | _, .inf b => !b
  | .fin a m e, .fin b k f =>
    let l := min e f
    let x := signedAt a m e l
    let y := signedAt b k f l
    decide (x < y) || (x = y && (a || !b))
  | _, _ => false

/-- The larger and the smaller; a NaN loses to a number (R154). -/
def Num.max_ (x y : Num) : Num := if x = .nan then y else if y = .nan then x else if x.le_ y then y else x
def Num.min_ (x y : Num) : Num := if x = .nan then y else if y = .nan then x else if x.le_ y then x else y

/-! ### Rounding (R150) -/

/-- m / 2^sh rounded: 1 toward zero, 2 stochastic with the random value r, else to nearest even. -/
def roundQ (rnd r m sh : Nat) : Nat :=
  let q := m >>> sh
  let f := m % 2 ^ sh
  if rnd = 1 then q
  else if rnd = 2 then (if r * 2 ^ sh < 65536 * f then q + 1 else q)
  else if 2 ^ sh < 2 * f ∨ (2 ^ sh = 2 * f ∧ q % 2 = 1) then q + 1 else q

/-- m × 2^e rounded to a multiple of 2^t: in units of 2^t. -/
def roundAt (rnd r m : Nat) (e t : Int) : Nat := if t ≤ e then scaleUp m e t else roundQ rnd r m (t - e).toNat

/-! ### Formats (R146) -/

/-- Width in bits of a format code, 0 for a reserved code. -/
def fmtWidth (f : Nat) : Nat :=
  if f ≤ 1 then 4 else if f ≤ 4 then 8 else if f ≤ 7 then 16 else if f ≤ 9 then 32 else 0

def fmtInt (f : Nat) : Bool := f = 0 || f = 2 || f = 5

/-- Exponent bits, mantissa bits and bias of a floating format. -/
def fmtFlt (f : Nat) : Nat × Nat × Int :=
  if f = 1 then (2, 1, 1) else if f = 3 then (4, 3, 7) else if f = 4 then (5, 2, 15) else if f = 6 then (5, 10, 15)
  else if f = 7 then (8, 7, 127) else (8, 23, 127)

/-- Largest finite value of a floating format, as m × 2^e. -/
def fmtMax (f : Nat) : Nat × Int :=
  if f = 1 then (6, 0) else if f = 3 then (448, 0) else if f = 4 then (57344, 0) else if f = 6 then (65504, 0)
  else if f = 7 then (255, 120) else (16777215, 104)

/-- The number that a code of a format stands for (R146); `bp` is the binary point of FX32. -/
def decodeNum (f bp code : Nat) : Num :=
  if f = 9 then (if code = 2147483648 then .nan else
    let v := sgn 32 code
    .fin (decide (v < 0)) v.natAbs (-(bp : Int)))
  else if fmtInt f then .ofInt (sgn (fmtWidth f) code)
  else
    let p := fmtFlt f
    let eb := p.1
    let mb := p.2.1
    let n := (code >>> (eb + mb)) % 2 = 1
    let ex := (code >>> mb) % 2 ^ eb
    let man := code % 2 ^ mb
    if ex = 2 ^ eb - 1 ∧ f ≠ 1 ∧ f ≠ 3 then (if man = 0 then .inf n else .nan)
    else if f = 3 ∧ ex = 15 ∧ man = 7 then .nan
    else if ex = 0 then (if man = 0 ∧ f ≤ 4 then .zero else .fin n man (1 - p.2.2 - mb))
    else .fin n (2 ^ mb + man) ((ex : Int) - p.2.2 - mb)

/-- A written element: its code, whether it saturated, whether it is a NaN (R149). -/
structure Enc where
  code : Nat
  sat : Bool := false
  nan : Bool := false
  deriving DecidableEq, Repr

/-- m × 2^e exceeds k × 2^f. -/
def magAbove (m : Nat) (e : Int) (k : Nat) (f : Int) : Bool :=
  let l := min e f
  decide (scaleUp k f l < scaleUp m e l)

/-- Code of a finite magnitude that a floating format holds exactly, without its sign. -/
def packMag (f m : Nat) (e : Int) : Nat :=
  let p := fmtFlt f
  let mb := p.2.1
  let l := m.log2
  let lead := (l : Int) + e
  if m = 0 then 0
  else if lead < 1 - p.2.2 then scaleUp m e (1 - p.2.2 - mb)
  else ((lead + p.2.2).toNat <<< mb) + (if mb ≤ l then m >>> (l - mb) else m <<< (mb - l)) - 2 ^ mb

/-- Conversion to a format (R149 step 3): `r` is the random value of stochastic rounding. DESIGN CHOICE (log entry 44): a result below
the smallest normal is rounded once, straight to a multiple of the smallest subnormal. -/
def encodeNum (f bp rnd r : Nat) (v : Num) : Enc :=
  let w := fmtWidth f
  if f = 9 ∨ fmtInt f then
    let hi : Nat := 2 ^ (w - 1) - 1
    let lo : Nat := if f = 9 then 2 ^ 31 + 1 else 2 ^ (w - 1)
    match v with
    | .nan => if f = 9 then { code := 2147483648, nan := true } else { code := 0 }
    | .inf n => { code := if n then lo else hi, sat := true }
    | .fin n m e =>
      let q := roundAt rnd r m (e + (if f = 9 then (bp : Int) else 0)) 0
      if hi < q then { code := if n then lo else hi, sat := true }
      else { code := if n ∧ q ≠ 0 then 2 ^ w - q else q }
  else
    let p := fmtFlt f
    let sign : Bool → Nat := fun n => if n then 2 ^ (p.1 + p.2.1) else 0
    let top := (2 ^ p.1 - 1) <<< p.2.1
    let mx := fmtMax f
    let big := packMag f mx.1 mx.2
    match v with
    | .nan => if f = 1 then { code := 0 } else if f = 3 then { code := 0x7F, nan := true }
      else { code := top + 2 ^ (p.2.1 - 1), nan := true }
    | .inf n => if f = 1 ∨ f = 3 then { code := sign n + big, sat := true } else { code := sign n + top }
    | .fin n m e =>
      if m = 0 then { code := if 6 ≤ f then sign n else 0 } else
      let t := max ((m.log2 : Int) + e - p.2.1) (1 - p.2.2 - p.2.1)
      let q := roundAt rnd r m e t
      if t ≤ e ∧ ¬ magAbove m e mx.1 mx.2 then { code := sign n + packMag f m e }
      else if magAbove q t mx.1 mx.2 then
        (if f = 8 then { code := sign n + top } else { code := sign n + big, sat := true })
      else if q = 0 then { code := if 6 ≤ f then sign n else 0 }
      else { code := sign n + packMag f q t }

/-- FP32 from and to bits, and rounding to FP32 with round to nearest even. -/
def f32 (b : BitVec 32) : Num := decodeNum 8 0 b.toNat
def Num.bits32 (v : Num) : BitVec 32 := BitVec.ofNat 32 (encodeNum 8 0 0 0 v).code
def Num.r32 (v : Num) : Num := f32 v.bits32

/-- FP32 addition, subtraction and multiplication with one rounding. -/
def Num.add32 (x y : Num) : Num := (x.add_ y).r32
def Num.sub32 (x y : Num) : Num := (x.add_ y.neg_).r32
def Num.mul32 (x y : Num) : Num := (x.mul_ y).r32

/-- A block scale (R147). -/
def e8m0 (b : Nat) : Num := if b = 255 then .nan else .fin false 1 ((b : Int) - 127)

/-! ### Multiply-accumulate (R148) -/

/-- 32-bit saturation: the value and whether it saturated. -/
def sat32i (i : Int) : Int × Bool :=
  if 2147483647 < i then (2147483647, true) else if i < -2147483648 then (-2147483648, true) else (i, false)

/-- Leading-bit exponent of a finite value that is not zero. -/
def Num.lead : Num → Option Int
  | .fin _ m e => if m = 0 then none else some ((m.log2 : Int) + e)
  | _ => none

/-- Largest exponent of some products. -/
def maxLead : List Num → Option Int
  | [] => none
  | p :: r => match p.lead, maxLead r with
    | some a, some b => some (max a b)
    | some a, none => some a
    | none, b => b

/-- The sum of the products of one block: exact, then the bits below 40 under the largest product's leading bit are
discarded (R148). -/
def blockSum (ps : List Num) : Num :=
  let s := ps.foldl Num.add_ (.fin (ps.all fun p => match p with | .fin n _ _ => n | _ => false) 0 0)
  match s, maxLead ps with
  | .fin n m e, some l => if l - 40 ≤ e then s else .fin n (roundQ 1 0 m (l - 40 - e).toNat) (l - 40)
  | s, _ => s

/-! ### Vector functions (R154): computed to far below an FP32 unit in the last place, in fixed point with 300 fraction
bits, then moved by the free error of `Config.ulps` -/

def fixBits : Nat := 300

/-- ln 2 in units of 2^-300. -/
def ln2Fix : Nat := 1411965743695424507508857192728570223734551239724995589061361292466257174357546532574725854

/-- Terms of the exponential series: y in units of 2^-300, from term k on. -/
def expTerms (y : Nat) : Nat → Nat → Nat → Nat
  | 0, _, t => t
  | n + 1, k, t => t + expTerms y n (k + 1) (t * y / (k <<< fixBits))

/-- e^y for 0 ≤ y < ln 2. -/
def expFix (y : Nat) : Nat := expTerms y 80 1 (1 <<< fixBits)

/-- e^y for y in units of 2^-300, as a number. -/
def expNum (y : Int) : Num :=
  let n := y / (ln2Fix : Int)
  .fin false (expFix (y % (ln2Fix : Int)).toNat) (n - fixBits)

/-- A finite value in units of 2^-300, limited to ± 400. -/
def fixOf (n : Bool) (m : Nat) (e : Int) : Int :=
  let lim := 400 <<< fixBits
  let a := if 12 < (m.log2 : Int) + e then lim else min lim (roundAt 1 0 m e (-(fixBits : Int)))
  if n then -(a : Int) else a

/-- Terms of the inverse hyperbolic tangent series: t^(2k+1) / (2k+1). -/
def atanhTerms (t2 : Nat) : Nat → Nat → Nat → Nat
  | 0, _, _ => 0
  | n + 1, k, p => p / k + atanhTerms t2 n (k + 2) ((p * t2) >>> fixBits)

/-- log₂ of m × 2^e in units of 2^-300. -/
def log2Fix (m : Nat) (e : Int) : Int :=
  let l := m.log2
  let x := (m <<< fixBits) >>> l
  let one := 1 <<< fixBits
  let t := ((x - one) <<< fixBits) / (x + one)
  let ln := 2 * atanhTerms ((t * t) >>> fixBits) 110 1 t
  ((ln <<< fixBits) / ln2Fix : Nat) + ((l : Int) + e) * one

/-- Integer square root by Newton's iteration from above. -/
def isqrtGo (n : Nat) : Nat → Nat → Nat
  | 0, x => x
  | k + 1, x => let y := (x + n / x) / 2
    if y < x then isqrtGo n k y else x
def isqrt (n : Nat) : Nat := if n = 0 then 0 else isqrtGo n (n.log2 + 2) (2 ^ (n.log2 / 2 + 1))

/-- The quotient of two numbers in units of 2^-k. -/
def ratio (a b k : Nat) : Num := .fin false ((a <<< k) / b) (-(k : Int))

/-- sigmoid of a finite value: 1 / (1 + e^-x). -/
def sigmoidNum (n : Bool) (m : Nat) (e : Int) : Num :=
  match expNum (fixOf true m e) with
  | .fin _ a x =>
    let one := 1 <<< 1000
    let t := scaleUp a x (-1000)
    if n then ratio t (one + t) 1400 else ratio one (one + t) 1400
  | v => v

/-- tanh of a finite magnitude. -/
def tanhNum (m : Nat) (e : Int) : Num :=
  match expNum (2 * fixOf true m e) with
  | .fin _ a x =>
    let one := 1 <<< 1600
    let t := min one (scaleUp a x (-1600))
    ratio (one - t) (one + t) 1800
  | v => v

/-- Error in units in the last place of a vector function. -/
def vopUlps (vop : Nat) : Nat := if vop ≤ 0x13 then 2 else 4

/-- A magnitude lies more than `k` units in the last place above the largest finite FP32 value. -/
def beyond32 (k : Nat) : Num → Bool
  | .fin _ m e => match (Num.fin false m e).lead with
    | some l => decide (128 < l) || (decide (l = 128) &&
        if e ≤ 104 then decide ((16777216 + k) <<< (104 - e).toNat ≤ m) else decide (16777216 + k ≤ m <<< (e - 104).toNat))
    | none => false
  | _ => true

/-- A magnitude moved by the free error, as FP32 bits with a sign; one beyond the range by more than the error is
infinite. -/
def nudge (vop : Nat) (x : BitVec 32) (n : Bool) (v : Num) : Num :=
  let c := v.bits32.toNat % 2147483648
  let k := vopUlps vop
  let d := Config.ulps vop x % (2 * k + 1)
  if beyond32 k v then .inf n else
  f32 (BitVec.ofNat 32 (min (c + d - k) 0x7F800000 + (if n then 2147483648 else 0)))

/-- Functions 0x10 to 0x16 on an FP32 input (R154, R155: subnormal inputs act as zero). At an infinity each takes its
limit; where none is stated the result is free. -/
def vecFun (vop : Nat) (x : BitVec 32) : Num :=
  let v := f32 x
  let v : Num := match v, v.lead with
    | .fin n m e, some l => if l < -126 then .fin n 0 0 else .fin n m e
    | w, _ => w
  let free := f32 (Config.unstated vop x)
  let out := fun (n : Bool) (w : Num) => nudge vop x n w
  match v with
  | .nan => .nan
  | .inf n =>
    if vop = 0x10 then .fin n 0 0
    else if vop = 0x11 then (if n then free else .zero)
    else if vop = 0x12 then (if n then .zero else .inf false)
    else if vop = 0x13 then (if n then free else .inf false)
    else if vop = 0x14 then (if n then .zero else .ofInt 1)
    else if vop = 0x15 then (if n then .fin true 0 0 else .inf false)
    else .ofInt (if n then -1 else 1)
  | .fin n m e =>
    if vop = 0x10 then (if m = 0 then free else out n (.fin false ((1 <<< 400) / m) (-400 - e)))
    else if vop = 0x11 then
      (if m = 0 ∨ n then free else
        let odd := e % 2 ≠ 0
        let m := if odd then 2 * m else m
        let e := if odd then e - 1 else e
        out false (.fin false (isqrt ((1 <<< 800) / m)) (-400 - e / 2)))
    else if vop = 0x12 then
      let y := fixOf n m e
      out false (match expNum ((y % (1 <<< fixBits : Nat)) * ln2Fix / (1 <<< fixBits : Nat)) with
        | .fin _ a x => .fin false a (x + y / (1 <<< fixBits : Nat))
        | w => w)
    else if vop = 0x13 then
      (if m = 0 ∨ n then free else
        let l := log2Fix m e
        out (decide (l < 0)) (.fin false l.natAbs (-(fixBits : Int))))
    else if vop = 0x14 then out false (sigmoidNum n m e)
    else if vop = 0x15 then (if m = 0 then .fin n 0 0 else out n ((sigmoidNum n m e).mul_ (.fin false m e)))
    else (if m = 0 then .fin n 0 0 else out n (tanhNum m e))

/-! ### FP32 sine, cosine and arc cosine (R188, R191, R281, R282): computed in fixed point with 400 fraction bits, then moved
by the free error of `Config.trigErr` (log entry 20) -/

/-- 2π in units of 2^-400. -/
def tauFix : Nat := 16224754493461942477724542702601789038322303200358530407182382075230461810747980997491046721853633630855133559454655152472

/-- Terms of the sine or cosine series, from t = x^k / k! on, in units of 2^-400. -/
def trigSeries (x : Int) : Nat → Nat → Int → Int
  | 0, _, _ => 0
  | n + 1, k, t => t + trigSeries x n (k + 2) (-(t * x / 2 ^ 400 * x / 2 ^ 400 / ((k + 1) * (k + 2) : Nat)))

/-- The sine or the cosine of a finite value, in units of 2^-400. -/
def trigValue (cosine n : Bool) (m : Nat) (e : Int) : Int :=
  let x := signedAt n m e (min e (-400)) / (2 : Int) ^ ((-400 - min e (-400)).toNat) % (tauFix : Int)
  let x := if 2 * x < tauFix then x else x - tauFix
  if cosine then trigSeries x 50 0 (2 ^ 400) else trigSeries x 50 1 x

/-- The arc tangent of t from 0 to 1, in units of 2^-200: the argument is halved three times, then the series. -/
def atanFix (t : Nat) : Nat :=
  let one := 1 <<< 200
  let half := fun (t : Nat) => (t <<< 200) / (one + isqrt (one * one + t * t))
  let u := half (half (half t))
  8 * (((List.range 40).foldl (fun (a : Int × Nat) i =>
    (a.1 + (if i % 2 = 0 then 1 else -1) * ((a.2 / (2 * i + 1) : Nat) : Int), a.2 * u / one * u / one)) (0, u)).1).toNat

/-- The arc cosine of a finite value from -1 to 1, in units of 2^-200. -/
def acosFix (n : Bool) (m : Nat) (e : Int) : Nat :=
  let x := signedAt n m e (min e (-400)) / (2 : Int) ^ ((-400 - min e (-400)).toNat)
  let a := isqrt ((1 <<< 400 : Nat) - x).toNat
  let b := isqrt ((1 <<< 400 : Nat) + x).toNat
  if a ≤ b then 2 * atanFix ((a <<< 200) / b) else tauFix >>> 201 - 2 * atanFix ((b <<< 200) / a)

/-- A value rounded to FP32 and moved by the free error of a function; one that is 0 or ±1 exactly stays, and so does the
limit of magnitude. -/
def moved (fn : Nat) (x : BitVec 32) (limit : BitVec 32) (v : Num) : Num :=
  match v with
  | .fin n m e =>
    if m = 0 then v else
    let c := (Num.fin false m e).bits32.toNat
    f32 (BitVec.ofNat 32 (min (c + Config.trigErr fn x % 5 - 2) limit.toNat + (if n then 2147483648 else 0)))
  | w => w

/-- FP32 sine: the sine of a zero is that zero. -/
def sin32 (x : Num) : Num :=
  match x with
  | .fin n m e => if m = 0 then x else
    let v := trigValue false n m e
    moved 0 x.bits32 0x3F800000 (.fin (decide (v < 0)) v.natAbs (-400))
  | _ => .nan

/-- FP32 cosine: 1 of a zero. -/
def cos32 (x : Num) : Num :=
  match x with
  | .fin n m e => if m = 0 then .ofInt 1 else
    let v := trigValue true n m e
    moved 1 x.bits32 0x3F800000 (.fin (decide (v < 0)) v.natAbs (-400))
  | _ => .nan

/-- FP32 arc cosine: 0 of 1, and no number outside -1 to 1. -/
def acos32 (x : Num) : Num :=
  match x with
  | .fin n m e => if magAbove m e 1 0 then .nan
    else moved 2 x.bits32 0x40490FDB (.fin false (acosFix n m e) (-200))
  | _ => .nan

end Sys2Proof.Machine
end

