-- ==== Sys2Proof/Machine/Windows.lean ====
section
/-! DEFINITION. The gather and scatter windows (R202 to R204), and the operand accesses of a tile MATMUL. -/
namespace Sys2Proof.Machine

/-- Book and offset of a window address, and the byte above that point (R202). -/
def winBook (da : Nat) : Nat := (da / 2 ^ 39) % 64
def winOffset (da : Nat) : Nat := (da / 2 ^ 32) % 128
def winByte (da : Nat) : Nat := da % 2 ^ 32

/-- The slot whose rules a slot uses (R200): a later RULES into it changes the rules of every slot that reuses it. -/
def bookRoot (bs : Vector Book 64) : Nat → Nat → Book
  | 0, i => at_ bs i {}
  | fuel + 1, i => match (at_ bs i {}).src with
    | some j => bookRoot bs fuel j
    | none => at_ bs i {}

/-- A book slot: the rules of its source, and its own features. -/
def State.book (s : State) (i : Nat) : Book :=
  let r := bookRoot s.cloud.books 64 i
  { at_ s.cloud.books i {} with
    count := r.count, start := r.start, kind := r.kind, ks := r.ks, level := r.level, rulesVa := r.rulesVa }

/-- An offset whose rows reach 2^32 bytes: the outputs are undefined (R212.5). -/
def Book.wide (b : Book) (o : Nat) : Bool :=
  decide (2 ^ 32 ≤ b.count.getD o 0 * b.inLd * 32) || decide (2 ^ 32 ≤ b.count.getD o 0 * b.outLd * 32)

/-- Rule START[o] + r of a book: its IN and OUT (R199). -/
def readRule (b : Book) (o r : Nat) : TaskM (Nat × Nat) := do
  let w ← readWords (b.rulesVa + 1024 + 8 * (b.start.getD o 0 + r)) 1
  return (bits (wAt w 0) 31 0, bits (wAt w 0) 63 32)

/-- Bytes of the gather window from byte `y` of an offset on (R203). -/
def gatherBytes (b : Book) (o : Nat) : Nat → Nat → Nat → TaskM (List Byte)
  | 0, _, _ => return []
  | _, _, 0 => return []
  | fuel + 1, y, n => do
    let ld := b.inLd * 32
    let col := y % ld
    let k := if ld = 0 then n else min n (ld - col)
    let r := y / ld
    if r < b.count.getD o 0 then
      let rule ← readRule b o r
      let bs ← readM (b.inVa + rule.1 * ld + col) k
      modify fun s => s.count 17 0x45 k
      return bs ++ (← gatherBytes b o fuel (y + k) (n - k))
    else
      return List.replicate k 0 ++ (← gatherBytes b o fuel (y + k) (n - k))

/-- A read of an operand of a tile MATMUL (R203, R204, R336). -/
def operandPieces : List (Nat × Nat) → TaskM (List Byte)
  | [] => return []
  | p :: r => do
    let s ← get
    match s.target p.1 .rd with
    | .ok (da, .gather) =>
      let b := s.book (winBook da)
      return (← gatherBytes b (winOffset da) (p.2 + 1) (winByte da) p.2) ++ (← operandPieces r)
    | _ => return (← readM p.1 p.2) ++ (← operandPieces r)

def operandRead (va n : Nat) : TaskM (List Byte) := operandPieces (split4k va n)

/-- IN and OUT of a rule as memory holds them, without an access. -/
def State.peekRule (s : State) (b : Book) (o r : Nat) : Nat × Nat :=
  match s.places [(b.rulesVa + 1024 + 8 * (b.start.getD o 0 + r), 8)] with
  | p :: _ =>
    let w := wd (leNat (memBytes s.mem.cells p.1 8))
    (bits w 31 0, bits w 63 32)
  | [] => (0, 0)

/-- The rows of features behind `n` bytes of a window from byte `y` of an offset on: those that the gather window reads, or
those that the scatter window writes (R203, R204). -/
def State.windowRows (s : State) (b : Book) (o : Nat) (out : Bool) : Nat → Nat → Nat → List (Nat × Nat)
  | 0, _, _ => []
  | _, _, 0 => []
  | fuel + 1, y, n =>
    let ld := (if out then b.outLd else b.inLd) * 32
    let k := if ld = 0 then n else min n (ld - y % ld)
    let rest := s.windowRows b o out fuel (y + k) (n - k)
    if y / ld < b.count.getD o 0 then
      let rule := s.peekRule b o (y / ld)
      ((if out then b.outVa + rule.2 * ld else b.inVa + rule.1 * ld) + y % ld, k) :: rest
    else rest

/-- Runs of an operand or a result with the windows' runs replaced by the rows behind them, so that an overlap of a command's
destination with its own sources is seen through a window (R161.5). -/
def State.behindWindows (s : State) (out : Bool) (rs : List (Nat × Nat)) : List (Nat × Nat) :=
  ((rs.map fun r => split4k r.1 r.2).flatten.map fun p =>
    match s.target p.1 (if out then .wr else .rd), out with
    | .ok (da, .gather), false => s.windowRows (s.book (winBook da)) (winOffset da) false (p.2 + 1) (winByte da) p.2
    | .ok (da, .scatter), true => s.windowRows (s.book (winBook da)) (winOffset da) true (p.2 + 1) (winByte da) p.2
    | _, _ => [p]).flatten

/-- One FP32 element applied to its place in the scatter window's output (R204). -/
def scatterOne (b : Book) (va : Nat) (x : BitVec 32) : TaskM Unit := do
  let old := f32 (BitVec.ofNat 32 (leNat (← readM va 4)))
  let new := if b.kind = 2 then (old.max_ (f32 x)).bits32 else (old.add32 (f32 x)).bits32
  writeM va (leBytes 4 new.toNat)
  modify fun s => s.count 17 0x46 1

/-- Elements delivered to the scatter window from byte `y` of an offset on (R204). -/
def scatterAll (b : Book) (o : Nat) : Nat → List (BitVec 32) → TaskM Unit
  | _, [] => return ()
  | y, x :: xs => do
    let ld := b.outLd * 32
    let r := y / ld
    if r < b.count.getD o 0 then
      let rule ← readRule b o r
      scatterOne b (b.outVa + rule.2 * ld + y % ld) x
    scatterAll b o (y + 4) xs

/-- The elements that bytes of a result C spell. A C of another format than FP32 delivers elements that the spec does not
state: they are free (log entry 10). -/
def scatterElems (known : Bool) (k : Nat) (bs : List Byte) : List (BitVec 32) :=
  (List.range ((bs.length + 3) / 4)).map fun i =>
    if known then BitVec.ofNat 32 (leNat ((bs.drop (4 * i)).take 4)) else Config.freeReg (k + i)

/-- The launch whose tile now works runs while RULES has changed a slot (R212.3): what it delivers there is undefined. -/
def State.staleHere (s : State) (book : Nat) : Bool :=
  match s.tiles.at_ with
  | none => false
  | some pos => match s.runningAt (pos / 4) (pos / 4) with
    | some l => s.cloud.stale.contains (l.id, book)
    | none => false

/-- A write of a result C of a tile MATMUL, with LIST privilege (R203, R204, R336). -/
def resultPieces (fp32 : Bool) : List (Nat × Nat) → List Byte → TaskM Unit
  | [], _ => return ()
  | p :: r, bs => do
    let s ← get
    match s.target p.1 .wr with
    | .ok (da, .scatter) =>
      let b := s.book (winBook da)
      let known := fp32 && !b.wide (winOffset da) && !b.openOut && !s.staleHere (winBook da)
      let (k, s) := s.take (if known then 0 else p.2)
      set s
      scatterAll b (winOffset da) (winByte da) (scatterElems known k (bs.take p.2))
    | _ => writeM p.1 (bs.take p.2)
    resultPieces fp32 r (bs.drop p.2)

/-- Run a computation that reads other contents of memory than the present ones. -/
def withCells {α : Type} (cells : List Host.Cell) (x : TaskM α) : TaskM α := fun s =>
  let (r, t) := x { s with mem := { s.mem with cells := cells } }
  (r, { t with mem := { t.mem with cells := s.mem.cells } })

/-- Run a computation whose writes are all made, or none where it faults (R140). -/
def atomically {α : Type} (x : TaskM α) : TaskM α := fun s =>
  match x s with
  | (.error e, t) => (.error e, { t with mem := { t.mem with
      cells := s.mem.cells, ueWords := s.mem.ueWords, ceWords := s.mem.ceWords } })
  | r => r

end Sys2Proof.Machine
end

