-- ==== Sys2Proof/Machine/Tiles.lean ====
section
/-! DEFINITION. Tensor tiles (ch. 06): the commands of the group sequencers. -/
namespace Sys2Proof.Machine

/-! ### Matrices in memory (R143, R144, R152) -/

/-- A matrix in memory: address, stride in bytes, shape, format, whether it lies in bit planes, and whether it is an
operand of a MATMUL, which alone sees the point-cloud windows (R203, R204). -/
structure Mat where
  va : Nat
  ld : Nat
  rows : Nat
  cols : Nat
  fmt : Nat
  planar : Bool
  win : Bool
  deriving DecidableEq, Repr

/-- Bytes of an element that is not planar; a reserved format counts as 4 bytes. -/
def elemBytes (fmt : Nat) : Nat := if fmtWidth fmt = 0 then 4 else max 1 (fmtWidth fmt / 8)

/-- Address of row r, of plane j of a planar matrix. -/
def Mat.rowAt (m : Mat) (j r : Nat) : Nat := (m.va + (j * m.rows + r) * m.ld) % 2 ^ 48

/-- Address of an element that is not planar. -/
def Mat.elemAt (m : Mat) (r c : Nat) : Nat := (m.rowAt 0 r + c * elemBytes m.fmt) % 2 ^ 48

/-- The byte runs that a matrix lies in. -/
def Mat.runs (m : Mat) : List (Nat × Nat) :=
  ((List.range (if m.planar then fmtWidth m.fmt else 1)).map fun j => (List.range m.rows).map fun r =>
    (m.rowAt j r, if m.planar then (m.cols + 7) / 8 else m.cols * elemBytes m.fmt)).flatten

/-- Element codes from bytes of a width. -/
def codesOf (w : Nat) : Nat → List Byte → List Nat
  | 0, _ => []
  | n + 1, bs => leNat (bs.take w) :: codesOf w n (bs.drop w)

/-- Bit i of bytes. -/
def bitOf (bs : List Byte) (i : Nat) : Nat := ((bs.getD (i / 8) 0).toNat >>> (i % 8)) % 2

/-- Read bytes of a matrix. -/
def Mat.read (m : Mat) (va n : Nat) : TaskM (List Byte) := if m.win then operandRead va n else readM va n

/-- Read `q` planes of elements of a planar row; planes that are not read act as 0, or the first of them as 1 (R153). -/
def readPlanes (m : Mat) (r c n q : Nat) (fill : Bool) : Nat → TaskM (List Nat)
  | 0 => return List.replicate n (if fill ∧ q < fmtWidth m.fmt then 2 ^ (fmtWidth m.fmt - 1 - q) else 0)
  | j + 1 => do
    let low ← readPlanes m r c n q fill j
    let bs ← m.read (m.rowAt j r + c / 8) ((c % 8 + n + 7) / 8)
    return (low.zipIdx).map fun p => p.1 + bitOf bs (c % 8 + p.2) * 2 ^ (fmtWidth m.fmt - 1 - j)

/-- Codes of `n` elements of row r from column c on; q planes are read of a planar matrix. -/
def readElems (m : Mat) (r c n q : Nat) (fill : Bool) : TaskM (List Nat) :=
  if n = 0 then return [] else
  if m.planar then readPlanes m r c n q fill (min q (fmtWidth m.fmt))
  else do
    let w := elemBytes m.fmt
    return codesOf w n (← m.read (m.elemAt r c) (n * w))

def readRow (m : Mat) (r c n : Nat) : TaskM (List Nat) := readElems m r c n (fmtWidth m.fmt) false

/-- The bytes of some bits, the first in bit 0 of the first byte. -/
def packBits : Nat → List Nat → List Byte
  | 0, _ => []
  | k + 1, bs => BitVec.ofNat 8 (((bs.take 8).zipIdx.map fun p => p.1 * 2 ^ p.2).foldl (· + ·) 0) :: packBits k (bs.drop 8)

/-- Write one plane of elements of row r from column c on: bits beside them in the first and last byte stay. -/
def writePlane (m : Mat) (j r c : Nat) (codes : List Nat) : TaskM Unit := do
  let at_ := m.rowAt j r + c / 8
  let n := codes.length
  let len := (c % 8 + n + 7) / 8
  let old ← if c % 8 = 0 ∧ n % 8 = 0 then pure [] else readM at_ len
  let pre := (List.range (c % 8)).map (bitOf old)
  let post := (List.range (8 * len - c % 8 - n)).map fun i => bitOf old (c % 8 + n + i)
  let bs := codes.map fun x => (x >>> (fmtWidth m.fmt - 1 - j)) % 2
  writeM at_ (packBits len (pre ++ bs ++ post))

/-- Write codes of elements of row r from column c on. -/
def writeElems (m : Mat) (r c : Nat) (codes : List Nat) : TaskM Unit :=
  if codes.isEmpty then return () else
  if m.planar then (List.range (fmtWidth m.fmt)).forM fun j => writePlane m j r c codes
  else
    let bs := (codes.map fun x => leBytes (elemBytes m.fmt) x).flatten
    if m.win then resultPieces (m.fmt == 8) (split4k (m.elemAt r c) bs.length) bs else writeM (m.elemAt r c) bs

/-! ### Rounding generators (R150) -/

/-- Advance a generator: a zero state is replaced with 1. -/
def nextGen (g : BitVec 32) : BitVec 32 :=
  let x := Config.xorshift g
  if x = 0 then 1 else x

/-- Convert values in turn with a generator (R149 step 3, R150): codes, saturations, NaNs, and the generator after them. -/
def convertAll (fmt bp rnd : Nat) : BitVec 32 → List Num → List Enc × BitVec 32
  | g, [] => ([], g)
  | g, v :: vs =>
    let g := if rnd = 2 then nextGen g else g
    let r := convertAll fmt bp rnd g vs
    (encodeNum fmt bp rnd (Config.rand16 g).toNat v :: r.1, r.2)

/-- The NaN code of a format, where it has one. -/
def isNanCode (fmt code : Nat) : Bool := fmtWidth fmt != 0 && decide (decodeNum fmt 0 code = .nan)

/-- Free codes in place of a result that is undefined (R161). -/
def freeCodes (fmt k n : Nat) : List Enc :=
  (List.range n).map fun i =>
    let c := (Config.freeReg (k + i)).toNat % 2 ^ (if fmtWidth fmt = 0 then 32 else fmtWidth fmt)
    { code := c, nan := isNanCode fmt c }

/-- Convert the values of a block at a position, or take free codes for them (R161): the codes, what the
block adds to the counts of saturations and NaNs, the generator behind it, and the state. -/
def State.convert (s : State) (pos fmt bp rnd extra : Nat) (undef : Bool) (vs : List Num) :
    List Nat × (Nat × Nat × BitVec 32) × State :=
  let gen := at_ s.tiles.gen pos 0
  let c := convertAll fmt bp rnd gen vs
  let (k, s) := s.take (if undef then vs.length else 0)
  let es := if undef then freeCodes fmt k vs.length else c.1
  (es.map (·.code), ((es.filter (·.sat)).length + (if undef then 0 else extra), (es.filter (·.nan)).length, c.2), s)

/-- A block has been written: TT_SAT and TT_NAN of its group count it, and the generator of its position has moved on (R149,
R150, R158). -/
def State.blockDone (s : State) (g pos : Nat) (n : Nat × Nat × BitVec 32) : State :=
  let x := at_ s.tiles.groups g {}
  { s with tiles := { s.tiles with
    gen := put s.tiles.gen pos n.2.2
    groups := put s.tiles.groups g { x with sat := sat32 (x.sat + n.1), nan := sat32 (x.nan + n.2.1) } } }

/-- The positions of a group in service, ascending (R138): one that waits for its spare is in service (R160). -/
def State.positions (s : State) (g : Nat) : List Nat :=
  ((List.range 4).map (4 * g + ·)).filter fun p => s.faults.tileIn.getLsbD p

/-- A command that is dealt to positions waits until each of them works: the blocks of one that waits for its spare are
the spare's (R160). -/
def State.ready (s : State) (g : Nat) : Bool := s.positions g != [] && (s.positions g).all s.works

/-! ### MATMUL (R134, R138, R143, R148, R149, R153) -/

/-- Width class of a format: 0 4-bit, 1 8-bit, 2 16-bit (R132). -/
def fmtClass (f : Nat) : Nat := if f ≤ 1 then 0 else if f ≤ 4 then 1 else 2

/-- Rows and columns of a pass (R134). -/
def passShape (cls m : Nat) : Nat × Nat :=
  if m ≤ 16 then (16, if cls = 0 then 128 else if cls = 1 then 64 else 32)
  else if cls = 0 then (128, 128) else if cls = 1 then (128, 64) else (64, 32)

/-- Output blocks in row-major order: first row, first column, rows and columns of each (R138). -/
def blocksOf (m n br bc : Nat) : List (Nat × Nat × Nat × Nat) :=
  ((List.range ((m + br - 1) / br)).map fun i => (List.range ((n + bc - 1) / bc)).map fun j =>
    (i * br, j * bc, min br (m - i * br), min bc (n - j * bc))).flatten

/-- Planes of B that a MATMUL reads (R153). -/
def planeCount (fmtB minB shed : Nat) : Nat :=
  let p := if fmtB ≤ 1 then 4 else 8
  let floor := if fmtB = 1 then 3 else if fmtB = 3 then 5 else if fmtB = 4 then 6 else 1
  let m := max (max minB 1) floor
  if p ≤ m then p else max (p - shed) m

/-- A MATMUL's operands, as its descriptor and the state set give them. -/
structure MatJob where
  a : Mat
  b : Mat
  c : Mat
  rnd : Nat
  acc : Bool
  sa : Nat
  sb : Nat
  saVa : Nat
  saLd : Nat
  sbVa : Nat
  sbLd : Nat
  q : Nat
  fill : Bool
  bp : Nat
  undef : Bool
  deriving DecidableEq, Repr

/-- An address field: bits 4:0 are reserved (R142). -/
def addrOf (w : Word) : Nat := bits w 47 5 * 32

/-- A group-relative offset (R143, R145). -/
def groupOfs (on : Bool) (g gs : Nat) : Nat := if on then g * gs else 0

/-- The runs of bytes of a job's scales (R147). -/
def scaleRuns (mode va ld n k : Nat) (rowsAreN : Bool) : List (Nat × Nat) :=
  if mode = 1 then [(va, 4 * n)]
  else if mode = 2 then
    let blocks := (k + 31) / 32
    if rowsAreN then (List.range n).map fun i => (va + i * ld, blocks) else (List.range blocks).map fun j => (va + j * ld, n)
  else []

/-- The job of a MATMUL descriptor (R143, R161). -/
def matJob (t : TileSet) (g shed : Nat) (ws : List Word) : MatJob :=
  let w0 := wAt ws 0
  let fa := bits w0 55 52
  let fb := bits w0 51 48
  let fc := bits w0 47 44
  let rnd := bits w0 43 42
  let sa := bits w0 37 36
  let sb := bits w0 35 34
  let pa := bit w0 33
  let pb := bit w0 32
  let oa := groupOfs (bit w0 40) g t.gsA
  let ob := groupOfs (bit w0 39) g t.gsB
  let oc := groupOfs (bit w0 38) g t.gsC
  let a : Mat := { va := addrOf (wAt ws 1) + oa, ld := bits (wAt ws 1) 63 48 * 32, rows := t.m, cols := t.k, fmt := fa
                   planar := decide (fa ≤ 1) || (pa && decide (fa ≤ 4)), win := true }
  let b : Mat := { va := addrOf (wAt ws 2) + ob, ld := bits (wAt ws 2) 63 48 * 32, rows := t.k, cols := t.n, fmt := fb
                   planar := decide (fb ≤ 1) || (pb && decide (fb ≤ 4)), win := true }
  let c : Mat := { va := addrOf (wAt ws 3) + oc, ld := bits (wAt ws 3) 63 48 * 32, rows := t.m, cols := t.n, fmt := fc
                   planar := decide (fc ≤ 1), win := true }
  let saVa := bits (wd t.sa) 47 5 * 32 + oa
  let sbVa := bits (wd t.sb) 47 5 * 32 + ob
  let saLd := t.sa / 2 ^ 48 * 32
  let sbLd := t.sb / 2 ^ 48 * 32
  { a := a, b := b, c := c, rnd := rnd, acc := bit w0 41, sa := sa, sb := sb, saVa := saVa, saLd := saLd, sbVa := sbVa, sbLd := sbLd
    q := if pb then planeCount fb (bits w0 31 28) shed else fmtWidth fb, fill := bit w0 27, bp := t.bpZ
    undef := decide (7 < fa) || decide (7 < fb) || decide (9 < fc) || rnd == 3 || sa == 3 || sb == 3 ||
      (fa == 1 && sa != 2) || (fb == 1 && sb != 2) || (pa != decide (fa ≤ 1) && !(pa && decide (2 ≤ fa ∧ fa ≤ 4))) ||
      (pb != decide (fb ≤ 1) && !(pb && decide (2 ≤ fb ∧ fb ≤ 4))) || t.badShape }

/-- The runs of bytes of a MATMUL's scales. -/
def MatJob.scales (j : MatJob) : List (Nat × Nat) :=
  scaleRuns j.sa j.saVa j.saLd j.a.rows j.a.cols true ++ scaleRuns j.sb j.sbVa j.sbLd j.b.cols j.a.cols false

/-- C shares a place with a source of its own command, behind a window too (R161.5). -/
def State.matMeets (s : State) (j : MatJob) : Bool :=
  s.meet (s.behindWindows true j.c.runs) (s.behindWindows false (j.a.runs ++ j.b.runs) ++ j.scales)

/-- An accumulator with the saturations met: an integer, or an FP32 value (R148). -/
inductive Acc where
  | int (v : Int)
  | flt (v : Num)
  deriving DecidableEq, Repr

def Acc.num : Acc → Num
  | .int v => .ofInt v
  | .flt v => v

/-- The integer path (R148): products summed in ascending k, saturating at each. -/
def intDot : Int → Nat → List (Nat × Nat) → (Nat → Num) → (Nat → Num) → Int × Nat
  | v, n, [], _, _ => (v, n)
  | v, n, (x, y) :: r, fx, fy =>
    let p : Int := match (fx x).mul_ (fy y) with
      | .fin neg m _ => if neg then -(m : Int) else m
      | _ => 0
    let (v, o) := sat32i (v + p)
    intDot v (n + b2n o) r fx fy

/-- The floating path (R148): one block of 32 after another. -/
def fltDot (fx fy : Nat → Num) (sa sb : Nat → Num) : Nat → Nat → Num → List (Nat × Nat) → Num
  | 0, _, v, _ => v
  | _, _, v, [] => v
  | fuel + 1, j, v, xs =>
    let ps := (xs.take 32).map fun p => (fx p.1).mul_ (fy p.2)
    let b := (((blockSum ps).mul_ (sa j)).mul_ (sb j)).r32
    fltDot fx fy sa sb fuel (j + 1) (v.add32 b) (xs.drop 32)

/-- The accumulator of an output element, with its saturations, from a row of A, a column of B and their block scales. -/
def dot (fa fb : Nat) (blocks : Bool) (row col : List Nat) (sa sb : List Nat) : Acc × Nat :=
  let ps := row.zip col
  if fmtInt fa ∧ fmtInt fb ∧ ¬ blocks then
    let r := intDot 0 0 ps (decodeNum fa 0) (decodeNum fb 0)
    (.int r.1, r.2)
  else
    let scale := fun (l : List Nat) (j : Nat) => match l[j]? with | some x => e8m0 x | none => .ofInt 1
    (.flt (fltDot (decodeNum fa 0) (decodeNum fb 0) (scale sa) (scale sb) (row.length + 1) 0 .zero ps), 0)

/-- Steps 1 and 2 of R149: the value, and a saturation of the integer addition. -/
def scaleAdd (j : MatJob) (acc : Acc) (sa sb : Option Num) (c : Option Num) : Num × Nat :=
  let scaled := sa.isSome || sb.isSome
  let v := if scaled then
      let v := acc.num.r32
      let v := match sa with | some x => v.mul32 x | none => v
      match sb with | some x => v.mul32 x | none => v
    else acc.num
  match c with
  | none => (v, 0)
  | some cv =>
    match acc, cv with
    | .int a, .fin n m _ =>
      if fmtInt j.c.fmt ∧ ¬ scaled then
        let r := sat32i (a + (if n then -(m : Int) else m))
        (.ofInt r.1, b2n r.2)
      else ((v.r32.add_ cv).r32, 0)
    | _, _ => ((v.r32.add_ cv).r32, 0)

/-- FP32 scales of a range of rows or columns (SCALE mode 1). -/
def readScales (mode va i n : Nat) : TaskM (List (Option Num)) :=
  if mode = 1 then do
    let bs ← readM (va + 4 * i) (4 * n)
    return (codesOf 4 n bs).map fun c => some (f32 (BitVec.ofNat 32 c))
  else return List.replicate n none

/-- Block scales (SCALE mode 2): of A for rows, of B for blocks. -/
def readBlockScales (mode va ld i n k : Nat) : TaskM (List (List Nat)) :=
  if mode = 2 then (List.range n).mapM fun r => do
    return (← readM (va + (i + r) * ld) ((k + 31) / 32)).map (·.toNat)
  else return List.replicate n []

/-- Column c of rows. -/
def column (rows : List (List Nat)) (c : Nat) : List Nat := rows.map fun r => r.getD c 0

/-- Work that the tile of a position does: its accesses are that position's. -/
def atTile {α : Type} (pos : Nat) (x : TaskM α) : TaskM α := fun s =>
  let (r, t) := x { s with tiles := { s.tiles with at_ := some pos } }
  (r, { t with tiles := { t.tiles with at_ := none } })

/-- What the computation of an output block reads: rows of A, rows of B, their FP32 scales and their block scales, and the
present rows of C. -/
structure MatData where
  as : List (List Nat)
  bs : List (List Nat)
  sa1 : List (Option Num)
  sb1 : List (Option Num)
  sa2 : List (List Nat)
  sb2 : List (List Nat)
  cs : List (List Nat)
  deriving DecidableEq, Repr

/-- Read what the output block of rows `r0` on and columns `c0` on needs. -/
def matRead (j : MatJob) (r0 c0 nr nc : Nat) : TaskM MatData := do
  let k := j.a.cols
  let as ← (List.range nr).mapM fun i => readRow j.a (r0 + i) 0 k
  let bs ← (List.range k).mapM fun i => readElems j.b i c0 nc j.q j.fill
  let sa1 ← readScales j.sa j.saVa r0 nr
  let sb1 ← readScales j.sb j.sbVa c0 nc
  let sa2 ← readBlockScales j.sa j.saVa j.saLd r0 nr k
  let sb2 ← if j.sb = 2 then (List.range ((k + 31) / 32)).mapM fun b => do
      return (← readM (j.sbVa + b * j.sbLd + c0) nc).map (·.toNat)
    else pure []
  let cs ← (List.range nr).mapM fun i => if j.acc then readRow j.c (r0 + i) c0 nc else pure []
  return { as := as, bs := bs, sa1 := sa1, sb1 := sb1, sa2 := sa2, sb2 := sb2, cs := cs }

/-- The value of element (i, c) of an output block before its conversion, and its saturations (R148, R149). -/
def MatJob.element (j : MatJob) (d : MatData) (i c : Nat) : Num × Nat :=
  let a := dot j.a.fmt j.b.fmt (j.sa == 2 || j.sb == 2) (d.as.getD i []) (column d.bs c) (d.sa2.getD i []) (column d.sb2 c)
  let old := if j.acc then some (decodeNum j.c.fmt j.bp ((d.cs.getD i []).getD c 0)) else none
  let v := scaleAdd j a.1 (d.sa1.getD i none) (d.sb1.getD c none) old
  (v.1, a.2 + v.2)

/-- One output block of a MATMUL at a position: written whole, or not at all (R140). -/
def matBlock (j : MatJob) (g pos : Nat) (blk : Nat × Nat × Nat × Nat) : TaskM Unit := atTile pos <| atomically do
  let (r0, c0, nr, nc) := blk
  let d ← matRead j r0 c0 nr nc
  let flat := ((List.range nr).map fun i => (List.range nc).map (j.element d i)).flatten
  let s ← get
  let (codes, n, s) := s.convert pos j.c.fmt j.bp j.rnd ((flat.map (·.2)).foldl (· + ·) 0) j.undef (flat.map (·.1))
  set s
  (List.range nr).forM fun i => writeElems j.c (r0 + i) c0 ((codes.drop (i * nc)).take nc)
  modify fun s => (s.blockDone g pos n).countTile (s.tileOf pos) 0x14 1

/-- Deal work to positions in turn (R138). -/
def dealt (ps : List Nat) (i : Nat) : Nat := ps.getD (i % ps.length) 0

/-- The blocks of a MATMUL, in order. -/
def matBlocks (j : MatJob) (g : Nat) (ps : List Nat) (m : Nat) : TaskM Unit :=
  let cls := max (fmtClass j.a.fmt) (fmtClass j.b.fmt)
  let sh := passShape cls m
  (blocksOf m j.c.cols sh.1 sh.2).zipIdx.forM fun b => matBlock j g (dealt ps b.2) b.1

/-- The state set of a launch's class at a group (R137). -/
def State.tileSet (s : State) (g cls : Nat) : TileSet := at_ (at_ s.tiles.groups g {}).sets cls {}
def State.setTileSet (s : State) (g cls : Nat) (t : TileSet) : State :=
  let x := at_ s.tiles.groups g {}
  { s with tiles := { s.tiles with groups := put s.tiles.groups g { x with sets := put x.sets cls t } } }

/-- Body of MATMUL. It waits while a position of the group waits for its spare (R160). An output that shares a place with a
source is undefined, whatever the names of the two (R161). -/
def bodyMatmul (g : Nat) (l : Launch) (_ : Nat) (ws : List Word) (s : State) : CmdEnd × State :=
  let t := s.tileSet g l.cls
  let ps := s.positions g
  if !s.ready g then (.stay, s) else
  let j := matJob t g s.budget.shed ws
  let j := { j with undef := j.undef || s.matMeets j }
  let s := s.count g 0x21 1
  let s := if bit (wAt ws 0) 32 && decide (j.q < fmtWidth j.b.fmt) then s.count g 0x22 1 else s
  if t.m = 0 ∨ t.n = 0 ∨ t.k = 0 then (.next, s) else ofTask 0 (matBlocks j g ps t.m) s

/-! ### VECTOR (R144, R154, R155) -/

/-- The element-wise operations on FP32 inputs (R154). -/
def vecOp (vop : Nat) (imm x y z : Num) : Num :=
  if vop = 0 then x.add32 y else if vop = 1 then x.sub32 y else if vop = 2 then x.mul32 y
  else if vop = 3 then ((x.mul_ y).add_ z).r32
  else if vop = 4 then x.max_ y else if vop = 5 then x.min_ y
  else if vop = 6 then x.add32 imm else if vop = 7 then x.mul32 imm
  else if vop = 8 then x.max_ .zero else if vop = 9 then x
  else vecFun vop x.bits32

/-- ROW_SUM and ROW_MAX of a row (R154). -/
def rowOp (vop : Nat) : List Num → Num
  | [] => .zero
  | x :: xs => if vop = 0x20 then xs.foldl Num.add32 x else xs.foldl Num.max_ x

/-- A VECTOR command's operands. -/
structure VecJob where
  vop : Nat
  x : Mat
  y : Mat
  z : Mat
  rnd : Nat
  imm : Num
  bpX : Nat
  bpY : Nat
  bpZ : Nat
  /-- Z has the address, stride and format of X or Y: the result is that of a separate Z (R155) -/
  inPlace : Bool
  undef : Bool
  deriving DecidableEq, Repr

/-- Two matrices have the same address, stride and format (R155); addresses are modulo 2^48 (R143). -/
def Mat.same (a b : Mat) : Bool := a.va % 2 ^ 48 == b.va % 2 ^ 48 && a.ld == b.ld && a.fmt == b.fmt

def isRowOp (vop : Nat) : Bool := vop == 0x20 || vop == 0x21
def readsY (vop : Nat) : Bool := decide (vop ≤ 5)
def vopOk (vop : Nat) : Bool := decide (vop ≤ 9) || decide (0x10 ≤ vop ∧ vop ≤ 0x16) || isRowOp vop

/-- The job of a VECTOR descriptor (R144, R155, R161). -/
def vecJob (t : TileSet) (g : Nat) (ws : List Word) : VecJob :=
  let w0 := wAt ws 0
  let vop := bits w0 55 50
  let fx := bits w0 49 46
  let fy := bits w0 45 42
  let fz := bits w0 41 38
  let rnd := bits w0 37 36
  let pz := bit w0 32
  let mat := fun (w : Word) (o f c : Nat) (p : Bool) =>
    ({ va := addrOf w + o, ld := bits w 63 48 * 32, rows := t.m, cols := c, fmt := f, planar := decide (f ≤ 1) || p, win := false } : Mat)
  let x := mat (wAt ws 1) (groupOfs (bit w0 35) g t.gsA) fx t.n false
  let y := mat (wAt ws 2) (groupOfs (bit w0 34) g t.gsB) fy t.n false
  let z := mat (wAt ws 3) (groupOfs (bit w0 33) g t.gsC) fz (if isRowOp vop then 1 else t.n) (pz && decide (2 ≤ fz ∧ fz ≤ 4))
  { vop := vop, x := x, y := y, z := z, rnd := rnd, imm := f32 (BitVec.ofNat 32 (bits w0 31 0))
    bpX := t.bpX, bpY := t.bpY, bpZ := t.bpZ
    inPlace := !isRowOp vop && (x.same z || (readsY vop && y.same z))
    undef := !vopOk vop || decide (9 < fx) || decide (9 < fy) || decide (9 < fz) || rnd == 3 ||
      (pz && decide (5 ≤ fz ∧ fz ≤ 9)) || t.badShape }

/-- The runs of bytes of a VECTOR command's sources, those apart with which it works in place (R155). -/
def VecJob.sources (j : VecJob) : List (Nat × Nat) :=
  let other := fun (m : Mat) => if !isRowOp j.vop && m.same j.z then [] else m.runs
  other j.x ++ if readsY j.vop then other j.y else []

/-- The elements of a row as FP32 inputs (R154). -/
def readInputs (m : Mat) (bp r : Nat) (used : Bool) (n : Nat) : TaskM (List Num) :=
  if used then do return (← readRow m r 0 n).map fun c => (decodeNum m.fmt bp c).r32 else return []

/-- The values of a row of the result, from the rows of its inputs (R154). -/
def VecJob.rowOf (j : VecJob) (xs ys zs : List Num) : List Num :=
  if isRowOp j.vop then [rowOp j.vop xs]
  else (List.range j.x.cols).map fun c => vecOp j.vop j.imm (xs.getD c .nan) (ys.getD c .nan) (zs.getD c .nan)

/-- The values of a row of the result (R154). -/
def vecRow (j : VecJob) (r : Nat) : TaskM (List Num) := do
  let xs ← readInputs j.x j.bpX r true j.x.cols
  let ys ← readInputs j.y j.bpY r (readsY j.vop) j.x.cols
  let zs ← readInputs j.z j.bpZ r (j.vop == 3) j.x.cols
  return j.rowOf xs ys zs

/-- One band of 8 rows of a VECTOR command at a position (R138, R140). The largest of no elements is free. In place, the
operands are as the memory `src` held them when the command began (R155). -/
def vecBand (j : VecJob) (src : List Host.Cell) (g pos r0 nr : Nat) : TaskM Unit := atTile pos <| atomically do
  let vals ← (if j.inPlace then withCells src else id) <| (List.range nr).mapM fun i => vecRow j (r0 + i)
  let s ← get
  let (codes, k, s) := s.convert pos j.z.fmt j.bpZ j.rnd 0 (j.undef || (j.vop == 0x21 && j.x.cols == 0)) vals.flatten
  set s
  (List.range nr).forM fun i => writeElems j.z (r0 + i) 0 ((codes.drop (i * j.z.cols)).take j.z.cols)
  modify fun s => (s.blockDone g pos k).countTile (s.tileOf pos) 0x14 1

/-- Body of VECTOR. It waits while a position of the group waits for its spare (R160). -/
def bodyVector (g : Nat) (l : Launch) (_ : Nat) (ws : List Word) (s : State) : CmdEnd × State :=
  let t := s.tileSet g l.cls
  let ps := s.positions g
  if !s.ready g then (.stay, s) else
  let j := vecJob t g ws
  let j := { j with undef := j.undef || s.meet j.z.runs j.sources }
  ofTask 0 ((List.range ((t.m + 7) / 8)).forM fun b => vecBand j s.mem.cells g (dealt ps b) (8 * b) (min 8 (t.m - 8 * b))) s

/-! ### State and register commands (R145) -/

/-- SET_SHAPE. -/
def bodySetShape (g : Nat) (l : Launch) (_ : Nat) (ws : List Word) (s : State) : CmdEnd × State :=
  let t := s.tileSet g l.cls
  let m := bits (wAt ws 1) 16 0
  let n := bits (wAt ws 1) 48 32
  let k := bits (wAt ws 2) 16 0
  let bad := decide (65536 < m) || decide (65536 < n) || decide (65536 < k)
  (.next, s.setTileSet g l.cls { t with m := m, n := n, k := k, badShape := t.badShape || bad })

/-- SET_SCALE. -/
def bodySetScale (g : Nat) (l : Launch) (_ : Nat) (ws : List Word) (s : State) : CmdEnd × State :=
  (.next, s.setTileSet g l.cls { s.tileSet g l.cls with sa := (wAt ws 1).toNat, sb := (wAt ws 2).toNat })

/-- SET_MISC: with SEED_EN, SEED XOR the position number goes into the generators of the positions in service; a zero state
is replaced with 1 (R150). -/
def bodySetMisc (g : Nat) (l : Launch) (_ : Nat) (ws : List Word) (s : State) : CmdEnd × State :=
  let w1 := wAt ws 1
  let w2 := wAt ws 2
  let w3 := wAt ws 3
  let s := s.setTileSet g l.cls { s.tileSet g l.cls with
    gsA := bits w1 31 5 * 32, gsB := bits w1 63 37 * 32, gsC := bits w2 31 5 * 32
    bpZ := bits w3 20 16, bpY := bits w3 12 8, bpX := bits w3 4 0 }
  let seed := BitVec.ofNat 32 (bits w2 63 32)
  let ps := ((List.range 4).map (4 * g + ·)).filter fun p => s.faults.tileIn.getLsbD p
  let load := fun (v : Vector (BitVec 32) 64) (p : Nat) =>
    let x := seed ^^^ BitVec.ofNat 32 p
    put v p (if x = 0 then 1 else x)
  (.next, if bit w3 63 then { s with tiles := { s.tiles with gen := ps.foldl load s.tiles.gen } } else s)

/-- A register address: bits 1:0 are reserved. -/
def regVa (w : Word) : Nat := bits w 47 2 * 4

/-- A 32-bit read through REG_READ: a register, or memory (R324). -/
def regLoad (va : Nat) : TaskM Reg := do
  let s ← get
  match s.translate va .rd with
  | .ok da =>
    if place s.boot.otp.part128 da = .regs then
      let r := regReadAt (da - 0x5000000000) s
      set r.2
      return r.1
    else return BitVec.ofNat 32 (leNat (← readM va 4))
  | .error e => throw e

/-- A 32-bit write through REG_WRITE. -/
def regStore (va : Nat) (v : Reg) : TaskM Unit := do
  let s ← get
  match s.translate va .wr with
  | .ok da =>
    if place s.boot.otp.part128 da = .regs then regWriteAt (da - 0x5000000000) v else writeM va (leBytes 4 v.toNat)
  | .error e => throw e

/-- A write to a register pops a queue that has served its read of this array cycle (R120, R127). -/
def State.popWaits (s : State) (va : Nat) (v : Reg) : Bool :=
  match s.translate va .wr with
  | .ok da =>
    let o := (da - 0x5000000000) % 65536
    place s.boot.otp.part128 da = .regs && (da - 0x5000000000) / 65536 == 1 && decide (o < 4096) && o % 64 == 0 &&
      v.getLsbD 0 && !s.readFree (o / 64)
  | .error _ => false

/-- REG_WRITE. A POP that must wait for its array cycle keeps the command waiting (R120). -/
def bodyRegWrite (_ : Launch) (_ : Nat) (ws : List Word) (s : State) : CmdEnd × State :=
  if s.popWaits (regVa (wAt ws 1)) (rg (bits (wAt ws 2) 31 0)) then (.stay, s) else
  ofTask 0 (regStore (regVa (wAt ws 1)) (rg (bits (wAt ws 2) 31 0))) s

/-- REG_READ. -/
def bodyRegRead (_ : Launch) (_ : Nat) (ws : List Word) (s : State) : CmdEnd × State :=
  ofTask 0 (do
    let v ← regLoad (regVa (wAt ws 1))
    writeM (regVa (wAt ws 2)) (leBytes 4 v.toNat)) s

/-! ### BARRIER (R139) -/

/-- A run arrives at its next barrier. -/
def Run.arrive (r : Run) : Run := if r.atBarrier then r else { r with barriers := r.barriers + 1, atBarrier := true }

/-- Every sequencer of a launch has reached a run's k-th barrier: one whose list has ended counts as having reached all. -/
def Launch.barrierOpen (l : Launch) (k : Nat) : Bool := l.runs.all fun r => r.status == .done || decide (k ≤ r.barriers)

/-- Body of BARRIER: on one group it completes at once; on target 0x10 the group arrives, and goes on when all have. -/
def bodyBarrier (g : Nat) (l : Launch) (_ : Nat) (_ : List Word) (s : State) : CmdEnd × State :=
  if l.target != 0x10 then (.next, s) else
  let m := { l with runs := l.runs.map fun (r : Run) => if r.group = g then r.arrive else r }
  let k := match m.runOn 0x10 g with
    | some r => r.barriers
    | none => 0
  if m.barrierOpen k then
    let runs := m.runs.map fun (r : Run) => if r.group = g then { r with atBarrier := false } else r
    (.next, s.setLaunch { m with runs := runs })
  else (.hold, s.setLaunch m)

/-! ### Known-answer tests (R159, R266) -/

/-- Blocks that the command at the head of a launch's list deals to the positions of a group (R138): output blocks of a MATMUL,
bands of a VECTOR, none of another command. -/
def State.blocksAt (s : State) (g : Nat) (l : Launch) : Nat :=
  let ws := match l.heldAt g g with
    | some h => h.words
    | none => bytesWords 4 (s.peek (l.pcOf g g) 32)
  let t := s.tileSet g l.cls
  match bits (wAt ws 0) 63 56 with
  | 0x10 =>
    let j := matJob t g s.budget.shed ws
    let sh := passShape (max (fmtClass j.a.fmt) (fmtClass j.b.fmt)) t.m
    if t.m = 0 ∨ t.n = 0 ∨ t.k = 0 then 0 else (blocksOf t.m j.c.cols sh.1 sh.2).length
  | 0x20 => (t.m + 7) / 8
  | _ => 0

/-- A position has work: the command that its group's running list is at deals it a block (R138, R159). -/
def State.dealsWork (s : State) (pos : Nat) : Bool :=
  match s.runningAt (pos / 4) (pos / 4) with
  | some l => ((s.positions (pos / 4)).take (s.blocksAt (pos / 4) l)).contains pos
  | none => false

/-- A unit can be tested (R159, R266, R439): in service, not waiting for its spare, powered, and not in FOG, in which no test
runs. -/
def State.testable (s : State) : KatUnit → Bool
  | .tile p => s.dev.state != .fog && s.works p.val && !(at_ s.tiles.groups (p.val / 4) {}).gated
  | .lane l => s.dev.state != .fog &&
      (if l.val = 16 then !s.faults.laneSpareGone else s.faults.laneIn.getLsbD l.val && !s.waitsSpare 3 l.val)

/-- The counter at the last test of a unit, or at its last KAT_STARVED entry. -/
def State.tested (s : State) : KatUnit → Nat
  | .tile p => at_ s.tiles.katAt p.val 0
  | .lane l => at_ s.solver.katAt l.val 0

/-- A unit has been tested, or been reported as untested, now. -/
def State.markTested (s : State) : KatUnit → State
  | .tile p => { s with tiles := { s.tiles with katAt := put s.tiles.katAt p.val s.time.counter } }
  | .lane l => { s with solver := { s.solver with katAt := put s.solver.katAt l.val s.time.counter } }

/-- KNOWN_ANSWER_TEST (R159, R266): on a position or lane that has no work. -/
def execKnownAnswerTest (u : KatUnit) (pass : Bool) (s : State) : Host.Outcome State Fault Refusal :=
  fin s (ansParts ++ [.chars, .budget, .ll, .tiles, .layout, .solver, .calib, .devState, .faults]) <|
  if !s.testable u then s else
  match u with
  | .tile p =>
    if s.dealsWork p.val then s else
    let s := (s.countTile (s.tileOf p.val) 0x16 1).markTested u
    if pass then s else s.tileFails p.val
  | .lane l =>
    if (s.runningAt 0x21 16).isSome then s else
    let s := s.markTested u
    if pass then s else if l.val = 16 then s.spareLaneFails else s.laneFails l.val

/-- KAT_STARVED (R159, R426): a position or lane untested for 1 s. -/
def execKatStarved (u : KatUnit) (s : State) : Host.Outcome State Fault Refusal :=
  fin s (logParts ++ [.tiles, .solver]) <| if s.keeperUp && s.testable u && decide (s.tested u + cycSec ≤ s.time.counter) then
    (s.markTested u).log 0x0E 0 (match u with | .tile p => p.val | .lane l => l.val) 0 0 0
  else s

/-! ### The rows -/

/-- The OP values that a sequencer executes as NOP (R142). -/
def tileNopOp (op : Nat) : Bool := !([0x01, 0x02, 0x04, 0x05, 0x08, 0x09, 0x0A, 0x10, 0x20].contains op)

/-- Run a command of a group's list, counting it (R449). -/
def State.tileCmd (s : State) (g : Nat) (mine : Nat → Bool) (body : Launch → Nat → List Word → State → CmdEnd × State) : State :=
  s.runCmd g g 32 mine fun l pc ws t => match body l pc ws t with
    | (.stay, u) => (.stay, u)
    | (.hold, u) => (.hold, u)
    | (e, u) => (e, u.count g 0x20 1)

def execTileNop (g : Fin 16) (s : State) : Host.Outcome State Fault Refusal :=
  fin s unitParts (s.tileCmd g.val tileNopOp bodyNop)
def execTileEnd (g : Fin 16) (s : State) : Host.Outcome State Fault Refusal :=
  fin s unitParts (s.tileCmd g.val (· == 1) bodyEnd)
def execBarrier (g : Fin 16) (s : State) : Host.Outcome State Fault Refusal :=
  fin s unitParts (s.tileCmd g.val (· == 2) (bodyBarrier g.val))
def execRegWrite (g : Fin 16) (s : State) : Host.Outcome State Fault Refusal :=
  fin s (unitParts ++ [.time, .iq, .layout, .cells]) (s.tileCmd g.val (· == 4) bodyRegWrite)
def execRegRead (g : Fin 16) (s : State) : Host.Outcome State Fault Refusal :=
  fin s (unitParts ++ [.iq, .tiles, .layout, .solver, .kv, .cells]) (s.tileCmd g.val (· == 5) bodyRegRead)
def execSetShape (g : Fin 16) (s : State) : Host.Outcome State Fault Refusal :=
  fin s (unitParts ++ [.tiles]) (s.tileCmd g.val (· == 8) (bodySetShape g.val))
def execSetScale (g : Fin 16) (s : State) : Host.Outcome State Fault Refusal :=
  fin s (unitParts ++ [.tiles]) (s.tileCmd g.val (· == 9) (bodySetScale g.val))
def execSetMisc (g : Fin 16) (s : State) : Host.Outcome State Fault Refusal :=
  fin s (unitParts ++ [.tiles]) (s.tileCmd g.val (· == 10) (bodySetMisc g.val))
def execMatmul (g : Fin 16) (s : State) : Host.Outcome State Fault Refusal :=
  fin s (unitParts ++ [.tiles, .cells]) (s.tileCmd g.val (· == 0x10) (bodyMatmul g.val))
def execVector (g : Fin 16) (s : State) : Host.Outcome State Fault Refusal :=
  fin s (unitParts ++ [.tiles, .cells]) (s.tileCmd g.val (· == 0x20) (bodyVector g.val))

end Sys2Proof.Machine
end

