-- ==== Sys2Proof/Machine/Pose.lean ====
section
/-! DEFINITION. FP32 geometry: quotient and root with one rounding, rotations, poses from the ego history (R188), sectors
(R206). The order of the FP32 operations within an expression is read from the way the spec writes it (log entry 20). -/
namespace Sys2Proof.Machine

/-- a / b with b not 0, to far below an FP32 unit in the last place, exactness kept in the last bit. -/
def quotNum (a b : Nat) : Num :=
  let n := a <<< 128
  .fin false (2 * (n / b) + (if n % b = 0 then 0 else 1)) (-129)

/-- FP32 division with one rounding. -/
def Num.div32 (x y : Num) : Num :=
  match x, y with
  | .nan, _ => .nan
  | _, .nan => .nan
  | .inf _, .inf _ => .nan
  | .inf a, .fin b _ _ => .inf (a != b)
  | .fin a _ _, .inf b => .fin (a != b) 0 0
  | .fin a m e, .fin b k f =>
    if k = 0 then (if m = 0 then .nan else .inf (a != b))
    else match quotNum m k with
      | .fin _ q g => (Num.fin (a != b) q (g + e - f)).r32
      | v => v

/-- FP32 square root with one rounding. -/
def Num.sqrt32 (x : Num) : Num :=
  match x with
  | .nan => .nan
  | .inf n => if n then .nan else .inf false
  | .fin n m e =>
    if m = 0 then x
    else if n then .nan
    else
      let odd := e % 2 ≠ 0
      let m := (if odd then 2 * m else m) <<< 128
      let e := if odd then e - 1 else e
      let r := isqrt m
      (Num.fin false (2 * r + (if r * r = m then 0 else 1)) (e / 2 - 65)).r32

/-- The quotient of two whole numbers as FP32 with one rounding. -/
def ratio32 (a : Int) (b : Nat) : Num :=
  match quotNum a.natAbs b with
  | .fin _ q g => (Num.fin (decide (a < 0)) q g).r32
  | v => v

/-- A time difference in units of 2^-16 ns as FP32 seconds. -/
def secs32 (d : Int) : Num := ratio32 d 65536000000000

/-- A raw FX32 value as FP32. -/
def fx32 (raw bp : Nat) : Num := (decodeNum 9 bp raw).r32

/-- Whether a value is finite. -/
def Num.isFin : Num → Bool
  | .fin _ _ _ => true
  | _ => false

/-- x ≤ y of numbers; false with a NaN, and zeros of either sign are equal. -/
def Num.leq (x y : Num) : Bool :=
  match x, y with
  | .fin _ 0 _, .fin _ 0 _ => true
  | .nan, _ => false
  | _, .nan => false
  | x, y => x.le_ y
def Num.lt (x y : Num) : Bool := x.leq y && !y.leq x

/-! ### Vectors and rotations -/

abbrev V3 := Num × Num × Num

def V3.add (a b : V3) : V3 := (a.1.add32 b.1, a.2.1.add32 b.2.1, a.2.2.add32 b.2.2)
def V3.sub (a b : V3) : V3 := (a.1.sub32 b.1, a.2.1.sub32 b.2.1, a.2.2.sub32 b.2.2)
def V3.scale (k : Num) (a : V3) : V3 := (k.mul32 a.1, k.mul32 a.2.1, k.mul32 a.2.2)
def V3.dot (a b : V3) : Num := ((a.1.mul32 b.1).add32 (a.2.1.mul32 b.2.1)).add32 (a.2.2.mul32 b.2.2)

/-- A 3 × 3 matrix by rows. -/
abbrev M3 := V3 × V3 × V3

def M3.apply (m : M3) (v : V3) : V3 := (V3.dot m.1 v, V3.dot m.2.1 v, V3.dot m.2.2 v)
def M3.transpose (m : M3) : M3 :=
  ((m.1.1, m.2.1.1, m.2.2.1), (m.1.2.1, m.2.1.2.1, m.2.2.2.1), (m.1.2.2, m.2.1.2.2, m.2.2.2.2))
def M3.mul (a b : M3) : M3 :=
  let t := M3.transpose b
  (M3.apply t a.1, M3.apply t a.2.1, M3.apply t a.2.2)
def M3.identity : M3 :=
  let o := Num.ofInt 1
  let z := Num.zero
  ((o, z, z), (z, o, z), (z, z, o))

/-- A quaternion (w, x, y, z). -/
abbrev Quat := Num × V3

def Quat.dot (a b : Quat) : Num :=
  (((a.1.mul32 b.1).add32 (a.2.1.mul32 b.2.1)).add32 (a.2.2.1.mul32 b.2.2.1)).add32 (a.2.2.2.mul32 b.2.2.2)
def Quat.scale (k : Num) (a : Quat) : Quat := (k.mul32 a.1, V3.scale k a.2)
def Quat.add (a b : Quat) : Quat := (a.1.add32 b.1, V3.add a.2 b.2)
def Quat.neg (a : Quat) : Quat := (a.1.neg_, a.2.1.neg_, a.2.2.1.neg_, a.2.2.2.neg_)
def Quat.mul (a b : Quat) : Quat :=
  let (w, x, y, z) := a
  let (p, i, j, k) := b
  ((((w.mul32 p).sub32 (x.mul32 i)).sub32 (y.mul32 j)).sub32 (z.mul32 k),
   (((w.mul32 i).add32 (x.mul32 p)).add32 (y.mul32 k)).sub32 (z.mul32 j),
   (((w.mul32 j).sub32 (x.mul32 k)).add32 (y.mul32 p)).add32 (z.mul32 i),
   (((w.mul32 k).add32 (x.mul32 j)).sub32 (y.mul32 i)).add32 (z.mul32 p))
def Quat.normalise (a : Quat) : Quat :=
  let n := (Quat.dot a a).sqrt32
  (a.1.div32 n, a.2.1.div32 n, a.2.2.1.div32 n, a.2.2.2.div32 n)

/-- The rotation matrix of a unit quaternion. -/
def Quat.matrix (q : Quat) : M3 :=
  let (w, x, y, z) := q
  let o := Num.ofInt 1
  let d := fun (a b : Num) => (Num.ofInt 2).mul32 (a.mul32 b)
  ((o.sub32 ((d y y).add32 (d z z)), (d x y).sub32 (d w z), (d x z).add32 (d w y)),
   ((d x y).add32 (d w z), o.sub32 ((d x x).add32 (d z z)), (d y z).sub32 (d w x)),
   ((d x z).sub32 (d w y), (d y z).add32 (d w x), o.sub32 ((d x x).add32 (d y y))))

/-! ### Ego states and poses (R188, R213, R216) -/

/-- Binary point of the 14 ego quantities, PX to SIGMA_POS (R213, R216). -/
def egoBp (i : Nat) : Nat := if i < 3 then 4 else if i < 7 then 30 else if i < 10 then 8 else if i < 13 then 24 else 4

def EgoState.word (e : EgoState) (i : Nat) : Word := at_ e.w i 0

/-- Raw FX32 of ego quantity i. -/
def EgoState.raw (e : EgoState) (i : Nat) : Nat :=
  if i % 2 = 0 then bits (e.word (3 + i / 2)) 31 0 else bits (e.word (3 + i / 2)) 63 32

/-- Ego quantity i as FP32. -/
def EgoState.qty (e : EgoState) (i : Nat) : Num := fx32 (e.raw i) (egoBp i)

/-- Output time of an ego state. -/
def EgoState.time (e : EgoState) : Inst := instOf (e.word 0) (e.word 1)

def EgoState.pos (e : EgoState) : V3 := (e.qty 0, e.qty 1, e.qty 2)
def EgoState.quat (e : EgoState) : Quat := (e.qty 3, e.qty 4, e.qty 5, e.qty 6)
def EgoState.vel (e : EgoState) : V3 := (e.qty 7, e.qty 8, e.qty 9)
def EgoState.rate (e : EgoState) : V3 := (e.qty 10, e.qty 11, e.qty 12)

/-- The states that a pose is formed from (R188): one state, two consecutive ones, older first, or the newest. -/
inductive PoseFrom where
  | state (e : EgoState)
  | between (a b : EgoState)
  | beyond (e : EgoState)
  deriving DecidableEq, Repr

/-- Two consecutive states, newest first, around an instant. -/
def around (t : Int) : List EgoState → Option PoseFrom
  | [] => none
  | e :: r => if e.time.t = t then some (.state e) else match r with
    | [] => none
    | a :: _ => if a.time.t < t ∧ t < e.time.t then some (.between a e) else around t r

/-- What a pose at an instant is formed from, from the history newest first (R188). -/
def poseFrom (hist : List EgoState) (t : Inst) (extrapUs : Nat) : Option PoseFrom :=
  let h := hist.filter fun e => epochOf e.time.flags = epochOf t.flags
  match h.head? with
  | none => none
  | some n =>
    if n.time.t < t.t then (if t.t - n.time.t ≤ extrapUs * 65536000 then some (.beyond n) else none)
    else around t.t h

/-- q rotated about the axis of an angular rate for a time (R188). -/
def Quat.spin (q : Quat) (w : V3) (dt : Num) : Quat :=
  let n := (V3.dot w w).sqrt32
  if n.leq .zero then q else
  let half := (n.mul32 dt).mul32 (.fin false 1 (-1))
  let s := sin32 half
  let c := cos32 half
  Quat.mul q (c, (w.1.div32 n).mul32 s, (w.2.1.div32 n).mul32 s, (w.2.2.div32 n).mul32 s)

/-- Position and orientation at an instant (R188). -/
def PoseFrom.pose (f : PoseFrom) (t : Int) : V3 × Quat :=
  match f with
  | .state e => (e.pos, e.quat)
  | .between a b =>
    let u := ratio32 (t - a.time.t) (b.time.t - a.time.t).toNat
    let qb := if (Quat.dot a.quat b.quat).lt .zero then Quat.neg b.quat else b.quat
    (V3.add a.pos (V3.scale u (V3.sub b.pos a.pos)),
     Quat.normalise (Quat.add a.quat (Quat.scale u (Quat.add qb (Quat.neg a.quat)))))
  | .beyond e =>
    let dt := secs32 (t - e.time.t)
    (V3.add e.pos (V3.scale dt e.vel), Quat.spin e.quat e.rate dt)

/-- Longest extrapolation of the point-cloud frame, in µs (R186). -/
def Cloud.extrap (c : Cloud) : Nat := bits (wAt c.cmd 0) 43 32

/-- The pose at an instant (R188). -/
def State.poseAt (s : State) (t : Inst) : Option (V3 × Quat) :=
  (poseFrom s.ego.hist t s.cloud.extrap).map fun f => f.pose t.t

/-- A pose as the frame context holds it. -/
def storePose (p : V3 × Quat) : Pose :=
  { p := [p.1.1.bits32, p.1.2.1.bits32, p.1.2.2.bits32], q := [p.2.1.bits32, p.2.2.1.bits32, p.2.2.2.1.bits32, p.2.2.2.2.bits32] }

def Pose.load (p : Pose) : V3 × Quat :=
  let f := fun (l : List (BitVec 32)) i => f32 (l.getD i 0)
  ((f p.p 0, f p.p 1, f p.p 2), f p.q 0, f p.q 1, f p.q 2, f p.q 3)

/-! ### Sectors (R206) -/

/-- Sector within the first quadrant, a > 0 and b ≥ 0, by tan 22.5° = √2 - 1 and tan 67.5° = √2 + 1. -/
def quarterSector (a b : Int) : Nat :=
  if (a + b) * (a + b) < 2 * a * a then 0 else if b < a then 1 else if (b - a) * (b - a) < 2 * a * a then 2 else 3

/-- Sector of a point of the plane; of the origin, 0. -/
def sectorOf (x y : Int) : Nat :=
  if 0 < x ∧ 0 ≤ y then quarterSector x y
  else if x ≤ 0 ∧ 0 < y then 4 + quarterSector y (-x)
  else if x < 0 ∧ y ≤ 0 then 8 + quarterSector (-x) (-y)
  else if 0 ≤ x ∧ y < 0 then 12 + quarterSector (-y) x
  else 0

/-- Sector of a point with FP32 coordinates, none where one is not finite. -/
def sectorNum (x y : Num) : Option Nat :=
  match x, y with
  | .fin a m e, .fin b k f =>
    let l := min e f
    some (sectorOf (signedAt a m e l) (signedAt b k f l))
  | _, _ => none

/-! ### Calibration records (R277, R278) -/

/-- The values in force of an entry: rotation, translation, TCAL. -/
structure Extrinsics where
  rot : M3
  trans : V3
  tcal : Int

/-- FP32 value i of a bank, from its words. -/
def bankF (b : List Word) (i : Nat) : Num :=
  f32 (BitVec.ofNat 32 (if i % 2 = 0 then bits (wAt b (i / 2)) 31 0 else bits (wAt b (i / 2)) 63 32))

def bankRot (b : List Word) : M3 :=
  ((bankF b 0, bankF b 1, bankF b 2), (bankF b 3, bankF b 4, bankF b 5), (bankF b 6, bankF b 7, bankF b 8))
def bankTrans (b : List Word) : V3 := (bankF b 9, bankF b 10, bankF b 11)

/-- A rotation is orthonormal to within 10^-6 and all values of a bank are finite (R288.2). -/
def bankOk (b : List Word) : Bool :=
  let rows := [(bankF b 0, bankF b 1, bankF b 2), (bankF b 3, bankF b 4, bankF b 5), (bankF b 6, bankF b 7, bankF b 8)]
  let dot := fun (u v : V3) => ((u.1.mul_ v.1).add_ (u.2.1.mul_ v.2.1)).add_ (u.2.2.mul_ v.2.2)
  let near := fun (x : Num) (one : Int) =>
    let d := (x.mul_ (Num.ofInt 1000000)).add_ (Num.ofInt (-1000000 * one))
    d.leq (Num.ofInt 1) && (Num.ofInt (-1)).leq d
  ((List.range 12).all fun i => (bankF b i).isFin) && ((List.range 6).all fun i => (bankF b (14 + i)).isFin) &&
  (rows.zipIdx.all fun u => rows.zipIdx.all fun v => near (dot u.1 v.1) (if u.2 = v.2 then 1 else 0))

/-- The record of an entry with refinement enabled holds another header or other banks than the keeper left there (R288.1). -/
def State.tampered (s : State) (i : Nat) : Bool :=
  let r := at_ s.calib.refine i {}
  let va := (s.entry i).calVa / 64 * 64
  bits r.w0 28 16 != 0 && !r.kept.isEmpty && r.keptAt == va && s.peek va 320 != r.kept

/-- The values of an entry's record are undefined: another agent has written it, or its factory bank is no rotation with finite
values (R288.1, R288.2). -/
def State.badRecord (s : State) (i : Nat) : Bool :=
  s.tampered i || !bankOk (bytesWords 16 (s.peek ((s.entry i).calVa / 64 * 64 + 320) 128))

/-- The keeper notes the record of an entry as it stands. -/
def State.keepRecord (s : State) (i : Nat) : State :=
  let va := (s.entry i).calVa / 64 * 64
  let r := { at_ s.calib.refine i {} with kept := s.peek va 320, keptAt := va }
  { s with calib := { s.calib with refine := put s.calib.refine i r } }

/-- Values in force that are undefined (R288). -/
def freeExtrinsics (k : Nat) : Extrinsics :=
  let f := fun i => f32 (Config.freeReg (k + i))
  { rot := ((f 0, f 1, f 2), (f 3, f 4, f 5), (f 6, f 7, f 8)), trans := (f 9, f 10, f 11)
    tcal := sgn 64 ((Config.freeReg (k + 12)).toNat * 4294967296 + (Config.freeReg (k + 13)).toNat) }

/-- Read the bank in force of an entry (R191, R278); CAL_VA 0 is the identity. -/
def readExtrinsics (i : Nat) : TaskM Extrinsics := do
  let s ← get
  let va := (s.entry i).calVa / 64 * 64
  if va = 0 then return { rot := .identity, trans := (.zero, .zero, .zero), tcal := 0 }
  let w0 ← readWords va 1
  let b ← readWords (va + (if bit (wAt w0 0) 0 then 192 else 64)) 16
  let s ← get
  if s.badRecord i then
    let (k, s) := s.take 14
    set s
    return freeExtrinsics k
  return { rot := bankRot b, trans := bankTrans b, tcal := (wAt b 6).toInt }

end Sys2Proof.Machine
end

