-- ==== Sys2Proof/Machine/Clouds.lean ====
section
/-! DEFINITION. The point-cloud engine (ch. 08): frames, deskew, voxel hash, rule books, neighbours. -/
namespace Sys2Proof.Machine

/-! ### Writes of a command -/

/-- Write words; where the command's values are undefined (R212.1), free bytes. -/
def putWords (bad : Bool) (va : Nat) (ws : List Word) : TaskM Unit := do
  let s ← get
  let (k, s) := s.take (if bad then 8 * ws.length else 0)
  set s
  writeM va (if bad then freeBytes k (8 * ws.length) else wordBytes ws)

/-- Bytes of a range read as 0 from now on, for whole pieces of a checked write. -/
def State.zeroAt (s : State) : List (Nat × Nat × Place) → State
  | [] => s
  | (da, n, pl) :: r =>
    let m := s.mem
    let off := fun (w : Nat) => decide (w < da ∨ da + n ≤ w)
    let s := if pl = .gather ∨ pl = .scatter then s else
      ({ s with mem := { m with cells := m.cells.filter fun c => off c.1
                                ueWords := m.ueWords.filter off, ceWords := m.ceWords.filter off
                                spoilt := m.spoilt ||| s.packagesAt da n
                                wrote := s.wroteAt da n } }).touch pl da n true
    s.zeroAt r

/-- Write zeros over a range of whole words. DESIGN CHOICE (log entry 49): the whole range is checked first, so that a FRAME_BEGIN that
meets a task fault has cleared none of it (R187). -/
def zeroM (va n : Nat) : TaskM Unit := do
  let ps ← checkWrite va n
  modify fun s => s.zeroAt ps

/-! ### Frame context (R186, R187) -/

def Cloud.edgeK (c : Cloud) : Nat := bits (wAt c.cmd 0) 51 48
def Cloud.slots (c : Cloud) : Nat := 2 ^ bits (wAt c.cmd 0) 46 44
def Cloud.ovfCap (c : Cloud) : Nat := bits (wAt c.cmd 0) 15 8
def Cloud.truncCap (c : Cloud) : Nat := bits (wAt c.cmd 0) 7 0
def Cloud.hashVa (c : Cloud) : Nat := bits (wAt c.cmd 5) 47 12 * 4096
def Cloud.pointVa (c : Cloud) : Nat := bits (wAt c.cmd 6) 47 12 * 4096
def Cloud.recordVa (c : Cloud) : Nat := bits (wAt c.cmd 7) 47 6 * 64

/-- Hash region, point store and frame record (R186, R192, R196, R207); none before the first FRAME_BEGIN. -/
def Cloud.areas (c : Cloud) : List Area :=
  if c.cmd.isEmpty then [] else
  [{ runs := [(c.hashVa, 5242880)] }, { runs := [(c.pointVa, 4194304 * c.slots)] }, { runs := [(c.recordVa, 88)] }]

/-- The values written to the hash, the point store and the record are undefined (R212.1, R212.2, R212.4). -/
def Cloud.badHash (c : Cloud) : Bool := c.undefHash || c.mixed
def Cloud.badPoints (c : Cloud) : Bool := c.undefPoints || c.mixed
def Cloud.badRecord (c : Cloud) : Bool := c.undefRecord || c.mixed

/-- Two areas overlap; the same tensor under two names is one. -/
def State.clash (s : State) (a b : Area) : Bool := (a.feat.isNone || a.feat != b.feat) && s.meet a.runs b.runs

/-- The areas of the book slots but one. -/
def State.bookAreas (s : State) (but : Option Nat) : List Area :=
  (((List.range 64).filter fun i => some i != but).map fun i => (at_ s.cloud.books i {}).areas).flatten

/-- What of a command's areas overlaps another area or a command list, by their order; the areas of other commands that they
overlap take free values, as their own do when it has written them (R212.4). -/
def State.clashes (s : State) (mine others : List Area) : List Bool :=
  mine.zipIdx.map fun a => others.any (s.clash a.1) || s.meet a.1.runs s.listRuns ||
    mine.zipIdx.any fun b => a.2 != b.2 && s.meet a.1.runs b.1.runs

/-- Free values in areas. -/
def State.freeAreas (s : State) (as : List Area) : State := s.freeAt (s.places (as.map (·.runs)).flatten)

/-- FRAME_BEGIN's fields leave the values written undefined (R212.1). -/
def Cloud.reserved (c : Cloud) : Bool :=
  decide (c.edgeK < 3) || decide (11 < c.edgeK) || decide (5 < bits (wAt c.cmd 0) 46 44)

/-- A frame with what of it is undefined (R212.1, R212.4). -/
def State.openFrame (s : State) (c : Cloud) : Cloud :=
  let m := s.clashes c.areas (s.bookAreas none)
  let at_ := fun i => c.reserved || m.getD i false
  { c with undefHash := at_ 0, undefPoints := at_ 1, undefRecord := at_ 2 }

/-- A command of a launch uses the open frame (R212.2): commands of two launches are interleaved when an earlier one comes
back. -/
def State.frameUse (s : State) (id : Nat) : State :=
  let c := s.cloud
  if !c.isOpen || c.users.head? == some id then s
  else { s with cloud := { c with users := id :: c.users, mixed := c.mixed || c.users.contains id } }

/-- A box test on one axis (R191): signed 16-bit limits. -/
def inBox (w3 w4 : Word) (axis : Nat) (c : Int) : Bool :=
  let f := fun (w : Word) => sgn 16 (bits w (16 * axis + 15) (16 * axis))
  decide (f w3 ≤ c ∧ c ≤ f w4)

/-- Start of the current period of the characteristic that launched a list; the instant a submitted launch fell due (R187,
R368), in 2^-16 ns. -/
def State.periodStart16 (s : State) (l : Launch) : Int :=
  (if l.char < 4 then (s.char l.char).periodStart else l.slotAt) / 4294967296

/-- A reference time by REF_MODE 0 or 1 (R187). -/
def State.refTime (s : State) (l : Launch) (mode : Nat) (w1 w2 : Word) : Inst :=
  if mode = 0 then instOf w1 w2
  else { t := s.periodStart16 l + bits w1 31 0 * 51200, flags := s.time.flags }

/-- FRAME_BEGIN (R187). -/
def frameBegin (l : Launch) (ws : List Word) : TaskM Unit := do
  let s ← get
  let ref := s.refTime l (b2n (bit (wAt ws 0) 55)) (wAt ws 1) (wAt ws 2)
  let old := s.cloud
  let c : Cloud := { books := old.books, stale := old.stale, cmd := ws, ref := ref, users := [l.id] }
  let hit := (s.bookAreas none).filter fun b => c.areas.any (s.clash b)
  let c := s.openFrame c
  set ({ s with cloud := { old with isOpen := false } }.freeAreas hit)
  if c.badHash then putWords true c.hashVa (List.replicate 524288 0)
  else zeroM c.hashVa 4194304
  let s ← get
  let pose := (poseFrom s.ego.hist ref c.extrap).map fun f => storePose (f.pose ref.t)
  set { s with cloud := { c with isOpen := true, pose := pose, noEgoRef := pose.isNone } }

/-! ### The voxel hash (R192 to R195) -/

/-- A cell key: coordinates and level. -/
structure Key where
  x : Int
  y : Int
  z : Int
  level : Nat
  deriving DecidableEq, Repr

/-- First slot of a key (R193). -/
def Key.hash (k : Key) : Nat :=
  let u := fun (i : Int) => BitVec.ofNat 32 (fld 16 i)
  let h := (u k.x * 0x9E3B#32) ^^^ (u k.y * 0x85EB#32) ^^^ (u k.z * 0xC2B3#32) ^^^ BitVec.ofNat 32 (k.level * 65536)
  (h ^^^ (h >>> 18)).toNat % 262144

/-- w0 of the cell of a key (R192). -/
def Key.word (k : Key) : Word := pack [(1, 63, 63), (k.level, 62, 61), (fld 16 k.z, 47, 32), (fld 16 k.y, 31, 16), (fld 16 k.x, 15, 0)]

/-- A cell's w0 names a key. -/
def Key.at_ (k : Key) (w : Word) : Bool :=
  bit w 63 && bits w 62 61 == k.level && bits w 47 32 == fld 16 k.z && bits w 31 16 == fld 16 k.y && bits w 15 0 == fld 16 k.x

/-- What a probe finds: a cell with its words, an empty slot, or no slot. -/
inductive Probe where
  | found (slot : Nat) (w1 : Word)
  | empty (slot : Nat)
  | none
  deriving DecidableEq, Repr

/-- Probe for a key from step i on (R193); probes beyond the first are counted. -/
def probeFrom (hashVa : Nat) (k : Key) : Nat → Nat → TaskM Probe
  | 0, _ => return .none
  | fuel + 1, i => do
    let slot := (k.hash + i * (i + 1) / 2) % 262144
    let ws ← readWords (hashVa + 16 * slot) 2
    modify fun s => if i = 0 then s else s.count 17 0x41 1
    if !bit (wAt ws 0) 63 then return .empty slot
    else if k.at_ (wAt ws 0) then return .found slot (wAt ws 1)
    else probeFrom hashVa k fuel (i + 1)

def probe (k : Key) : TaskM Probe := do
  let s ← get
  probeFrom s.cloud.hashVa k 16 0

/-- Sector of a cell's centre (R206): the centre is an odd multiple of half an edge. -/
def Key.sector (k : Key) : Nat := sectorOf (2 * k.x + 1) (2 * k.y + 1)

/-- A cell is dropped (R195). -/
def State.dropCell (s : State) (k : Key) : State :=
  ({ s with cloud := { s.cloud with
    cellsDropped := sat32 (s.cloud.cellsDropped + 1), truncated := true
    truncSectors := s.cloud.truncSectors ||| BitVec.ofNat 16 (2 ^ k.sector) } }).count 17 0x43 1

/-- Create a cell at an empty slot (R194 step 3): site-list word, then cell; answers its w1. -/
def createCell (bad : Bool) (k : Key) (slot : Nat) : TaskM Word := do
  let s ← get
  let site := s.cloud.sites
  let w1 := pack [(site, 17, 0)]
  let (f, s) := s.take (if bad then 4 else 0)
  set s
  writeM (s.cloud.hashVa + 4194304 + 4 * site) (if bad then freeBytes f 4 else leBytes 4 slot)
  putWords bad (s.cloud.hashVa + 16 * slot) [k.word, w1]
  modify fun s => ({ s with cloud := { s.cloud with sites := site + 1 } }).count 17 0x42 1
  return w1

/-- Find or create the cell of a key (R194): its slot and w1, or none where it is dropped (R195). -/
def findOrCreate (bad : Bool) (k : Key) : TaskM (Option (Nat × Word)) := do
  match ← probe k with
  | .found slot w1 => return some (slot, w1)
  | .empty slot =>
    let s ← get
    if s.cloud.sites < 262144 then return some (slot, ← createCell bad k slot)
    else
      set (s.dropCell k)
      return none
  | .none =>
    modify fun s => s.dropCell k
    return none

/-- Insert a point into a cell (R194, R196): the point record, then the cell. -/
def insertPoint (k : Key) (sweep : Nat) (rec : List Word) : TaskM Unit := do
  let s ← get
  let c := s.cloud
  match ← findOrCreate c.badHash k with
  | none => return ()
  | some (slot, w1) =>
    let stored := bits w1 29 24
    let site := bits w1 17 0
    let room := decide (stored < c.slots)
    if room then putWords c.badPoints (c.pointVa + (site * c.slots + stored) * 16) rec
    else modify fun s => { s with cloud := { s.cloud with notStored := sat32 (s.cloud.notStored + 1) } }
    putWords c.badHash (c.hashVa + 16 * slot) [k.word,
      pack [(min 65535 (bits w1 63 48 + 1), 63, 48), (max (bits w1 47 32) sweep, 47, 32),
        (if room then stored + 1 else stored, 29, 24), (site, 17, 0)]]

/-! ### Deskew (R189 to R191) -/

/-- A unit that a consumer reads: its entry and kind, STAMP words so far, the entry's values in force, the DATA words left. -/
structure UnitIn where
  entry : Nat
  mine : Bool
  stamps : List Word
  ext : Extrinsics
  left : Nat

/-- DATA words of a unit by its header (R93, R94). -/
def dataWords (h : Word) : Nat :=
  match bits h 53 50 with
  | 0 => 2
  | 1 => bits h 25 16
  | 2 => (bits h 23 16 + 5) / 6
  | 3 => 1 + (bits h 23 16 + 5) / 6
  | _ => 0

/-- The unit time that three STAMP words carry (R116). -/
def stampOf (ws : List Word) : Inst :=
  let p := fun i => wAt ws i
  instOf (pack [(bits (p 0) 57 26, 63, 32), (bits (p 1) 57 26, 31, 0)])
    (pack [(bits (p 1) 25 10, 63, 48), (bits (p 2) 25 10, 47, 32), (bits (p 2) 57 26, 31, 0)])

/-- floor of v / 2^k of a finite value. -/
def floorPow (n : Bool) (m : Nat) (e : Int) (k : Nat) : Int :=
  let v := signedAt n m e (min e 0)
  v / (2 : Int) ^ (((k : Int) - min e 0).toNat)

/-- Position within a cell in units of 2^(k - 16), truncated (R196). -/
def withinCell (v : Num) (k : Nat) : Nat :=
  match v with
  | .fin n m e =>
    let b := min e (-64)
    let x := signedAt n m e b
    ((x * 65536 / (2 : Int) ^ (((k : Int) - b).toNat)) % 65536).toNat
  | _ => 0

/-- Cell coordinate of a coordinate, none where it is not finite. -/
def cellOf (v : Num) (k : Nat) : Option Int :=
  match v with
  | .fin n m e => some (floorPow n m e k)
  | _ => none

def State.cloudCount (s : State) (f : Cloud → Cloud) : State := { s with cloud := f s.cloud }

/-- The point of a DATA word in sensor axes (R191). -/
def sensorPoint (d geom : Word) : V3 :=
  let az := ((Num.ofInt (bits d 15 0)).mul32 (f32 0x40C90FDB#32)).mul32 (.fin false 1 (-16))
  let az := az.add32 (f32 (BitVec.ofNat 32 (bits geom 63 32)))
  let el := f32 (BitVec.ofNat 32 (bits geom 31 0))
  let r := Num.ofInt (bits d 33 16)
  V3.scale r ((cos32 el).mul32 (cos32 az), (cos32 el).mul32 (sin32 az), sin32 el)

/-- A point in the axes of the reference pose: from sensor to body axes, to the pose at its time, and back (R191). -/
def UnitIn.deskewed (u : UnitIn) (ref pt : V3 × Quat) (ps : V3) : V3 :=
  let pb := V3.add (M3.apply u.ext.rot ps) u.ext.trans
  M3.apply (M3.transpose (Quat.matrix ref.2)) (V3.sub (V3.add (M3.apply (Quat.matrix pt.2) pb) pt.1) ref.1)

/-- The time of a point of a unit (R191). -/
def UnitIn.pointTime (u : UnitIn) (d : Word) : Inst :=
  let ut := stampOf u.stamps
  { t := ut.t + (8 * bits d 59 49 * 65536 : Nat) + u.ext.tcal, flags := ut.flags }

/-- The record of a stored point (R196). -/
def UnitIn.record (u : UnitIn) (sweep k : Nat) (d : Word) (pr : V3) (dt : Int) : List Word :=
  [pack [(bits d 41 34, 63, 56), (bits d 48 42, 54, 48), (withinCell pr.2.2 k, 47, 32), (withinCell pr.2.1 k, 31, 16),
      (withinCell pr.1 k, 15, 0)],
   pack [(sweep, 63, 48), (u.entry, 45, 40), (fld 32 dt, 31, 0)]]

/-- Deskew one point of a unit (R191). -/
def deskewPoint (sweep geomVa : Nat) (u : UnitIn) (d : Word) : TaskM Unit := do
  let s ← get
  let c := s.cloud
  let t := u.pointTime d
  if epochOf t.flags ≠ epochOf c.ref.flags then
    set (s.cloudCount fun c => { c with epochMiss := sat32 (c.epochMiss + 1) })
  else
    match c.pose, s.poseAt t with
    | some ref, some pt =>
      let dt := (t.t - c.ref.t + 32768) / 65536
      let geom ← readWords (geomVa + 8 * bits d 48 42) 1
      let pr := u.deskewed ref.load pt (sensorPoint d (wAt geom 0))
      let k := c.edgeK
      match cellOf pr.1 k, cellOf pr.2.1 k, cellOf pr.2.2 k with
      | some x, some y, some z =>
        if inBox (wAt c.cmd 3) (wAt c.cmd 4) 0 x && inBox (wAt c.cmd 3) (wAt c.cmd 4) 1 y &&
            inBox (wAt c.cmd 3) (wAt c.cmd 4) 2 z then
          if c.points = 2097152 then
            set (s.cloudCount fun c => { c with overflow := c.overflow ||| BitVec.ofNat 64 (2 ^ u.entry) })
          else
            modify fun s => (s.cloudCount fun c => { c with points := c.points + 1 }).count 17 0x40 1
            insertPoint { x := x, y := y, z := z, level := 0 } sweep (u.record sweep k d pr dt)
        else modify fun s => s.cloudCount fun c => { c with outOfBox := sat32 (c.outOfBox + 1) }
      | _, _, _ => modify fun s => s.cloudCount fun c => { c with outOfBox := sat32 (c.outOfBox + 1) }
    | _, _ => set (s.cloudCount fun c => { c with egoMiss := sat32 (c.egoMiss + 1) })

/-- A GAP word met by DESKEW (R190). -/
def State.cloudGap (s : State) (q : Nat) (w : Word) : State :=
  if bits w 59 56 = 0 then s.cloudCount fun c => { c with gapped := c.gapped ||| BitVec.ofNat 64 (2 ^ bits w 53 48) }
  else
    let mask : BitVec 64 := (List.range 64).foldl (fun a e =>
      if (s.entry e).enabled && (s.entry e).queue == q then a ||| BitVec.ofNat 64 (2 ^ e) else a) 0
    s.cloudCount fun c => { c with queueLost := true, gapped := c.gapped ||| mask }

/-- An engine reads one word of a queue (R120); an uncorrectable error is a task fault (R125). -/
def popM (q : Nat) : TaskM Word := do
  let (w, t) := (← get).popQueue q
  set (t.markRead q)
  match w with
  | some w => return w
  | none => throw .uncorrectable

/-- What the reader of a queue does with one word at which a unit begins. -/
def deskewHeader (mask : Word) (w : Word) : TaskM UnitIn := do
  let e := bits w 59 54
  let mine := bits w 53 50 == 1 && bit mask e
  if mine then
    let x ← readExtrinsics e
    return { entry := e, mine := true, stamps := [], ext := x, left := dataWords w }
  else
    modify fun s => s.cloudCount fun c => { c with foreign_ := sat32 (c.foreign_ + 1) }
    return { entry := e, mine := false, stamps := [], ext := { rot := .identity, trans := (.zero, .zero, .zero), tcal := 0 }
             left := dataWords w }

/-- DESKEW's reading loop (R190): `n0` words noted, `nmax` units at most, `nr` words and `nu` units read so far. It answers
whether the command completes; a unit that stops for want of words has not completed. -/
def deskewLoop (q sweep geomVa : Nat) (mask : Word) (n0 nmax : Nat) : Nat → Nat → Nat → Option UnitIn → TaskM Bool
  | 0, _, _, u => return u.isNone
  | fuel + 1, nr, nu, none => do
    if n0 ≤ nr ∨ (nmax ≠ 0 ∧ nmax ≤ nu) then return true
    let w ← popM q
    match tagOf w with
    | 0 => return true
    | 2 => do
      let u ← deskewHeader mask w
      deskewLoop q sweep geomVa mask n0 nmax fuel (nr + 1) (nu + 1) (some u)
    | 3 => do
      modify fun s => s.cloudGap q w
      deskewLoop q sweep geomVa mask n0 nmax fuel (nr + 1) nu none
    | _ => deskewLoop q sweep geomVa mask n0 nmax fuel (nr + 1) nu none
  | fuel + 1, nr, nu, some u => do
    let w ← popM q
    match tagOf w with
    | 0 => return false
    | 2 => do
      let u ← deskewHeader mask w
      deskewLoop q sweep geomVa mask n0 nmax fuel (nr + 1) (nu + 1) (some u)
    | 3 => do
      modify fun s => s.cloudGap q w
      deskewLoop q sweep geomVa mask n0 nmax fuel (nr + 1) nu none
    | 4 =>
      let v := { u with stamps := u.stamps ++ [w] }
      deskewLoop q sweep geomVa mask n0 nmax fuel (nr + 1) nu (if v.stamps.length = 3 ∧ u.left = 0 then none else some v)
    | _ => do
      if u.mine then deskewPoint sweep geomVa u w
      deskewLoop q sweep geomVa mask n0 nmax fuel (nr + 1) nu (if u.left ≤ 1 then none else some { u with left := u.left - 1 })

/-- DESKEW (R189, R190). A unit whose words have not all arrived keeps the command waiting with the N0 that it noted when it
began. -/
def bodyDeskew (l : Launch) (pc : Nat) (ws : List Word) (s : State) : CmdEnd × State :=
  let s := s.frameUse l.id
  let w0 := wAt ws 0
  let q := bits w0 53 48
  let n := match s.cloud.noted with
    | some (id, at_, n) => if id = l.id ∧ at_ = pc then n else (s.queue q).occupancy
    | none => (s.queue q).occupancy
  let keep := s.cloudCount fun c => { c with noted := some (l.id, pc, n) }
  let s := s.cloudCount fun c => { c with noted := none }
  match (deskewLoop q (bits w0 47 32) (bits (wAt ws 1) 47 3 * 8) (wAt ws 2) n (bits w0 15 0) (n + 1100) 0 0 none).go s with
  | (.ok true, t) => (.next, t)
  | (.ok false, _) => (.hold, keep)
  | (.error _, t) => (.fault 0, t)

/-! ### Rule books (R197 to R201) -/

/-- Offsets of a kind (R198). -/
def offsetsOf (kind ks : Nat) : Nat := if kind = 0 then (2 * ks + 1) ^ 3 else if kind = 1 then 8 else 1

/-- A cell of the site list: its key. -/
def siteKey (s : Nat) : TaskM Key := do
  let st ← get
  let n := leNat (← readM (st.cloud.hashVa + 4194304 + 4 * s) 4)
  let w ← readWords (st.cloud.hashVa + 16 * n) 1
  let f := fun hi lo => sgn 16 (bits (wAt w 0) hi lo)
  return { x := f 15 0, y := f 31 16, z := f 47 32, level := bits (wAt w 0) 62 61 }

/-- A coordinate outside 16 signed bits is absent (R198). -/
def keyOk (k : Key) : Bool :=
  let f := fun (i : Int) => decide (-32768 ≤ i ∧ i ≤ 32767)
  f k.x && f k.y && f k.z

/-- A rule as it is built: offset, input site, output site or map cell. -/
abbrev Rule := Nat × Nat × Nat

/-- The neighbour of a site at an offset of SUBM (R198). -/
def Key.neighbour (k : Key) (ks o : Nat) : Key :=
  let n := 2 * ks + 1
  let d := fun (i : Nat) => ((o / n ^ i % n : Nat) : Int) - (ks : Int)
  { x := k.x + d 0, y := k.y + d 1, z := k.z + d 2, level := k.level }

/-- The rule of an output site of SUBM for an offset, if it has one (R198). -/
def submRule (ks s : Nat) (k : Key) (o : Nat) : TaskM (List Rule) :=
  if keyOk (k.neighbour ks o) then do
    match ← probe (k.neighbour ks o) with
    | .found _ w1 => return [(o, bits w1 17 0, s)]
    | _ => return []
  else return []

/-- The rules of an output site of SUBM, offsets ascending (R198). -/
def submRules (ks s : Nat) (k : Key) : TaskM (List Rule) := do
  return (← (List.range ((2 * ks + 1) ^ 3)).mapM (submRule ks s k)).flatten

/-- The rule of an input site of DOWN (R198). -/
def downRule (bad : Bool) (s : Nat) (k : Key) : TaskM (List Rule) := do
  let b := fun (i : Int) => (i % 2).toNat
  let p : Key := { x := k.x / 2, y := k.y / 2, z := k.z / 2, level := k.level + 1 }
  match ← findOrCreate bad p with
  | some (_, w1) => return [(b k.x + 2 * b k.y + 4 * b k.z, s, bits w1 17 0)]
  | none => return []

/-- The rule of an input site of MAP (R198). -/
def mapRule (w8 : Word) (s : Nat) (k : Key) : List Rule :=
  let sh := (2 : Int) ^ bits w8 31 29
  let u := (k.x - sgn 16 (bits w8 63 48)) / sh
  let v := (k.y - sgn 16 (bits w8 47 32)) / sh
  if 0 ≤ u ∧ u < bits w8 26 16 ∧ 0 ≤ v ∧ v < bits w8 10 0 then [(0, s, v.toNat * bits w8 26 16 + u.toNat)] else []

/-- What the scan of the sites builds (R198, R199). -/
structure Built where
  /-- in the order built, newest first -/
  rules : List Rule := []
  total : Nat := 0
  dropped : Nat := 0

/-- An output site is dropped from a full book (R199). -/
def State.dropSite (s : State) (k : Key) : State :=
  s.cloudCount fun c => { c with
    truncated := true, bookTruncated := true, truncSectors := c.truncSectors ||| BitVec.ofNat 16 (2 ^ k.sector) }

/-- Scan the sites of a level in site order. -/
def scanSites (bad : Bool) (kind ks level : Nat) (w8 : Word) : List Nat → Built → TaskM Built
  | [], b => return b
  | s :: r, b => do
    let k ← siteKey s
    if k.level ≠ level then scanSites bad kind ks level w8 r b
    else if kind = 0 ∧ b.dropped ≠ 0 then
      modify fun s => s.dropSite k
      scanSites bad kind ks level w8 r { b with dropped := b.dropped + 1 }
    else
      let rs ← if kind = 0 then submRules ks s k else if kind = 1 then downRule bad s k else pure (mapRule w8 s k)
      if 8388608 < b.total + rs.length then
        modify fun s => s.dropSite k
        scanSites bad kind ks level w8 r { b with dropped := b.dropped + 1 }
      else scanSites bad kind ks level w8 r { b with rules := rs.reverse ++ b.rules, total := b.total + rs.length }

/-- The index of each offset's first rule. -/
def starts : Nat → List Nat → List Nat
  | _, [] => []
  | a, c :: r => a :: starts (a + c) r

/-- Sites of a level. -/
def sitesOf (level : Nat) : TaskM (List Nat) := do
  let s ← get
  (List.range s.cloud.sites).filterM fun i => do return (← siteKey i).level == level

/-- The output rows that ZERO clears (R201). -/
def outputRows (kind level : Nat) (w8 : Word) : TaskM (List Nat) :=
  if kind = 0 then sitesOf level else if kind = 1 then sitesOf (level + 1)
  else return List.range (bits w8 26 16 * bits w8 10 0)

/-- Write COUT elements of 0.0 to output rows. -/
def zeroRows (outVa ld cout : Nat) : List Nat → TaskM Unit
  | [] => return ()
  | r :: rs => do
    writeM (outVa + r * ld) (List.replicate (4 * cout) 0)
    zeroRows outVa ld cout rs

/-- A RULES descriptor whose fields leave rule book and fragment undefined (R212.1). -/
def rulesBad (kind ks level : Nat) (ws : List Word) : Bool :=
  let w0 := wAt ws 0
  let cout := bits (wAt ws 4) 15 0
  let w8 := wAt ws 8
  let side := fun (n : Nat) => n == 0 || decide (1024 < n)
  bits w0 49 48 == 3 || bits w0 47 46 == 3 || (kind == 1 && level == 3) ||
  decide (bits w0 35 32 < 2) || decide (7 < bits w0 35 32) || decide (7 < bits w0 31 28) || bits w0 27 26 == 3 ||
  bits (wAt ws 4) 31 16 == 0 || cout == 0 || (kind == 2 && (decide (256 < cout) || side (bits w8 26 16) || side (bits w8 10 0))) ||
  ks == 3

/-- The tile fragment of one offset: 4 descriptors of 4 words (R201). -/
def fragmentOf (ws : List Word) (book o count : Nat) : List Word :=
  let w0 := wAt ws 0
  let inLd := bits (wAt ws 1) 63 48
  let outLd := bits (wAt ws 2) 63 48
  let m := (count + 15) / 16
  let wVa := bits (wAt ws 3) 47 5 * 32 + o * (bits (wAt ws 4) 63 37 * 32)
  let win := fun (base : Nat) => base + book * 2 ^ 39 + o * 2 ^ 32
  if count = 0 then List.replicate 16 0
  else
    [pack [(0x08, 63, 56)], pack [(bits (wAt ws 4) 15 0, 48, 32), (m, 16, 0)], pack [(bits (wAt ws 4) 31 16, 16, 0)], 0,
     pack [(0x09, 63, 56)], 0, pack [(bits (wAt ws 5) 63 48, 63, 48), (wVa + bits (wAt ws 5) 31 5 * 32, 47, 0)], 0,
     pack [(0x0A, 63, 56)], pack [(m * inLd * 32, 31, 0)], pack [(m * outLd * 32, 31, 0)], 0,
     pack [(0x10, 63, 56), (bits w0 35 32, 55, 52), (bits w0 31 28, 51, 48), (8, 47, 44), (1, 40, 40), (1, 38, 38),
       (bits w0 27 26, 35, 34), (bits w0 25 25, 32, 32), (bits w0 24 21, 31, 28), (bits w0 20 20, 27, 27)],
     pack [(inLd, 63, 48), (win 0x200000000000, 47, 0)], pack [(bits (wAt ws 3) 63 48, 63, 48), (wVa, 47, 0)],
     pack [(outLd, 63, 48), (win 0x400000000000, 47, 0)]]

/-- Write groups of words one after another. -/
def putAll (bad : Bool) : Nat → List (List Word) → TaskM Unit
  | _, [] => return ()
  | va, ws :: r => do
    putWords bad va ws
    putAll bad (va + 8 * ws.length) r

/-- Write a rule book: the rules by offset, the header, and the last header word (R199). -/
def writeBook (bad : Bool) (va n : Nat) (rules : List Rule) (count start : List Nat) (dropped total : Nat) : TaskM Unit := do
  let sorted := ((List.range n).map fun o => rules.filter fun r => r.1 == o).flatten
  putAll bad (va + 1024) (sorted.map fun r => [pack [(r.2.2, 63, 32), (r.2.1, 31, 0)]])
  putWords bad va ((List.range 125).map fun o => pack [(count.getD o 0, 63, 32), (start.getD o 0, 31, 0)])
  putWords bad (va + 1016) [pack [(dropped, 63, 32), (total, 31, 0)]]

/-- Free COUNT and START values of an undefined book. -/
def freeHeader (k n : Nat) : List Nat := (List.range n).map fun i => (Config.freeReg (k + i)).toNat % 8388609

/-- The sites of a level, as the hash holds them, without an access. -/
def State.peekSites (s : State) (level : Nat) : List Nat :=
  (List.range s.cloud.sites).filter fun i =>
    let n := leNat (s.peek (s.cloud.hashVa + 4194304 + 4 * i) 4)
    bits (wd (leNat (s.peek (s.cloud.hashVa + 16 * n) 8))) 62 61 == level

/-- The slot whose rules a slot uses (R200). -/
def rootSlot (bs : Vector Book 64) : Nat → Nat → Nat
  | 0, i => i
  | fuel + 1, i => match (at_ bs i {}).src with
    | some j => rootSlot bs fuel j
    | none => i

/-- The areas of a RULES command: rule book, but for one that it reuses; fragment; the rows of input features and of output
features or map that its sites have (R197, R199, R212.4). -/
def State.rulesAreas (s : State) (ws : List Word) (reuse : Bool) (kind level total frag : Nat) : List Area :=
  let rows := fun (i len : Nat) (ks : List Nat) =>
    let va := bits (wAt ws i) 47 5 * 32
    let ld := bits (wAt ws i) 63 48 * 32
    ({ feat := some (va, ld), runs := ks.map fun k => (va + k * ld, len) } : Area)
  let ins := s.peekSites level
  let outs := if kind = 0 then ins else if kind = 1 then s.peekSites (level + 1)
    else List.range (bits (wAt ws 8) 26 16 * bits (wAt ws 8) 10 0)
  [{ runs := if reuse then [] else [(bits (wAt ws 6) 47 12 * 4096, 1024 + 8 * total)] }, { runs := [(bits (wAt ws 7) 47 5 * 32, 32 * frag)] },
   rows 1 (bits (wAt ws 4) 31 16 * elemBytes (bits (wAt ws 0) 35 32)) ins, rows 2 (4 * bits (wAt ws 4) 15 0) outs]

/-- Areas that a RULES command writes: rule book and fragment, and with ZERO its output rows. -/
def rulesWrites (zero : Bool) (mine : List Area) : List Area := mine.take 2 ++ if zero then mine.drop 3 else []

/-- The slots that a RULES command changes: its own, those that reuse its rules, and those whose rule memory or features it writes
(R212.3). -/
def State.slotsChanged (s : State) (book : Nat) (written : List Area) : List Nat :=
  (List.range 64).filter fun i => i == book || rootSlot s.cloud.books 64 i == book ||
    (((at_ s.cloud.books (rootSlot s.cloud.books 64 i) {}).areas.take 1) ++ (at_ s.cloud.books i {}).areas.drop 2).any fun a =>
      written.any fun b => s.meet a.runs b.runs

/-- The tile launches that run. -/
def State.tileLaunches (s : State) : List Launch :=
  s.dev.launches.filter fun l => decide (l.target.toNat ≤ 0x10) && l.runs.any fun r => r.started && r.status != .done

/-- Tile launches that run while RULES changes slots, with these slots (R212.3). -/
def State.staleNow (s : State) (slots : List Nat) : List (Nat × Nat) :=
  (s.tileLaunches.map fun l => slots.map fun i => (l.id, i)).flatten

/-- What these launches have already written of the output features and maps of these slots is undefined too (R212.3). -/
def State.staleOutputs (s : State) (slots : List Nat) : State :=
  let outs := s.places ((slots.map fun i => ((at_ s.cloud.books i {}).areas.drop 3).map (·.runs)).flatten.flatten)
  let ids := s.tileLaunches.map (·.id)
  s.freeAt (usePlaces (s.mem.wrote.filter fun e => ids.contains e.2.2 && runsMeet [(e.1, e.2.1)] outs))

/-- What of the open frame the areas of a command overlap is undefined from now on (R212.4). -/
def State.clashFrame (s : State) (mine : List Area) : State :=
  let hit := fun i => (s.cloud.areas[i]?).any fun a => mine.any (s.clash a)
  s.cloudCount fun c => { c with
    undefHash := c.undefHash || hit 0, undefPoints := c.undefPoints || hit 1, undefRecord := c.undefRecord || hit 2 }

/-- RULES (R197 to R201): build or rebind the book, then ZERO, then the book and the fragment. START of an offset without
a rule is free. -/
def rulesCmd (ws : List Word) : TaskM Unit := do
  let w0 := wAt ws 0
  let book := bits w0 55 50
  let reuse := bit w0 43
  let s ← get
  let src := s.book (bits w0 41 36)
  let kind := if reuse then src.kind else bits w0 49 48
  let ks := if reuse then src.ks else if kind = 0 then bits w0 47 46 else 0
  let level := if reuse then src.level else bits w0 45 44
  let bad := rulesBad kind ks level ws
  let w8 := wAt ws 8
  let bookVa := bits (wAt ws 6) 47 12 * 4096
  let b ← if reuse then pure {} else scanSites (bad || s.cloud.badHash) kind ks level w8 (List.range s.cloud.sites) {}
  let n := offsetsOf kind ks
  let rules := b.rules.reverse
  let s ← get
  let mine := s.rulesAreas ws reuse kind level b.total (4 * n + 1)
  let others := s.cloud.areas ++ s.bookAreas (some book)
  let clash := s.clashes mine others
  let bad := bad || s.cloud.mixed
  let badBook := bad || clash.getD 0 false
  let (f, s) := s.take 256
  set s
  let count := if reuse then src.count else if badBook then freeHeader f 125 else
    (List.range n).map fun o => (rules.filter fun r => r.1 == o).length
  let start := if reuse then src.start else if badBook then freeHeader (f + 128) 125 else
    let st := starts 0 count
    (List.range 125).map fun o => if count.getD o 0 = 0 then (Config.freeReg (f + 128 + o)).toNat else st.getD o 0
  if bit w0 42 then
    zeroRows (bits (wAt ws 2) 47 5 * 32) (bits (wAt ws 2) 63 48 * 32) (bits (wAt ws 4) 15 0) (← outputRows kind level w8)
  if !reuse then
    writeBook bad bookVa n rules count start b.dropped b.total
    modify fun s => s.count 17 0x44 b.total
  putAll (rulesBad kind ks level ws) (bits (wAt ws 7) 47 5 * 32) (((List.range n).map fun o => fragmentOf ws book o (count.getD o 0)) ++
    [[pack [(0x02, 63, 56)], 0, 0, 0]])
  let s ← get
  let old := at_ s.cloud.books book {}
  let root := bits w0 41 36
  let x : Book := {
    count := count, start := start, kind := kind, ks := ks, level := level
    rulesVa := if reuse then src.rulesVa else bookVa
    inVa := bits (wAt ws 1) 47 5 * 32, inLd := bits (wAt ws 1) 63 48
    outVa := bits (wAt ws 2) 47 5 * 32, outLd := bits (wAt ws 2) 63 48
    src := if !reuse then none else if root = book then old.src else some root
    areas := mine, openOut := clash.getD 3 false }
  let slots := s.slotsChanged book (rulesWrites (bit w0 42) mine)
  let s := (s.staleOutputs slots).clashFrame mine
  let s := s.freeAreas (((mine.zipIdx.filter fun a => clash.getD a.2 false).map (·.1)) ++ others.filter fun b => mine.any (s.clash b))
  let live := s.cloud.stale.filter fun p => s.dev.launches.any (·.id == p.1)
  set (s.cloudCount fun c => { c with books := put c.books book x, stale := live ++ s.staleNow slots })

/-! ### FRAME_END (R207, R208) -/

/-- Confidence of a sector (R208). -/
def State.frameConf (s : State) (n : Nat) : Nat :=
  let c := s.cloud
  let cov := (List.range 64).filter fun e => (s.entry e).enabled && (s.entry e).sectors.testBit n
  if cov.isEmpty ∨ c.noEgoRef then 0 else
  let conf := cov.foldl (fun a e =>
    let a := if (s.entry e).state != .active then min a (s.entry e).confCap else a
    if c.overflow.getLsbD e || c.gapped.getLsbD e then min a c.ovfCap else a) 255
  let conf := if c.truncSectors.getLsbD n then min conf c.truncCap else conf
  min conf (min (at_ s.buoys.cap n 255) (at_ s.calib.cap n 255))

/-- 8 bytes of a word, the first in bits 7:0. -/
def byteWord (f : Nat → Nat) : Word := pack ((List.range 8).map fun i => (f i, 8 * i + 7, 8 * i))

/-- FRAME_END: the frame record, and the frame closes. Without an open frame it does nothing. -/
def frameEnd : TaskM Unit := do
  let s ← get
  let c := s.cloud
  if !c.isOpen then return ()
  putWords c.badRecord c.recordVa (c.ref.words ++ [
    pack [(c.flags, 63, 48), (c.sites, 18, 0)], pack [(c.outOfBox, 63, 32), (c.points, 31, 0)],
    pack [(c.cellsDropped, 63, 32), (c.notStored, 31, 0)], pack [(c.egoMiss, 63, 32), (c.epochMiss, 31, 0)],
    c.overflow, c.gapped, byteWord s.frameConf, byteWord fun i => s.frameConf (8 + i),
    pack [(c.foreign_, 63, 32), (c.truncSectors.toNat, 15, 0)]])
  modify fun s => s.cloudCount fun d => { d with isOpen := false, recordAt := some c.recordVa, users := [], mixed := false }

/-! ### NEIGHBOURS (R209) -/

/-- Coordinates of a point. -/
def pointAt (va : Nat) : TaskM V3 := do
  let bs ← readM va 16
  let f := fun i => f32 (BitVec.ofNat 32 (leNat ((bs.drop (4 * i)).take 4)))
  return (f 0, f 1, f 2)

/-- d² of two points (R209). -/
def dist2 (a b : V3) : Num := let d := V3.sub a b; V3.dot d d

/-- Insert a candidate by ascending d², after equal ones. -/
def insertNear (d : Num) (i : Nat) : List (Num × Nat) → List (Num × Nat)
  | [] => [(d, i)]
  | (e, j) :: r => if e.leq d then (e, j) :: insertNear d i r else (d, i) :: (e, j) :: r

/-- The indices selected for one query. -/
def select (knn : Bool) (k : Nat) (r2 : Num) (ds : List Num) : List Nat :=
  let c := ds.zipIdx.filter fun p => p.1 != .nan
  if knn then ((c.foldl (fun a p => insertNear p.1 p.2 a) []).take k).map (·.2)
  else ((c.filter fun p => p.1.leq r2).take k).map (·.2)

/-- Runs of bytes of two ranges meet. -/
def rangesMeet (a n b m : Nat) : Bool := decide (a < b + m ∧ b < a + n)

/-- One query of NEIGHBOURS: its row of indices, and its count (R209). -/
def neighbourQuery (knn : Bool) (k nq qVa outVa : Nat) (r2 : Num) (refs : List V3) (q : Nat) : TaskM Unit := do
  let p ← pointAt (qVa + 16 * q)
  let sel := select knn k r2 (refs.map fun x => dist2 x p)
  writeM (outVa + 4 * k * q) ((sel ++ List.replicate (k - sel.length) 0xFFFFFFFF).map (leBytes 4)).flatten
  writeM (outVa + 4 * k * nq + 4 * q) (leBytes 4 sel.length)

/-- NEIGHBOURS. Its results are free where R212 leaves them undefined. -/
def neighboursCmd (ws : List Word) : TaskM Unit := do
  let s ← get
  let w0 := wAt ws 0
  let k := bits w0 54 48
  let nr := bits (wAt ws 1) 63 32
  let nq := bits (wAt ws 1) 31 0
  let va := fun i => bits (wAt ws i) 47 4 * 16
  let r := f32 (BitVec.ofNat 32 (bits (wAt ws 5) 31 0))
  let size := 4 * k * nq + 4 * nq
  let bad := decide (k < 1) || decide (nq < 1) || decide (262144 < nq) || decide (nr < 1) || decide (2097152 < nr) ||
    s.meet [(va 4, size)] [(va 2, 16 * nq), (va 3, 16 * nr)]
  if bad then
    let (f, s) := s.take size
    set s
    writeM (va 4) (freeBytes f size)
  else
    let refs ← (List.range nr).mapM fun i => pointAt (va 3 + 16 * i)
    (List.range nq).forM (neighbourQuery (bit w0 55) k nq (va 2) (va 4) (r.mul32 r) refs)

/-! ### The rows -/

/-- The OP values that the engine executes as NOP (R183). -/
def vxNopOp (op : Nat) : Bool := !([0x01, 0x60, 0x61, 0x62, 0x63, 0x64].contains op)

def State.vxCmd (s : State) (mine : Nat → Bool) (body : Launch → Nat → List Word → State → CmdEnd × State) : State :=
  s.runCmd 0x20 16 128 mine body

def execVxNop (s : State) : Host.Outcome State Fault Refusal := fin s unitParts (s.vxCmd vxNopOp bodyNop)
def execVxEnd (s : State) : Host.Outcome State Fault Refusal := fin s unitParts (s.vxCmd (· == 0x01) bodyEnd)
def execFrameBegin (s : State) : Host.Outcome State Fault Refusal :=
  fin s (unitParts ++ [.cloud, .cells]) (s.vxCmd (· == 0x60) fun l _ ws => ofTask 0 (frameBegin l ws))
def execDeskew (s : State) : Host.Outcome State Fault Refusal :=
  fin s (unitParts ++ [.iq, .cloud, .cells]) (s.vxCmd (· == 0x61) bodyDeskew)
def execRules (s : State) : Host.Outcome State Fault Refusal :=
  fin s (unitParts ++ [.cloud, .cells]) (s.vxCmd (· == 0x62) fun l _ ws t => ofTask 0 (rulesCmd ws) (t.frameUse l.id))
def execFrameEnd (s : State) : Host.Outcome State Fault Refusal :=
  fin s (unitParts ++ [.cloud, .cells]) (s.vxCmd (· == 0x63) fun l _ _ t => ofTask 0 frameEnd (t.frameUse l.id))
def execNeighbours (s : State) : Host.Outcome State Fault Refusal :=
  fin s (unitParts ++ [.cells]) (s.vxCmd (· == 0x64) fun _ _ ws => ofTask 0 (neighboursCmd ws))

end Sys2Proof.Machine
end

