-- ==== Sys2Proof/Machine/Moves.lean ====
section
/-! DEFINITION. The layout engine (ch. 07): MOVE, owner tables, accesses to and from other devices of the chain. -/
namespace Sys2Proof.Machine

/-! ### The descriptor (R165, R166, R182) -/

/-- A MOVE's operands. -/
structure MoveJob where
  /-- W -/
  w : Nat
  idxMode : Nat
  idxDim : Nat
  writePad : Bool
  ndim : Nat
  perm : List Nat
  src : Nat
  dst : Nat
  fill : List Byte
  idxVa : Nat
  ofs : List Int
  ss : List Int
  se : List Nat
  ds : List Int
  de : List Nat
  /-- undefined under R182.1: the destination takes free values -/
  bad : Bool
  deriving DecidableEq, Repr

/-- PERM of a descriptor's first dimensions is a permutation of them. -/
def permOk (n : Nat) (p : List Nat) : Bool := (p.take n).all (· < n) && decide (p.take n).Nodup

/-- The job of a MOVE descriptor. Where R182.1 leaves it undefined, its fields are read as far as they go, so that its reads, its
faults and its counts stand: its units take free values. -/
def moveJob (ws : List Word) : MoveJob :=
  let w0 := wAt ws 0
  let code := bits w0 55 53
  let mode := bits w0 52 51
  let dim := bits w0 50 48
  let n := bits w0 46 44
  let m := min 5 n
  let perm := (List.range 5).map fun d => bits w0 (3 * d + 30) (3 * d + 28)
  let bad := decide (5 < code) || mode == 3 || n == 0 || decide (5 < n) || !permOk m perm || ((mode == 1 || mode == 2) && decide (n ≤ dim))
  let w := 2 ^ min code 5
  let f := leBytes 8 (wAt ws 3).toNat
  let stride := fun i => sgn 40 (bits (wAt ws i) 63 24)
  { w := w, idxMode := mode % 3, idxDim := dim, writePad := bit w0 47, ndim := m, perm := perm
    src := bits (wAt ws 1) 47 0, dst := bits (wAt ws 2) 47 0, fill := ((f ++ f ++ f ++ f).take w)
    idxVa := bits (wAt ws 4) 47 0
    ofs := [sgn 16 (bits (wAt ws 5) 15 0), sgn 16 (bits (wAt ws 5) 31 16), sgn 16 (bits (wAt ws 5) 47 32),
      sgn 16 (bits (wAt ws 5) 63 48), sgn 16 (bits (wAt ws 4) 63 48)]
    ss := (List.range 5).map fun k => stride (6 + 2 * k)
    se := (List.range 5).map fun k => bits (wAt ws (6 + 2 * k)) 23 0
    ds := (List.range 5).map fun d => stride (7 + 2 * d)
    de := (List.range 5).map fun d => bits (wAt ws (7 + 2 * d)) 23 0, bad := bad }

def MoveJob.permOf (j : MoveJob) (d : Nat) : Nat := j.perm.getD d 0

/-- Iteration extents (R167). -/
def MoveJob.ext (j : MoveJob) : List Nat :=
  (List.range j.ndim).map fun d => if j.idxMode = 2 ∧ d = j.idxDim then j.se.getD (j.permOf d) 0 else j.de.getD d 0

/-! ### Checks (R170) -/

/-- A multiple of W. -/
def multOf (w : Nat) (i : Int) : Bool := decide (i % (w : Int) = 0)

def MoveJob.alignOk (j : MoveJob) : Bool :=
  multOf j.w j.src && multOf j.w j.dst &&
  ((List.range j.ndim).all fun k => multOf j.w (j.ss.getD k 0) && multOf j.w (j.ds.getD k 0)) &&
  (j.idxMode == 0 || j.idxVa % 4 == 0)

def MoveJob.strideOk (j : MoveJob) : Bool :=
  (List.range j.ndim).all fun d => !(j.ds.getD d 0 == 0 && decide (1 < j.ext.getD d 0))

/-- A descriptor fails a check: bits, count and address (R170). -/
def State.moveFails (s : State) (align stride : Bool) (va : Nat) : State :=
  let l := s.layout
  let first := !l.errAlign && !l.errZstride
  ({ s with layout := { l with
    errAlign := l.errAlign || !align, errZstride := l.errZstride || !stride
    errVa := if first then va else l.errVa
    alignFails := if align then l.alignFails else sat32 (l.alignFails + 1)
    zstrideFails := if align then sat32 (l.zstrideFails + 1) else l.zstrideFails } }).count 18 0x55 1

/-! ### Transfer modes and units of work (R171, R174) -/

/-- The dimension that stands as dimension 0: the innermost with a box extent above 1 (log entry 21). -/
def MoveJob.inner (j : MoveJob) : Option Nat := (List.range j.ndim).find? fun d => decide (1 < j.ext.getD d 0)

/-- |SS[PERM[d]]|. -/
def MoveJob.srcStride (j : MoveJob) (d : Nat) : Nat := (j.ss.getD (j.permOf d) 0).natAbs

/-- STREAM: its dimension 0; TURN: its dimensions 0 and e; SCATTERED. -/
inductive Mode where
  | stream (d : Nat)
  | turn (d e : Nat)
  | scattered
  deriving DecidableEq, Repr

def MoveJob.mode (j : MoveJob) : Mode :=
  match j.inner with
  | none => .stream 0
  | some d =>
    let unitDst := (j.ds.getD d 0).natAbs == j.w
    let free := fun (x : Nat) => j.idxMode == 0 || j.idxDim != x
    if unitDst && (j.srcStride d == 0 || j.srcStride d == j.w) && free d then .stream d
    else match (List.range j.ndim).find? fun e => e != d && decide (1 < j.ext.getD e 0) && j.srcStride e == j.w with
      | some e => if unitDst && free d && free e then .turn d e else .scattered
      | none => .scattered

def Mode.code : Mode → Nat
  | .stream _ => 1 | .turn _ _ => 2 | .scattered => 3

/-- Units along one side of a block or run: consecutive indices of a dimension that one unit of work takes. -/
def MoveJob.side (j : MoveJob) (m : Mode) (d : Nat) : Nat :=
  match m with
  | .stream x => if d = x then 256 / j.w else 1
  | .turn x e => if d = x ∨ d = e then (if j.w ≤ 8 then 32 else if j.w = 16 then 16 else 8) else 1
  | .scattered => 1

/-- The iteration point of a linear index, dimension 0 fastest. -/
def pointOf : List Nat → Nat → List Nat
  | [], _ => []
  | e :: r, n => n % e :: pointOf r (n / e)

/-- Linear index of an iteration point. -/
def linearOf : List Nat → List Nat → Nat
  | e :: r, t :: ts => t + e * linearOf r ts
  | _, _ => 0

def boxSize (ext : List Nat) : Nat := ext.foldl (· * ·) 1

/-- Linear index of the first iteration point of the unit of work that a point belongs to. -/
def MoveJob.unitKey (j : MoveJob) (m : Mode) (n : Nat) : Nat :=
  match m with
  | .scattered => n / 8 * 8
  | _ => linearOf j.ext ((pointOf j.ext n).zipIdx.map fun p => p.1 / j.side m p.2 * j.side m p.2)

/-- The units of work, each as the linear indices of its iteration points, in the order of R174. -/
def MoveJob.units (j : MoveJob) : List (List Nat) :=
  let m := j.mode
  let all := List.range (boxSize j.ext)
  (all.filter fun n => j.unitKey m n = n).map fun k => all.filter fun n => j.unitKey m n = k

/-! ### Accesses through owner tables (R176) -/

/-- Where an access goes: this device at an address, another device, or nowhere. -/
inductive Owned where
  | here (va : Nat)
  | at_ (pos va : Nat)
  | none
  deriving DecidableEq, Repr

/-- The owner of an address: a member without a position (R376) owns none of an owner table's blocks. -/
def State.ownerOf (s : State) (a : Nat) : Owned :=
  match s.layout.owners.toList.find? fun t => match t with
    | some o => decide (o.base ≤ a ∧ a < o.base + o.entries.length * 2 ^ o.shift)
    | none => false with
  | some (some o) =>
    let e := wAt o.entries ((a - o.base) / 2 ^ o.shift)
    let va := (bits e 47 0 + (a - o.base) % 2 ^ o.shift) % 2 ^ 48
    if !bit e 63 then .none
    else if s.position == some (bits e 61 56) then .here va
    else .at_ (bits e 61 56) va
  | _ => .here a

/-- A read that must be sent to another device: its key within the unit of work, position, address and length. -/
abbrev Far := Nat × Nat × Nat × Nat

/-- A read of the unit of work: bytes, or the access that another device must answer. -/
def ownedRead (got : List (Nat × List Byte)) (key a n : Nat) : TaskM (List Byte ⊕ Far) := do
  let s ← get
  match s.ownerOf a with
  | .none => throw .translation
  | .here va => return .inl (← readM va n)
  | .at_ pos va => match look got key with
    | some bs => return .inl bs
    | none => return .inr (key, pos, va, n)

/-! ### Cells (R167 to R169) -/

/-- An iteration point resolved: its source index in each source dimension, destination indices, and its outcome. -/
structure Cell where
  src : Nat
  dst : Nat
  pad : Bool
  oobR : Bool
  oobW : Bool
  deriving DecidableEq, Repr

/-- Resolve an iteration point with the value of its index (R167). -/
def MoveJob.cell (j : MoveJob) (t : List Nat) (idx : Nat) : Cell :=
  let dims := List.range j.ndim
  let indexed := fun (d : Nat) => j.idxMode != 0 && d == j.idxDim
  let srcI := fun (d : Nat) => if indexed d then (if j.idxMode = 1 then (idx : Int) else t.getD d 0) else t.getD d 0 - j.ofs.getD d 0
  let dstI := fun (d : Nat) => if indexed d ∧ j.idxMode = 2 then idx else t.getD d 0
  let sum := fun (f : Nat → Int) => (dims.map f).foldl (· + ·) 0
  { src := ((j.src + sum fun d => srcI d * j.ss.getD (j.permOf d) 0) % 2 ^ 48).toNat
    dst := ((j.dst + sum fun d => (dstI d : Int) * j.ds.getD d 0) % 2 ^ 48).toNat
    pad := dims.any fun d => !indexed d && (decide (srcI d < 0) || decide ((j.se.getD (j.permOf d) 0 : Int) ≤ srcI d))
    oobR := dims.any fun d => indexed d && j.idxMode == 1 && decide (j.se.getD (j.permOf d) 0 ≤ idx)
    oobW := dims.any fun d => indexed d && j.idxMode == 2 && decide (j.de.getD d 0 ≤ idx) }

/-- The destination of a cell that is written. -/
def MoveJob.written (j : MoveJob) (c : Cell) : Bool := !c.oobW && !(c.pad && !j.writePad)

/-- The place in the index tensor that a point reads, if the MOVE has one. -/
def MoveJob.indexAt (j : MoveJob) (t : List Nat) : Option Nat := if j.idxMode = 0 then none else t[j.idxDim]?

/-- The value of an index as this device's memory holds it, without an access. -/
def State.peekIndex (s : State) (a : Nat) : Option Nat :=
  match s.ownerOf a with
  | .here va => match s.target va .rd with
    | .ok (da, _) => some (leNat (memBytes s.mem.cells da 4))
    | .error _ => none
  | _ => none

/-- Every cell of a MOVE with the value of its index, where it has one and this device can see it. -/
def State.allCells (s : State) (j : MoveJob) : List (Cell × Bool) :=
  (List.range (boxSize j.ext)).map fun n =>
    let t := pointOf j.ext n
    match j.indexAt t with
    | none => (j.cell t 0, true)
    | some i => match s.peekIndex ((j.idxVa + 4 * i) % 2 ^ 48) with
      | some v => (j.cell t v, true)
      | none => (j.cell t 0, false)

/-- The place behind an address, so that two names of one place are seen as one: a device (0 this one, else its position and
1) and an address there. -/
def State.spot (s : State) (a : Nat) : Option (Nat × Nat) :=
  match s.ownerOf a with
  | .here va => match s.places [(va, 1)] with
    | p :: _ => some (0, p.1)
    | [] => none
  | .at_ pos va => some (pos + 1, va)
  | .none => none

/-- Bytes at a place meet those at some places. -/
def spotMeets (p : Option (Nat × Nat)) (n : Nat) (qs : List (Nat × Nat)) (m : Nat) : Bool :=
  match p with
  | none => false
  | some p => qs.any fun q => p.1 == q.1 && rangesMeet p.2 n q.2 m

/-- Places of the index tensor of a MOVE. -/
def State.indexSpots (s : State) (j : MoveJob) : List (Nat × Nat) :=
  if j.idxMode = 0 then [] else
  (List.range (j.ext.getD j.idxDim 0)).filterMap fun i => s.spot ((j.idxVa + 4 * i) % 2 ^ 48)

/-- A MOVE is undefined as a whole (R182.1, R182.4): its destination overlaps its source or its index tensor, as far as this
device sees them beforehand; an index on another device hides the source of a gather and the destination of a scatter. -/
def State.moveUndefined (s : State) (j : MoveJob) : Bool :=
  let cells := s.allCells j
  let reads := (cells.filter fun c => (c.2 || j.idxMode == 2) && !c.1.oobW && !c.1.pad && !c.1.oobR).filterMap fun c => s.spot c.1.src
  let idx := s.indexSpots j
  j.bad || (cells.filter fun c => (c.2 || j.idxMode == 1) && j.written c.1).any fun c =>
    spotMeets (s.spot c.1.dst) j.w reads j.w || spotMeets (s.spot c.1.dst) j.w idx 4

/-! ### One unit of work -/

/-- What a unit of work comes to: reads that other devices must answer, or its writes; and the places that the MOVE's cells
have written and read so far. -/
structure UnitOut where
  /-- the destination meets the source or the index tensor (R182.4) -/
  undef : Bool := false
  dsts : List (Nat × Nat) := []
  srcs : List (Nat × Nat) := []
  far : List Far := []
  writes : List (Nat × List Byte) := []
  oobR : Nat := 0
  oobW : Nat := 0

/-- Keys of the index read and of the source read of a cell within its unit of work. -/
def keyIdx (n : Nat) : Nat := 2 * n + 1
def keySrc (n : Nat) : Nat := 2 * n

/-- Evaluate one cell of a unit of work. Its value is free where the MOVE is undefined and where an earlier cell has written its
destination (R182). -/
def moveCell (j : MoveJob) (got : List (Nat × List Byte)) (o : UnitOut) (n : Nat) : TaskM UnitOut := do
  let t := pointOf j.ext n
  let idx ← match j.indexAt t with
    | none => pure (.inl [])
    | some i => ownedRead got (keyIdx n) ((j.idxVa + 4 * i) % 2 ^ 48) 4
  match idx with
  | .inr f => return { o with far := o.far ++ [f] }
  | .inl ib =>
    let c := j.cell t (leNat ib)
    if c.oobW then return { o with oobW := o.oobW + 1 }
    else if !j.written c then return o
    else
      let fill := c.pad || c.oobR
      let v ← if fill then pure (.inl j.fill) else ownedRead got (keySrc n) c.src j.w
      match v with
      | .inr f => return { o with far := o.far ++ [f] }
      | .inl bs =>
        let s ← get
        let dst := s.spot c.dst
        let src := if fill then none else s.spot c.src
        let met := o.undef || spotMeets dst j.w o.srcs j.w || spotMeets src j.w o.dsts j.w || spotMeets dst j.w src.toList j.w ||
          spotMeets dst j.w (s.indexSpots j) 4
        let u := met || spotMeets dst j.w o.dsts j.w
        let (k, s) := s.take (if u then j.w else 0)
        set s
        return { o with undef := met, writes := o.writes ++ [(c.dst, if u then freeBytes k j.w else bs)]
                        dsts := o.dsts ++ dst.toList, srcs := o.srcs ++ src.toList
                        oobR := o.oobR + b2n (c.oobR && !c.pad) }

/-- Evaluate the cells of a unit of work. -/
def moveCells (j : MoveJob) (got : List (Nat × List Byte)) : UnitOut → List Nat → TaskM UnitOut
  | o, [] => return o
  | o, n :: r => do moveCells j got (← moveCell j got o n) r

/-- Evaluate a unit of work: where one of its cells shows that the MOVE is undefined, all of them take free values. -/
def moveUnit (j : MoveJob) (got : List (Nat × List Byte)) (o : UnitOut) (cells : List Nat) : TaskM UnitOut := fun s =>
  match moveCells j got o cells s with
  | (.ok r, t) => if r.undef && !o.undef then moveCells j got { o with undef := true } cells s else (.ok r, t)
  | e => e

/-- The writes of a unit of work on this device, and those on others. -/
def State.splitWrites (s : State) : List (Nat × List Byte) → Except MemFault (List (Nat × List Byte) × List (Nat × Nat × List Byte))
  | [] => .ok ([], [])
  | (a, bs) :: r =>
    match s.splitWrites r with
    | .error e => .error e
    | .ok (here, far) => match s.ownerOf a with
      | .none => .error .translation
      | .here va => .ok ((va, bs) :: here, far)
      | .at_ pos va => .ok (here, (pos, va, bs) :: far)

/-- Write the local part of a unit of work: all of it or none. -/
def writeHere (ws : List (Nat × List Byte)) : TaskM Unit := atomically (ws.forM fun w => writeM w.1 w.2)

/-! ### Sending -/

/-- The port toward a chain position (R376): 1 downstream, 0 upstream, where a member without a position looks for every
other. -/
def State.portTo (s : State) (pos : Nat) : Nat :=
  match s.position with
  | some p => if p < pos then 1 else 0
  | none => 0

/-- TENSOR traffic to a position is open (R376, R378): after an enumeration, from a device with a position; a lead reaches the
members of the chain. -/
def State.tensorOpen (s : State) (pos : Nat) : Bool :=
  s.chain.enumerated && s.position.isSome && (s.boot.member || decide (pos < s.chain.len))

/-- Send one access to another device, or ask it whether it takes a write: no bytes go with that, and it is no access that
counts. Where no traffic to it is open, or its port is down, the access is lost, and no response comes. -/
def State.sendFar (s : State) (pos va : Nat) (wr : Bool) (bs : List Byte) (len cell : Nat) : State :=
  let l := s.layout
  let p := s.portTo pos
  let r : Remote := { id := l.nextId, since := s.time.counter, write := wr, cell := cell, port := p }
  let s := { s with layout := { l with remote := l.remote ++ [r], nextId := l.nextId + 1 } }
  let s := if wr && bs.isEmpty then s else s.count 18 0x54 1
  if s.tensorOpen pos then s.sendMsg p flitTensor bs (some (.tensor r.id pos va wr bs len)) else s

/-- A MOVE ends: nothing of it is in progress. -/
def State.moveOver (s : State) : State := { s with layout := { s.layout with move := none, remote := [], mode := 0 } }

/-- Count what a unit of work did (R169, R449). -/
def State.unitDone (s : State) (j : MoveJob) (o : UnitOut) : State :=
  let l := s.layout
  let s := { s with layout := { l with
    oobRead := sat32 (l.oobRead + o.oobR), oobReadTotal := sat32 (l.oobReadTotal + o.oobR)
    oobWrite := sat32 (l.oobWrite + o.oobW), oobWriteTotal := sat32 (l.oobWriteTotal + o.oobW) } }
  let ev := match j.mode with
    | .stream _ => 0x50 | .turn _ _ => 0x51 | .scattered => 0x52
  (s.count 18 ev 1).count 18 0x53 (o.writes.length * j.w)

/-- A MOVE has shown itself undefined after some of its units: what they wrote on this device is free too (R182.4). -/
def State.moveSpoils (s : State) (j : MoveJob) (m : MoveRun) : State :=
  s.freeAt ((m.dsts.filter fun d => d.1 == 0).map fun d => (d.2, j.w))

/-- Run a MOVE's units of work from one on. A unit that needs other devices waits: the state then holds the MOVE. Its writes on this
device are tried, and the other devices are asked whether they take theirs, before any of them is sent, so that a unit that faults
is written nowhere (R174, log entry 47). -/
def moveUnits (j : MoveJob) : List (List Nat) → MoveRun → State → CmdEnd × State
  | [], _, s => (.next, s.moveOver)
  | cells :: rest, m, s =>
    let wait := fun (s : State) (m : MoveRun) => (CmdEnd.hold, { s with layout := { s.layout with move := some m, mode := j.mode.code } })
    let here := fun (ws : List (Nat × List Byte)) (s : State) => (withRegions m.regions (writeHere ws)).go s
    match (withRegions m.regions (moveUnit j m.got { undef := m.undef, dsts := m.dsts, srcs := m.srcs } cells)).go s with
    | (.error _, t) => (.fault m.unit, t.moveOver)
    | (.ok o, t) =>
      let spoils := fun (s : State) => if o.undef && !m.undef then s.moveSpoils j m else s
      let (s, t) := (spoils s, spoils t)
      let m := { m with undef := o.undef }
      match o.far with
      | _ :: _ => wait (o.far.foldl (fun s f => s.sendFar f.2.1 f.2.2.1 false [] f.2.2.2 f.1) s) m
      | [] =>
        match t.splitWrites o.writes with
        | .error _ => (.fault m.unit, t.moveOver)
        | .ok (own, far) =>
          match here own t with
          | (.error _, u) => (.fault m.unit, u.moveOver)
          | (.ok _, u) =>
            if far.isEmpty || m.writing then
              moveUnits j rest { m with unit := m.unit + 1, got := [], asked := false, writing := false, dsts := o.dsts, srcs := o.srcs }
                (u.unitDone j o)
            else if m.asked then
              wait (far.foldl (fun s f => s.sendFar f.1 f.2.1 true f.2.2 f.2.2.length 0) s) { m with writing := true }
            else wait (far.foldl (fun s f => s.sendFar f.1 f.2.1 true [] f.2.2.length 0) s) { m with asked := true }

/-- Body of MOVE (R167, R170, R174). -/
def bodyMove (l : Launch) (pc : Nat) (ws : List Word) (s : State) : CmdEnd × State :=
  let j := moveJob ws
  if !j.alignOk || !j.strideOk then (.next, s.moveFails j.alignOk j.strideOk pc)
  else moveUnits j j.units
    { launch := l.id, va := pc, desc := ws, unit := 0, got := [], asked := false, writing := false, undef := s.moveUndefined j
      regions := s.mem.regions } s.moveOver

/-- The MOVE that waits goes on, once every access it has sent is answered (R178). -/
def State.resumeMove (s : State) : State :=
  match s.layout.move, s.runningAt 0x22 16 with
  | some m, some l =>
    if l.id ≠ m.launch then s.moveOver
    else if !s.layout.remote.isEmpty then s
    else
      let j := moveJob m.desc
      let r := moveUnits j (j.units.drop m.unit) m (s.byLaunch l.id)
      s.after (r.1, r.2.byNone) l 16 128 m.va
  | _, _ => s.moveOver

/-- The MOVE that waits ends with a task fault (R176). -/
def State.faultMove (s : State) : State :=
  match s.layout.move with
  | none => s
  | some m => s.moveOver.taskFault 0x22 16 m.va m.unit

/-! ### The rows -/

def xeNopOp (op : Nat) : Bool := op != 0x01 && op != 0x40

/-- A MOVE of the launch that runs at the engine waits for another device. -/
def State.moveWaits (s : State) : Bool :=
  match s.layout.move, s.runningAt 0x22 16 with
  | some m, some l => l.id == m.launch
  | _, _ => false

/-- Run a command of the engine's list: none begins while a MOVE waits for another device (R163). -/
def State.xeCmd (s : State) (mine : Nat → Bool) (body : Launch → Nat → List Word → State → CmdEnd × State) : State :=
  if s.moveWaits then s else s.runCmd 0x22 16 128 mine body

def execXeNop (s : State) : Host.Outcome State Fault Refusal := fin s unitParts (s.xeCmd xeNopOp bodyNop)
def execXeEnd (s : State) : Host.Outcome State Fault Refusal := fin s unitParts (s.xeCmd (· == 0x01) bodyEnd)
def execMove (s : State) : Host.Outcome State Fault Refusal :=
  fin s (unitParts ++ [.layout, .cells]) (s.xeCmd (· == 0x40) bodyMove)

/-- Serve an access of another device through this device's own region table (R176). -/
def State.serveTensor (s : State) : TensorAccess → TensorReply × State
  | .read va n => match (readM va.toNat n).go s.outsideLaunch with
    | (.ok bs, t) =>
      let (bs, t) := (s.backIn t).amidLaunch va.toNat bs
      (.data bs, t)
    | (.error _, t) => (.fault, s.backIn t)
  | .check va n => match (checkWrite va.toNat n).go s.outsideLaunch with
    | (.ok _, t) => (.ack, s.backIn t)
    | (.error _, t) => (.fault, s.backIn t)
  | .write va bs =>
    let r := s.writeBeside va.toNat bs
    (if r.1 then .ack else .fault, r.2)
  | .transit _ _ _ => (.fault, s)

/-- The bytes that an access carries to this device. -/
def payloadOf : TensorAccess → List Byte
  | .read _ _ | .check _ _ => []
  | .write _ bs | .transit _ _ bs => bs

/-- TENSOR_REQUEST_RX (R176): this device translates the access through its own region table with LIST privilege. Flits toward
another position are passed on through the other port (R375, R381). Before an enumeration has reached it, and without a position,
a device carries none of either (R376, R378). In FOG accesses to its own memory are not served (R439). -/
def execTensorRequestRx (pos : BitVec 6) (a : TensorAccess) (s : State) : Host.Outcome State Fault Refusal :=
  let p := s.portTo pos.toNat
  fin s (logParts ++ [.mem, .cells]) <| if !s.portUp p || s.position.isNone || !s.chain.enumerated then s else
  let t := s.recvFlits p (flitsOf (payloadOf a).length)
  match a with
  | .transit dst cls bs =>
    if s.position = some dst.toNat then t else
    let q := s.portTo dst.toNat
    if q = p then t else t.sendMsg q cls bs (some (.passed q cls bs))
  | _ =>
    if s.dev.state = .fog then t else
    let (r, u) := t.serveTensor a
    let back := match r with
      | .data bs => bs
      | _ => []
    u.sendMsg p flitTensor back (some (.tensorReply pos r))

/-- TENSOR_RESPONSE_RX (R176, R178, R381): an answer that comes later than 5 ms, or through a port that is not up, is none. -/
def execTensorResponseRx (id : Nat) (r : TensorReply) (s : State) : Host.Outcome State Fault Refusal :=
  fin s (unitParts ++ [.layout, .cells]) <| match s.layout.remote.find? (·.id = id) with
  | none => s
  | some q =>
    if ¬ s.portUp q.port ∨ q.since + 5 * cycMs < s.time.counter then s else
    let l := s.layout
    let s := { s with layout := { l with remote := l.remote.filter (·.id ≠ id) } }
    let size := match r with
      | .data bs => bs.length
      | _ => 0
    let s := s.recvFlits q.port (flitsOf size)
    match r, q.write with
    | .data bs, false =>
      match l.move with
      | none => s
      | some m =>
        let m := { m with got := insertKey m.got q.cell bs }
        ({ s with layout := { s.layout with move := some m } }).resumeMove
    | .ack, true => s.resumeMove
    | .fault, _ =>
      ({ s with layout := { s.layout with remoteFaults := sat32 (s.layout.remoteFaults + 1) } }).faultMove
    | _, _ => s.faultMove

/-- TENSOR_TIMEOUT (R381): no response within 5 ms. -/
def execTensorTimeout (id : Nat) (s : State) : Host.Outcome State Fault Refusal :=
  fin s (ansParts ++ [.budget, .layout, .calib, .faults]) <| match s.layout.remote.find? (·.id = id) with
  | none => s
  | some q => if q.since + 5 * cycMs ≤ s.time.counter then s.faultMove else s

/-! ### Messages (R180, R181) -/

/-- Two address ranges overlap. -/
def ownersMeet (a : Nat) (n : Nat) (o : Owner) : Bool := rangesMeet a n o.base (o.entries.length * 2 ^ o.shift)

/-- XE_SET_OWNER. BASE is tested against BLOCK_SHIFT, and the range against the other tables by BLOCK_SHIFT, COUNT and BASE:
both fail in word 0 first (R484). -/
def xeSetOwner (c : Cmd) (s : State) : Ans :=
  let w0 := wAt c.words 0
  let shift := bits w0 36 32
  let count := bits w0 28 16
  let i := bits w0 3 0
  let base := bits (wAt c.words 1) 47 0
  let va := bits (wAt c.words 2) 47 0
  let others := (List.range 16).filter (· ≠ i)
  let free := !(others.any fun t => match at_ s.layout.owners t none with
    | some o => ownersMeet base (count * 2 ^ shift) o
    | none => false)
  checked [(0, decide (12 ≤ shift ∧ shift ≤ 30)), (0, decide (1 ≤ count ∧ count ≤ 4096)),
    (0, base % 2 ^ shift = 0), (0, free), (2, va % 8 = 0)] <|
  match s.keeperRead va (8 * count) with
  | (none, s) => .ok (s, { status := 7 })
  | (some bs, s) =>
    let o : Owner := { shift := shift, base := base, entries := bytesWords count bs }
    ok { s with layout := { s.layout with owners := put s.layout.owners i (some o) } }
def execXeSetOwner (ch : Fin 33) (s : State) : Host.Outcome State Fault Refusal :=
  fin s (ansParts ++ [.layout, .mem, .faults]) (s.serve ch 0x640 3 xeSetOwner)

/-- XE_CLEAR_OWNER. -/
def xeClearOwner (c : Cmd) (s : State) : Ans :=
  ok { s with layout := { s.layout with owners := put s.layout.owners (bits (wAt c.words 0) 3 0) none } }
def execXeClearOwner (ch : Fin 33) (s : State) : Host.Outcome State Fault Refusal :=
  fin s (ansParts ++ [.layout]) (s.serve ch 0x641 1 xeClearOwner)

/-- XE_GET_STATUS. -/
def xeGetStatus (_ : Cmd) (s : State) : Ans :=
  let l := s.layout
  okWith s [wd ((List.range 16).foldl (fun a t => a + b2n (at_ l.owners t none).isSome * 2 ^ t) 0),
    pack [(l.alignFails, 63, 32), (l.zstrideFails, 31, 0)], pack [(l.oobReadTotal, 63, 32), (l.oobWriteTotal, 31, 0)],
    wd l.remoteFaults]
def execXeGetStatus (ch : Fin 33) (s : State) : Host.Outcome State Fault Refusal :=
  fin s ansParts (s.serve ch 0x642 0 xeGetStatus)

end Sys2Proof.Machine
end

