-- ==== Sys2Proof/Machine/Fixed.lean ====
section
/-! DEFINITION. FX32 arithmetic of the solver (R246, R254, R255), pivots (R257, R258) and factorisations (R252). A formula
that the spec gives for CHOL is followed; the formulas of LDLT, LU and the triangular solves are the usual ones in the same
manner, and a sum that is then multiplied is rounded first, since R254 multiplies FX32 values (log entry 22). -/
namespace Sys2Proof.Machine

/-- An FX32 value as its signed integer; none is NaR. -/
abbrev Fx := Option Int

/-- FX32 from and to its 32 bits. -/
def fxOf (raw : Nat) : Fx := if raw = 2147483648 then none else some (sgn 32 raw)
def fxRaw (x : Fx) : Nat := match x with
  | none => 2147483648
  | some v => fld 32 v

/-- What a problem has met: saturations, small pivots, the first of them, regularised pivots. -/
structure Notes where
  sat : Nat := 0
  small : Nat := 0
  first : Option Nat := none
  regs : Nat := 0
  deriving DecidableEq, Repr

/-- Computations over FX32 that count what a problem meets. -/
abbrev FxM := StateM Notes

/-- Saturation of R255. -/
def fxSat (v : Int) : Fx × Bool :=
  if 2147483647 < v then (some 2147483647, true) else if v < -2147483647 then (some (-2147483647), true) else (some v, false)

/-- v × 2^-bp at another binary point, to nearest even. -/
def rescale (v : Int) (bp dst : Nat) : Int := if bp ≤ dst then v * 2 ^ (dst - bp) else divRne v (2 ^ (bp - dst))

/-- Round an exact value to a destination binary point (R254, R255). -/
def fxRound (v : Int) (bp dst : Nat) : FxM Fx := do
  let r := fxSat (rescale v bp dst)
  if r.2 then modify fun n => { n with sat := n.sat + 1 }
  return r.1

/-- The exact sum of products. -/
def exactDot : List (Fx × Fx) → Option Int
  | [] => some 0
  | (some x, some y) :: r => (exactDot r).map (x * y + ·)
  | _ :: _ => none

/-- c plus or minus a sum of products, rounded once (R254). -/
def fxSumProd (c : Fx) (bpC : Nat) (neg : Bool) (ps : List (Fx × Fx)) (bpP dst : Nat) : FxM Fx :=
  match c, exactDot ps with
  | some v, some p =>
    let hi := max bpC bpP
    fxRound (v * 2 ^ (hi - bpC) + (if neg then -p else p) * 2 ^ (hi - bpP)) hi dst
  | _, _ => return none

def fxMul (x : Fx) (bx : Nat) (y : Fx) (bY dst : Nat) : FxM Fx := fxSumProd (some 0) 0 false [(x, y)] (bx + bY) dst
def fxAdd (x : Fx) (bx : Nat) (y : Fx) (bY dst : Nat) (neg : Bool) : FxM Fx :=
  match x, y with
  | some a, some b =>
    let hi := max bx bY
    fxRound (a * 2 ^ (hi - bx) + (if neg then -b else b) * 2 ^ (hi - bY)) hi dst
  | _, _ => return none

def fxConv (x : Fx) (bx dst : Nat) : FxM Fx :=
  match x with
  | some v => fxRound v bx dst
  | none => return none

/-- a / b to nearest even, for b > 0. -/
def fxRecip (x : Fx) (bx dst : Nat) : FxM Fx :=
  match x with
  | none => return none
  | some v =>
    if v = 0 then return none
    else fxRound (divRne (if v < 0 then -(2 ^ (dst + bx) : Int) else 2 ^ (dst + bx)) v.natAbs) dst dst

/-- 1 / √x to nearest even (R246). -/
def fxRsqrt (x : Fx) (bx dst : Nat) : FxM Fx :=
  match x with
  | none => return none
  | some v =>
    if v ≤ 0 then return none
    else
      let p := 2 ^ (2 * dst + bx)
      let m := v.natAbs
      let q := isqrt (p / m)
      let h := (2 * q + 1) * (2 * q + 1) * m
      let q := if h < 4 * p ∨ (h = 4 * p ∧ q % 2 = 1) then q + 1 else q
      fxRound q dst dst

/-! ### Sine and cosine of an assembly step (R269) -/

/-- 2π in units of 2^-200. -/
def twoPiFix : Nat := 10096689509235987743946820282484873672429286842977325943070736

/-- Terms of the sine or cosine series, from t = x^k / k! on, in units of 2^-200. -/
def trigTerms (x : Int) : Nat → Nat → Int → Int
  | 0, _, _ => 0
  | n + 1, k, t => t + trigTerms x n (k + 2) (-(t * x / 2 ^ 200 * x / 2 ^ 200 / ((k + 1) * (k + 2) : Nat)))

/-- sin or cos of raw / 2^bp in units of 2^-60. -/
def trigFix (cosine : Bool) (v : Int) (bp : Nat) : Int :=
  let x := (v * 2 ^ (200 - bp)) % (twoPiFix : Int)
  let x := if 2 * x < twoPiFix then x else x - twoPiFix
  (if cosine then trigTerms x 40 0 (2 ^ 200) else trigTerms x 40 1 x) / 2 ^ 140

/-- SIN and COS: within 2^-28 of the exact value, freely (R269). -/
def fxTrig (cosine : Bool) (x : Fx) (bp : Nat) : FxM Fx :=
  match x with
  | none => return none
  | some v =>
    let raw := BitVec.ofNat 32 (fxRaw x)
    let e : Int := ((if cosine then Config.cosErr raw bp else Config.sinErr raw bp) % (2 ^ 33 + 1) : Nat)
    fxRound (trigFix cosine v bp + e - 2 ^ 32) 60 bp

/-! ### Matrices -/

/-- A matrix by rows. -/
abbrev Mx := Array (Array Fx)

def Mx.get (m : Mx) (i j : Nat) : Fx := (m.getD i #[]).getD j (some 0)
def Mx.put (m : Mx) (i j : Nat) (x : Fx) : Mx := m.modify i fun r => r.setIfInBounds j x
def Mx.zero (r c : Nat) : Mx := Array.replicate r (Array.replicate c (some 0))
def Mx.ofList (rows : List (List Fx)) : Mx := (rows.map (·.toArray)).toArray

/-- Pairs of products over k below n. -/
def pairsBelow (n : Nat) (f g : Nat → Fx) : List (Fx × Fx) := (List.range n).map fun k => (f k, g k)

/-! ### Pivots (R257, R258) -/

/-- EPS, LAMBDA (raw, binary point 24) and REG_EN. -/
structure PivotSet where
  eps : Nat
  lambda : Nat
  regEn : Bool
  deriving DecidableEq, Repr

/-- EPS or LAMBDA at a pivot's binary point (R250); a saturation counts (R255). -/
def at24 (raw bp : Nat) : FxM Fx := fxConv (fxOf raw) 24 bp

/-- LAMBDA at a pivot's binary point: at least one unit in the last place (R250). -/
def lambdaAt (p : PivotSet) (bp : Nat) : FxM Fx := do
  match ← at24 p.lambda bp with
  | some 0 => return some 1
  | x => return x

/-- A pivot is small against EPS at its binary point (R257). -/
def isSmall (eps : Fx) (definite : Bool) (d : Int) : Bool :=
  (match eps with
    | some e => decide ((d.natAbs : Int) < e)
    | none => false) || (definite && decide (d < 0))

def noteSmall (j : Nat) : FxM Unit := modify fun n =>
  { n with small := n.small + 1, first := match n.first with | some k => some k | none => some j }

/-- Check the pivot of column j (R258): the pivot used, or none where the factorisation stops. -/
def checkPivot (p : PivotSet) (definite : Bool) (bp j : Nat) (d : Fx) : FxM (Option Fx) :=
  match d with
  | none => do
    noteSmall j
    return none
  | some v => do
    let eps ← at24 p.eps bp
    let lambda ← lambdaAt p bp
    if !isSmall eps definite v then return some d
    else
      noteSmall j
      if !p.regEn then return none
      else
        modify fun n => { n with regs := n.regs + 1 }
        let w ← fxAdd d bp lambda bp bp (!definite && decide (v < 0))
        match w with
        | none => return none
        | some u => return if isSmall eps definite u then none else some w

/-! ### Factorisations (R252) -/

/-- A factor: its entries (at BP_F), reciprocals of the pivots, row order, and the column at which it stopped. -/
structure Factor where
  f : Mx
  rinv : Array Fx
  perm : Array Nat
  stop : Option Nat
  deriving Repr

/-- Rows above i of column j, by recursion over rows: entries l[i][j] for i from j + 1. -/
def cholColumn (a : Mx) (bpA bpF j : Nat) (r : Fx) : List Nat → Mx → FxM Mx
  | [], l => return l
  | i :: is, l => do
    let v ← fxSumProd (a.get i j) bpA true (pairsBelow j (l.get i) (l.get j)) (2 * bpF) bpA
    let x ← fxMul v bpA r bpF bpF
    cholColumn a bpA bpF j r is (l.put i j x)

/-- CHOL (R252). -/
def cholFrom (a : Mx) (p : PivotSet) (n bpA bpF : Nat) : List Nat → Factor → FxM Factor
  | [], s => return s
  | j :: js, s => do
    let d ← fxSumProd (a.get j j) bpA true (pairsBelow j (s.f.get j) (s.f.get j)) (2 * bpF) bpA
    match ← checkPivot p true bpA j d with
    | none => return { s with stop := some j }
    | some d =>
      let r ← fxRsqrt d bpA bpF
      let x ← fxMul d bpA r bpF bpF
      let l ← cholColumn a bpA bpF j r ((List.range n).filter (j < ·)) (s.f.put j j x)
      cholFrom a p n bpA bpF js { s with f := l, rinv := s.rinv.setIfInBounds j r }

def emptyFactor (n : Nat) : Factor :=
  { f := Mx.zero n n, rinv := Array.replicate n (some 0), perm := (List.range n).toArray, stop := none }

def chol (a : Mx) (p : PivotSet) (n bpA bpF : Nat) : FxM Factor := cholFrom a p n bpA bpF (List.range n) (emptyFactor n)

/-- The rows below j of LDLT: v rounded to BP_A, then times the reciprocal. -/
def ldltColumn (a : Mx) (w : Nat → Fx) (bpA bpF j : Nat) (r : Fx) : List Nat → Mx → FxM Mx
  | [], l => return l
  | i :: is, l => do
    let v ← fxSumProd (a.get i j) bpA true (pairsBelow j (l.get i) w) (bpF + bpA) bpA
    let x ← fxMul v bpA r bpF bpF
    ldltColumn a w bpA bpF j r is (l.put i j x)

/-- LDLT: w[k] = d[k] × l[j][k] at BP_A, d[j] = a[j][j] - Σ l[j][k] × w[k]. -/
def ldltFrom (a : Mx) (p : PivotSet) (n bpA bpF : Nat) : List Nat → List Fx → Factor → FxM Factor
  | [], _, s => return s
  | j :: js, ds, s => do
    let ws ← (ds.zipIdx).mapM fun d => fxMul d.1 bpA (s.f.get j d.2) bpF bpA
    let w := fun k => ws.getD k (some 0)
    let d ← fxSumProd (a.get j j) bpA true (pairsBelow j (s.f.get j) w) (bpF + bpA) bpA
    match ← checkPivot p false bpA j d with
    | none => return { s with stop := some j }
    | some d =>
      let r ← fxRecip d bpA bpF
      let df ← fxConv d bpA bpF
      let l ← ldltColumn a w bpA bpF j r ((List.range n).filter (j < ·)) (s.f.put j j df)
      ldltFrom a p n bpA bpF js (ds ++ [d]) { s with f := l, rinv := s.rinv.setIfInBounds j r }

def ldlt (a : Mx) (p : PivotSet) (n bpA bpF : Nat) : FxM Factor := ldltFrom a p n bpA bpF (List.range n) [] (emptyFactor n)

/-- Column j of LU before its pivot: row i is a - Σ over k below min i j of l[i][k] × u[k][j], at BP_F. -/
def luColumn (a : Mx) (bpA bpF j : Nat) (perm : Array Nat) : List Nat → Mx → FxM Mx
  | [], m => return m
  | i :: is, m => do
    let k := min i j
    let v ← fxSumProd (a.get (perm.getD i 0) j) bpA true (pairsBelow k (m.get i) fun q => m.get q j) (2 * bpF) bpF
    luColumn a bpA bpF j perm is (m.put i j v)

/-- The row of largest magnitude in column j at or below row j, the lowest among equals; NaR is below every number. -/
def pivotRow (m : Mx) (n j : Nat) : Nat :=
  let mag := fun i => match m.get i j with
    | some v => (v.natAbs : Int)
    | none => -1
  ((List.range n).filter (j ≤ ·)).foldl (fun b i => if mag b < mag i then i else b) j

def swapRows (m : Mx) (i j : Nat) : Mx :=
  let a := m.getD i #[]
  let b := m.getD j #[]
  (m.setIfInBounds i b).setIfInBounds j a

/-- Entries of L below the pivot. -/
def luScale (bpF j : Nat) (r : Fx) : List Nat → Mx → FxM Mx
  | [], m => return m
  | i :: is, m => do
    let x ← fxMul (m.get i j) bpF r bpF bpF
    luScale bpF j r is (m.put i j x)

/-- LU with the pivot choice of R252. -/
def luFrom (a : Mx) (p : PivotSet) (n bpA bpF : Nat) : List Nat → Factor → FxM Factor
  | [], s => return s
  | j :: js, s => do
    let m ← luColumn a bpA bpF j s.perm (List.range n) s.f
    let b := pivotRow m n j
    let m := swapRows m j b
    let perm := (s.perm.setIfInBounds j (s.perm.getD b 0)).setIfInBounds b (s.perm.getD j 0)
    match ← checkPivot p false bpF j (m.get j j) with
    | none => return { s with f := m, perm := perm, stop := some j }
    | some d =>
      let r ← fxRecip d bpF bpF
      let m ← luScale bpF j r ((List.range n).filter (j < ·)) (m.put j j d)
      luFrom a p n bpA bpF js { s with f := m, perm := perm, rinv := s.rinv.setIfInBounds j r }

def lu (a : Mx) (p : PivotSet) (n bpA bpF : Nat) : FxM Factor := luFrom a p n bpA bpF (List.range n) (emptyFactor n)

/-! ### Householder QR

The spec names the method and gives neither the binary points of its intermediate values nor the sign of a diagonal entry:
both are free (log entry 10). The unit has no square root: a norm is s × rsqrt(s). -/

/-- Point `i` of the intermediate values. -/
def qrBp (i bpA bpF : Nat) : Nat := Config.qrPoint i bpA bpF % 32

/-- Entries of column c at or below row j. -/
def below (w : Mx) (j m c : Nat) : List Fx := ((List.range m).filter (j ≤ ·)).map fun i => w.get i c

/-- One column less twice its part along v: `bps` the points of the working matrix, the dot product and the scaled product. -/
def reflectColumn (v : Nat → Fx) (beta : Fx) (bpB : Nat) (bps : Nat → Nat) (j m c : Nat) (w : Mx) : FxM Mx := do
  let is := (List.range m).filter (j ≤ ·)
  let t ← fxSumProd (some 0) 0 false (is.map fun i => (v i, w.get i c)) (2 * bps 0) (bps 3)
  let u ← fxSumProd (some 0) 0 false [(t, beta), (t, beta)] (bps 3 + bpB) (bps 4)
  is.foldlM (fun w' i => do return w'.put i c (← fxSumProd (w.get i c) (bps 0) true [(u, v i)] (bps 4 + bps 0) (bps 0))) w

/-- Reflect the columns after j so that column j becomes (alpha, 0, ...) from row j on. -/
def reflect (alpha : Fx) (bps : Nat → Nat) (j m cols : Nat) (w : Mx) : FxM Mx := do
  let top ← fxAdd (w.get j j) (bps 0) alpha (bps 0) (bps 0) true
  let v := fun i => if i = j then top else w.get i j
  let vs := ((List.range m).filter (j ≤ ·)).map v
  let vv ← fxSumProd (some 0) 0 false (vs.map fun x => (x, x)) (2 * bps 0) (bps 1)
  if vv = some 0 then return w
  else
    let beta ← fxRecip vv (bps 1) (bps 2)
    ((List.range cols).filter (j < ·)).foldlM (fun w c => reflectColumn v beta (bps 2) bps j m c w) w

/-- QR from a column on: the factor R and the working matrix, which ends as transpose(Q) of A beside B. -/
def qrFrom (p : PivotSet) (m n cols bpF : Nat) (bps : Nat → Nat) : List Nat → Factor → Mx → FxM (Factor × Mx)
  | [], s, w => return (s, w)
  | j :: js, s, w => do
    let col := below w j m j
    let q ← fxSumProd (some 0) 0 false (col.map fun x => (x, x)) (2 * bps 0) (bps 1)
    let g ← fxRsqrt q (bps 1) (bps 2)
    let norm ← if q = some 0 then pure (some 0) else fxMul q (bps 1) g (bps 2) (bps 0)
    let alpha : Fx := if Config.qrSign j (col.map fun x => BitVec.ofNat 32 (fxRaw x)) then norm.map fun v => -v else norm
    match ← checkPivot p false bpF j (← fxConv alpha (bps 0) bpF) with
    | none => return ({ s with stop := some j }, w)
    | some d =>
      let r ← fxRecip d bpF bpF
      let w ← reflect alpha bps j m cols w
      let row : List Fx ← (List.range n).mapM fun c =>
        if c < j then pure (some 0 : Fx) else if c = j then pure d else fxConv (w.get j c) (bps 0) bpF
      qrFrom p m n cols bpF bps js { s with f := s.f.setIfInBounds j row.toArray, rinv := s.rinv.setIfInBounds j r } w

/-- QR of A beside B (R252): the factor and transpose(Q) B. -/
def qr (a b : Mx) (p : PivotSet) (m n r bpA bpB bpF : Nat) : FxM (Factor × Mx) := do
  let bps := fun i => qrBp i bpA bpF
  let rows ← (List.range m).mapM fun i => do
    let x ← (List.range n).mapM fun j => fxConv (a.get i j) bpA (bps 0)
    let y ← (List.range r).mapM fun j => fxConv (b.get i j) bpB (bps 0)
    return x ++ y
  qrFrom p m n (n + r) bpF bps (List.range n) (emptyFactor n) (Mx.ofList rows)

/-- The pivots of a triangular matrix and their reciprocals (R257). -/
def triFrom (a : Mx) (p : PivotSet) (bpA bpF : Nat) : List Nat → Factor → FxM Factor
  | [], s => return s
  | j :: js, s => do
    match ← checkPivot p false bpA j (a.get j j) with
    | none => return { s with stop := some j }
    | some d =>
      let r ← fxRecip d bpA bpF
      triFrom a p bpA bpF js { s with rinv := s.rinv.setIfInBounds j r }

/-! ### Solves -/

/-- A forward or back substitution over rows in an order: x[i] = (b[i] - Σ m[i][k] × x[k] over the rows done) × scale[i]. -/
def substFrom (m : Nat → Nat → Fx) (bpM : Nat) (b : Nat → Fx) (bpB : Nat) (scale : Nat → Option Fx) (bpF bpX : Nat) :
    List Nat → List Nat → Array Fx → FxM (Array Fx)
  | [], _, x => return x
  | i :: is, done, x => do
    let v ← fxSumProd (b i) bpB true (done.map fun k => (m i k, x.getD k (some 0))) (bpM + bpX) bpX
    let y ← match scale i with
      | some r => fxMul v bpX r bpF bpX
      | none => pure v
    substFrom m bpM b bpB scale bpF bpX is (i :: done) (x.setIfInBounds i y)

def subst (m : Nat → Nat → Fx) (bpM : Nat) (b : Nat → Fx) (bpB : Nat) (scale : Nat → Option Fx) (bpF bpX n : Nat) (order : List Nat) :
    FxM (Array Fx) := substFrom m bpM b bpB scale bpF bpX order [] (Array.replicate n (some 0))

/-- The solution for one right-hand side from a CHOL factor (R252). -/
def cholSolve (s : Factor) (n bpF bpB bpX : Nat) (b : Nat → Fx) : FxM (Array Fx) := do
  let up := List.range n
  let r := fun i => some (s.rinv.getD i none)
  let y ← subst s.f.get bpF b bpB r bpF bpX n up
  subst (fun i k => s.f.get k i) bpF (fun i => y.getD i none) bpX r bpF bpX n up.reverse

def ldltSolve (s : Factor) (n bpF bpB bpX : Nat) (b : Nat → Fx) : FxM (Array Fx) := do
  let up := List.range n
  let y ← subst s.f.get bpF b bpB (fun _ => none) bpF bpX n up
  let z ← y.toList.zipIdx.mapM fun v => fxMul v.1 bpX (s.rinv.getD v.2 none) bpF bpX
  subst (fun i k => s.f.get k i) bpF (fun i => z.getD i none) bpX (fun _ => none) bpF bpX n up.reverse

def luSolve (s : Factor) (n bpF bpB bpX : Nat) (b : Nat → Fx) : FxM (Array Fx) := do
  let up := List.range n
  let y ← subst s.f.get bpF (fun i => b (s.perm.getD i 0)) bpB (fun _ => none) bpF bpX n up
  subst s.f.get bpF (fun i => y.getD i none) bpX (fun i => some (s.rinv.getD i none)) bpF bpX n up.reverse

/-- The least-squares solution from a QR factor and a column of transpose(Q) B. -/
def qrSolve (s : Factor) (n bpF bpW bpX : Nat) (b : Nat → Fx) : FxM (Array Fx) :=
  subst s.f.get bpF b bpW (fun i => some (s.rinv.getD i none)) bpF bpX n (List.range n).reverse

def triSolve (a : Mx) (s : Factor) (upper : Bool) (n bpA bpF bpB bpX : Nat) (b : Nat → Fx) : FxM (Array Fx) :=
  subst a.get bpA b bpB (fun i => some (s.rinv.getD i none)) bpF bpX n (if upper then (List.range n).reverse else List.range n)

end Sys2Proof.Machine
end

