-- ==== Sys2Proof/Machine/Assembly.lean ====
section
/-! DEFINITION. The assembly stage (R268 to R270): the meaning of each step word, and the evaluation of a model. -/
namespace Sys2Proof.Machine

/-! ### Fields of a step word (R269) -/

def stDst (w : Word) : Nat := bits w 57 50
def stSa (w : Word) : Nat := bits w 49 42
def stSb (w : Word) : Nat := bits w 41 34
def stRow (w : Word) : Nat := bits w 33 28
def stCol (w : Word) : Nat := bits w 27 22
def stIdx (w : Word) : Nat := bits w 21 0

def Asm.reg (a : Asm) (i : Nat) : Fx := fxOf (at_ a.s i 0).toNat

/-- A scratch register takes a result; saturations are counted (R255). -/
def Asm.store (a : Asm) (i : Nat) (f : FxM Fx) : Asm :=
  let r := f.run {}
  { a with s := put a.s i (BitVec.ofNat 32 (fxRaw r.1)), sat := a.sat + r.2.sat }

/-- ADD and SUB. -/
def Asm.addSub (a : Asm) (w : Word) (neg : Bool) : Asm :=
  a.store (stDst w) (fxAdd (a.reg (stSa w)) a.bpS (a.reg (stSb w)) a.bpS a.bpS neg)

/-- An undefined step (R275.2) leaves its destination's value free. -/
def Asm.undefined (a : Asm) : Asm := { a with undef := true }

/-- A step that computes over registers. -/
abbrev AsmStep := Word → Word → Asm → TaskM Asm

def asmEndStep : AsmStep := fun _ _ a => return { a with ended := true }
def ldxStep : AsmStep := fun w _ a => do
  match a.x[stIdx w]? with
  | some v => return a.store (stDst w) (fxConv (fxOf v.toNat) (a.bpX.getD (stIdx w) 0) a.bpS)
  | none =>
    let s ← get
    let (k, s) := s.take 1
    set s
    return { a with undef := true, s := put a.s (stDst w) (Config.freeReg k) }

/-- Input bytes at an offset: of the CAN_FRAME unit for the ego estimator, free beyond its end (log entry 10); else of memory,
where a fault ends the evaluation (R265, R270). -/
def Asm.inputAt (a : Asm) (o n : Nat) : TaskM (List Byte) :=
  match a.input with
  | none => readM (a.argVa + o) n
  | some bs => do
    let s ← get
    let (k, s) := s.take n
    set s
    return grab k bs o n

def ldiStep : AsmStep := fun w _ a => do
  let bs ← a.inputAt (4 * stIdx w) 4
  return a.store (stDst w) (fxConv (fxOf (leNat bs)) a.bpIn a.bpS)
def ldhStep : AsmStep := fun w _ a => do
  let bs ← a.inputAt (stIdx w) 2
  return a.store (stDst w) (fxRound (sgn 16 (leNat bs)) 0 a.bpS)
def ldkStep : AsmStep := fun w k a => return { a with s := put a.s (stDst w) (BitVec.ofNat 32 (bits k 31 0)) }
def addStep : AsmStep := fun w _ a => return a.addSub w false
def subStep : AsmStep := fun w _ a => return a.addSub w true
def mulStep : AsmStep := fun w _ a => return a.store (stDst w) (fxMul (a.reg (stSa w)) a.bpS (a.reg (stSb w)) a.bpS a.bpS)
def macStep : AsmStep := fun w _ a =>
  return a.store (stDst w) (fxSumProd (a.reg (stDst w)) a.bpS false [(a.reg (stSa w), a.reg (stSb w))] (2 * a.bpS) a.bpS)
def sinStep : AsmStep := fun w _ a => return a.store (stDst w) (fxTrig false (a.reg (stSa w)) a.bpS)
def cosStep : AsmStep := fun w _ a => return a.store (stDst w) (fxTrig true (a.reg (stSa w)) a.bpS)
def recipStep : AsmStep := fun w _ a => return a.store (stDst w) (fxRecip (a.reg (stSa w)) a.bpS a.bpS)
def rsqrtStep : AsmStep := fun w _ a => return a.store (stDst w) (fxRsqrt (a.reg (stSa w)) a.bpS a.bpS)
def staStep : AsmStep := fun w _ a =>
  let r := (fxConv (a.reg (stSa w)) a.bpS a.bpA).run {}
  let k := (stRow w, stCol w)
  let v : BitVec 32 := BitVec.ofNat 32 (fxRaw r.1)
  return if a.rows ≤ k.1 ∨ a.cols ≤ k.2 then a.undefined
    else { a with a := (k, v) :: a.a.filter (fun e => !(e.1 == k)), sat := a.sat + r.2.sat }
def stbStep : AsmStep := fun w _ a =>
  let r := (fxConv (a.reg (stSa w)) a.bpS a.bpB).run {}
  let k := stRow w
  let v : BitVec 32 := BitVec.ofNat 32 (fxRaw r.1)
  return if a.rows ≤ k then a.undefined
    else { a with b := (k, v) :: a.b.filter (fun e => !(e.1 == k)), sat := a.sat + r.2.sat }

/-- The step that an OP names (R269); values not listed act as END. -/
def stepOf (op : Nat) : AsmStep :=
  match op with
  | 1 => ldxStep | 2 => ldiStep | 3 => ldhStep | 4 => ldkStep | 5 => addStep | 6 => subStep | 7 => mulStep | 8 => macStep
  | 9 => sinStep | 10 => cosStep | 11 => recipStep | 12 => rsqrtStep | 13 => staStep | 14 => stbStep
  | _ => asmEndStep

/-- Run an evaluation from step word `i` on, at most to word `steps` (R270). -/
def evalFrom (va steps : Nat) : Nat → Nat → Asm → TaskM Asm
  | 0, _, a => return a
  | fuel + 1, i, a => do
    if a.ended ∨ steps ≤ i then return { a with ended := true }
    else
      let w := wAt (← readWords (va + 8 * i) 1) 0
      let k ← if bits w 63 58 = 4 then readWords (va + 8 * (i + 1)) 1 else pure []
      let a ← stepOf (bits w 63 58) w (wAt k 0) a
      evalFrom va steps fuel (if bits w 63 58 = 4 then i + 2 else i + 1) a

/-- Evaluate the model at an address in a fresh context: every scratch register and element is 0 (R270). -/
def evaluate (modelVa : Nat) (a : Asm) : TaskM Asm := do
  let h ← readWords modelVa 2
  let a := { a with bpIn := bits (wAt h 1) 44 40, bpS := bits (wAt h 1) 36 32 }
  let a ← evalFrom (modelVa + 16) (bits (wAt h 1) 15 0) (bits (wAt h 1) 15 0 + 1) 0 a
  modify fun s => { s with solver := { s.solver with asm := a } }
  return a

/-- A matrix that an evaluation wrote. -/
def Asm.mx (a : Asm) : Mx := a.a.foldl (fun m e => m.put e.1.1 e.1.2 (fxOf e.2.toNat)) (Mx.zero a.rows a.cols)
def Asm.vec (a : Asm) : Array Fx :=
  a.b.foldl (fun v e => v.setIfInBounds e.1 (fxOf e.2.toNat)) (Array.replicate a.rows (some 0))

/-! ### The rows (R269)

A row runs one step of the evaluation in progress; when the evaluation has ended nothing happens. Its OP is the row's. -/

/-- Saturations counted in SV_SAT and SATURATIONS (R255, R272, R274). -/
def State.countSat (s : State) (n : Nat) : State :=
  { s with solver := { s.solver with sat := sat32 (s.solver.sat + n), satTotal := sat32 (s.solver.satTotal + n) } }

/-- One step of the evaluation in progress. -/
def State.asmStep (s : State) (f : AsmStep) (w k : Word) : State :=
  let a := s.solver.asm
  if a.ended then s else
  match (f w k a).go s with
  | (.ok b, t) => { t with solver := { t.solver with asm := b } }.countSat (b.sat - a.sat)
  | (.error _, t) => { t with solver := { t.solver with asm := { a with fault := true, ended := true } } }

def execAsmEnd (s : State) : Host.Outcome State Fault Refusal := fin s [.solver] (s.asmStep asmEndStep 0 0)
def execLdx (w : Word) (s : State) : Host.Outcome State Fault Refusal := fin s [.solver, .free] (s.asmStep ldxStep w 0)
def execLdi (w : Word) (s : State) : Host.Outcome State Fault Refusal :=
  fin s (logParts ++ [.solver, .mem]) (s.asmStep ldiStep w 0)
def execLdh (w : Word) (s : State) : Host.Outcome State Fault Refusal :=
  fin s (logParts ++ [.solver, .mem]) (s.asmStep ldhStep w 0)
def execLdk (w k : Word) (s : State) : Host.Outcome State Fault Refusal := fin s [.solver] (s.asmStep ldkStep w k)
def execAdd (w : Word) (s : State) : Host.Outcome State Fault Refusal := fin s [.solver] (s.asmStep addStep w 0)
def execSub (w : Word) (s : State) : Host.Outcome State Fault Refusal := fin s [.solver] (s.asmStep subStep w 0)
def execMul (w : Word) (s : State) : Host.Outcome State Fault Refusal := fin s [.solver] (s.asmStep mulStep w 0)
def execMac (w : Word) (s : State) : Host.Outcome State Fault Refusal := fin s [.solver] (s.asmStep macStep w 0)
def execSin (w : Word) (s : State) : Host.Outcome State Fault Refusal := fin s [.solver] (s.asmStep sinStep w 0)
def execCos (w : Word) (s : State) : Host.Outcome State Fault Refusal := fin s [.solver] (s.asmStep cosStep w 0)
def execRecip (w : Word) (s : State) : Host.Outcome State Fault Refusal := fin s [.solver] (s.asmStep recipStep w 0)
def execRsqrt (w : Word) (s : State) : Host.Outcome State Fault Refusal := fin s [.solver] (s.asmStep rsqrtStep w 0)
def execSta (w : Word) (s : State) : Host.Outcome State Fault Refusal := fin s [.solver] (s.asmStep staStep w 0)
def execStb (w : Word) (s : State) : Host.Outcome State Fault Refusal := fin s [.solver] (s.asmStep stbStep w 0)

end Sys2Proof.Machine
end

