-- ==== Sys2Proof/Machine/Filter.lean ====
section
/-! DEFINITION. The matrix arithmetic of the Kalman filters (R222, R226, R228, R259) in FX32: every element is an exact sum
of products rounded once (R254, R255). The spec gives no binary point for what is neither read nor written: those are free
(log entry 24). -/
namespace Sys2Proof.Machine

/-! ### Matrices with their binary point -/

/-- A matrix of FX32 values. -/
structure FxMat where
  rows : Nat
  cols : Nat
  bp : Nat
  m : Mx

def FxMat.at_ (a : FxMat) (i j : Nat) : Fx := a.m.get i j

/-- A matrix from its elements. -/
def FxMat.build (rows cols bp : Nat) (f : Nat → Nat → FxM Fx) : FxM FxMat := do
  let rs ← (List.range rows).mapM fun i => (List.range cols).mapM fun j => f i j
  return { rows := rows, cols := cols, bp := bp, m := Mx.ofList rs }

/-- A matrix whose elements are given. -/
def FxMat.of (rows cols bp : Nat) (f : Nat → Nat → Fx) : FxMat :=
  { rows := rows, cols := cols, bp := bp, m := Mx.ofList ((List.range rows).map fun i => (List.range cols).map fun j => f i j) }

def FxMat.flip (a : FxMat) : FxMat := .of a.cols a.rows a.bp fun i j => a.at_ j i

/-- Row i of a with column j of b. -/
def rowCol (a b : FxMat) (i j : Nat) : List (Fx × Fx) := pairsBelow a.cols (fun k => a.at_ i k) (fun k => b.at_ k j)

/-- a × b at a binary point. -/
def FxMat.times (a b : FxMat) (dst : Nat) : FxM FxMat :=
  FxMat.build a.rows b.cols dst fun i j => fxSumProd (some 0) 0 false (rowCol a b i j) (a.bp + b.bp) dst

/-- c + a × b, or c - a × b, at a binary point: one sum, rounded once. -/
def FxMat.addTimes (c : FxMat) (neg : Bool) (a b : FxMat) (dst : Nat) : FxM FxMat :=
  FxMat.build a.rows b.cols dst fun i j => fxSumProd (c.at_ i j) c.bp neg (rowCol a b i j) (a.bp + b.bp) dst

/-- 1 at a binary point. -/
def fxOne (bp : Nat) : Fx := (fxSat (2 ^ bp)).1

/-- n / d at a binary point, rounded once. -/
def fxQuot (n : Int) (d bp : Nat) : FxM Fx := fxRound (divRne (n * 2 ^ bp) d) bp bp

/-- The square root of an FX32 sum, at a binary point and with a largest value; how it is rounded, and the root of a negative
sum, are not stated: free (log entry 24). -/
def fixRoot (v : Int) (bp dst cap : Nat) : Nat :=
  if v < 0 then Config.rootUp v.natAbs bp % (cap + 1) else
  let n := v.toNat * 2 ^ (2 * dst)
  let q := isqrt (n / 2 ^ bp)
  min cap (if q * q * 2 ^ bp = n then q else q + Config.rootUp v.natAbs bp % 2)

/-- FX32 of an FP32 value. -/
def toFx (v : Num) (bp : Nat) : Nat := (encodeNum 9 bp 0 0 v).code

/-- FX32 of an FP32 value in work on the solver: a saturation counts (R255). -/
def fxFrom (v : Num) (bp : Nat) : FxM Fx := do
  let e := encodeNum 9 bp 0 0 v
  modify fun n => { n with sat := n.sat + b2n e.sat }
  return fxOf e.code

/-! ### Motion models (R222) -/

/-- The axis of a state component and its order: 0 position or yaw, 1 its rate, 2 acceleration; extents have none. -/
def chainOf (c : Nat) : Option (Nat × Nat) :=
  if c < 9 then some (c % 3, c / 3) else if c = 12 then some (3, 0) else if c = 13 then some (3, 1) else none

def fact (n : Nat) : Nat := if n = 0 then 1 else if n = 1 then 1 else 2

/-- One second in units of 2^-16 ns, the unit of times. -/
def secUnits : Nat := 65536000000000

/-- F(dt): over a time each component takes dt^k / k! of the k-th rate of its axis. -/
def motionF (comps : List Nat) (dt : Int) (bp : Nat) : FxM FxMat :=
  let c := fun i => chainOf (comps.getD i 0)
  FxMat.build comps.length comps.length bp fun i j =>
    if i = j then pure (fxOne bp) else
    match c i, c j with
    | some (x, a), some (y, b) =>
      if x = y ∧ a < b then fxQuot (dt ^ (b - a)) (fact (b - a) * secUnits ^ (b - a)) bp else pure (some 0)
    | _, _ => pure (some 0)

/-- The noise densities: of acceleration, of jerk, of yaw acceleration. -/
structure Noise where
  acc : Fx
  jerk : Fx
  yaw : Fx

/-- Q over a time: the last rate of each axis is driven by white noise of its density. -/
def motionQ (n : Noise) (comps : List Nat) (accel : Bool) (dt : Nat) (bp : Nat) : FxM FxMat :=
  let c := fun i => chainOf (comps.getD i 0)
  FxMat.build comps.length comps.length bp fun i j =>
    match c i, c j with
    | some (x, a), some (y, b) =>
      if x ≠ y then pure (some 0) else
      let top := if accel ∧ x ≠ 3 then 2 else 1
      let q := if x = 3 then n.yaw else if accel then n.jerk else n.acc
      let p := 2 * top + 1 - a - b
      match q with
      | some q => fxQuot (q * (dt ^ p : Nat)) (p * fact (top - a) * fact (top - b) * secUnits ^ p * (if x = 3 then 2 ^ 24 else 1)) bp
      | none => pure none
    | _, _ => pure (some 0)

/-! ### Measurement updates (R226, R228, R259) -/

/-- A stacked measurement: the measurement of the state, the innovation, and its noise. -/
structure Measured where
  h : FxMat
  y : FxMat
  r : FxMat

/-- H P, and the innovation covariance H P transpose(H) + R. -/
def Measured.cov (m : Measured) (p : FxMat) (bpT bpS : Nat) : FxM (FxMat × FxMat) := do
  let t ← m.h.times p bpT
  let s ← m.r.addTimes false t m.h.flip bpS
  return (t, s)

/-- The gain from the Cholesky factor of the innovation covariance: row i at the binary point of state i; none where the
factorisation stops (R258). -/
def gainRows (piv : PivotSet) (t s : FxMat) (bpF : Nat) (bpK : Nat → Nat) : FxM (Option (List (Array Fx))) := do
  let n := s.rows
  let f ← chol s.m piv n s.bp bpF
  if f.stop.isSome then return none
  else
    let k ← (List.range t.cols).mapM fun j => cholSolve f n bpF t.bp (bpK j) fun i => t.at_ i j
    return some k

/-- K y for state i, added to a value. -/
def gainTimes (k : List (Array Fx)) (bpK : Nat → Nat) (y : FxMat) (i : Nat) (c : Fx) (bpC dst : Nat) : FxM Fx :=
  fxSumProd c bpC false (pairsBelow y.rows (fun m => (k.getD i #[]).getD m none) (fun m => y.at_ m 0)) (bpK i + y.bp) dst

/-- The sum of two sums of products, rounded once. -/
def fxTwo (a : List (Fx × Fx)) (bpA : Nat) (b : List (Fx × Fx)) (bpB dst : Nat) : FxM Fx :=
  match exactDot a, exactDot b with
  | some x, some y =>
    let hi := max bpA bpB
    fxRound (x * 2 ^ (hi - bpA) + y * 2 ^ (hi - bpB)) hi dst
  | _, _ => return none

/-- The Joseph form (I - K H) P transpose(I - K H) + K R transpose(K), at the binary point of P; `bp` those of the three
products formed on the way. -/
def joseph (k : List (Array Fx)) (bpK : Nat → Nat) (m : Measured) (p : FxMat) (bp : Nat → Nat) : FxM FxMat := do
  let n := p.rows
  let kk := fun i q => (k.getD i #[]).getD q none
  let a ← FxMat.build n n (bp 0) fun i j =>
    fxSumProd (if i = j then fxOne (bp 0) else some 0) (bp 0) true
      (pairsBelow m.h.rows (kk i) (fun q => m.h.at_ q j)) (bpK i + m.h.bp) (bp 0)
  let u ← a.times p (bp 1)
  let v ← FxMat.build n m.r.cols (bp 2) fun i j =>
    fxSumProd (some 0) 0 false (pairsBelow m.r.rows (kk i) (fun q => m.r.at_ q j)) (bpK i + m.r.bp) (bp 2)
  FxMat.build n n p.bp fun i j =>
    fxTwo (pairsBelow n (fun q => u.at_ i q) (fun q => a.at_ j q)) (u.bp + a.bp)
      (pairsBelow m.r.cols (fun q => v.at_ i q) (kk j)) (v.bp + bpK j) p.bp

end Sys2Proof.Machine
end

