-- ==== Sys2Proof/Machine/Solver.lean ====
section
/-! DEFINITION. The batched solver (ch. 10): problems, SOLVE, deadlines and faults, messages. -/
namespace Sys2Proof.Machine

/-! ### Problems (R251) -/

/-- A matrix in memory: address and distance of its rows in elements. -/
structure MatAt where
  va : Nat
  ld : Nat
  deriving DecidableEq, Repr

def MatAt.at_ (m : MatAt) (r c : Nat) : Nat := (m.va + 4 * (r * m.ld + c)) % 2 ^ 48

/-- A problem descriptor. -/
structure Prob where
  n : Nat
  m : Nat
  r : Nat
  bpA : Nat
  bpB : Nat
  bpX : Nat
  bpF : Nat
  w0 : Word
  pattern : Word
  a : MatAt
  b : MatAt
  x : MatAt
  f : MatAt
  warmVa : Nat
  argVa : Nat
  deriving DecidableEq, Repr

def probOf (ws : List Word) : Prob :=
  let w := wAt ws 0
  let mat := fun i => { va := bits (wAt ws i) 47 0, ld := bits (wAt ws i) 63 48 : MatAt }
  let a := mat 2
  { n := bits w 62 56, m := bits w 54 48, r := bits w 46 40, bpA := bits w 36 32, bpB := bits w 28 24, bpX := bits w 20 16
    bpF := bits w 12 8, w0 := w, pattern := wAt ws 1, a := { a with va := a.va / 4 * 4 }, b := mat 3, x := mat 4, f := mat 5
    warmVa := bits (wAt ws 6) 47 6 * 64, argVa := bits (wAt ws 7) 47 2 * 4 }

/-- Fields of the SOLVE (R250). -/
structure SolveCmd where
  sop : Nat
  regEn : Bool
  warmEn : Bool
  useAsm : Bool
  count : Nat
  maxIter : Nat
  piv : PivotSet
  probVa : Nat
  statusVa : Nat
  modelVa : Nat
  tol : Fx

def solveOf (ws : List Word) : SolveCmd :=
  let w := wAt ws 0
  let it := bits w 3 0
  { sop := bits w 55 52, regEn := bit w 51, warmEn := bit w 50, useAsm := bit w 49, count := bits w 44 32
    maxIter := if it = 0 ∨ 8 < it then 8 else it
    piv := { eps := bits (wAt ws 1) 63 32, lambda := bits (wAt ws 1) 31 0, regEn := bit w 51 }
    probVa := bits (wAt ws 2) 47 6 * 64, statusVa := bits (wAt ws 3) 47 3 * 8, modelVa := bits (wAt ws 4) 47 6 * 64
    tol := fxOf (bits (wAt ws 5) 31 0) }

/-- Columns of X. -/
def SolveCmd.cols (c : SolveCmd) (p : Prob) : Nat := if c.sop = 6 then 1 else p.r

/-- Rows of A or J. -/
def SolveCmd.rows (c : SolveCmd) (p : Prob) : Nat := if c.sop = 3 ∨ c.sop = 6 then p.m else p.n

/-- The operation writes a factor (R251, R252). -/
def SolveCmd.factor (c : SolveCmd) (p : Prob) : Bool := p.f.va != 0 && c.sop != 4 && c.sop != 5

/-- A problem that R275.1 leaves undefined. -/
def SolveCmd.bad (c : SolveCmd) (p : Prob) : Bool :=
  decide (6 < c.sop) || (c.sop = 6 && !c.useAsm) || p.n = 0 || decide (64 < p.n) || (c.sop != 6 && decide (64 < p.r)) ||
  (c.sop = 3 && (decide (p.m < p.n) || decide (64 < p.m))) || (c.sop = 6 && (p.m = 0 || decide (64 < p.m))) ||
  (!c.useAsm && (decide (p.a.ld < p.n) || decide (p.b.ld < p.r))) || decide (p.x.ld < c.cols p) ||
  (c.factor p && decide (p.f.ld < p.n))

/-- Runs of bytes of a matrix. -/
def MatAt.runs (m : MatAt) (rows : Nat) (cols : Nat → Nat × Nat) : List (Nat × Nat) :=
  (List.range rows).map fun r => (m.at_ r (cols r).1, 4 * (cols r).2)

/-- The columns of row i of A that an operation reads: first and number (R252). -/
def SolveCmd.reads (c : SolveCmd) (p : Prob) (i : Nat) : Nat × Nat :=
  if c.sop = 0 ∨ c.sop = 1 ∨ c.sop = 4 then (0, i + 1) else if c.sop = 5 then (i, p.n - i) else (0, p.n)

/-- Runs that a problem writes: X, F, warm record. -/
def SolveCmd.outRuns (c : SolveCmd) (p : Prob) : List (Nat × Nat) :=
  p.x.runs p.n (fun _ => (0, c.cols p)) ++
  (if c.factor p then p.f.runs (p.n + (if c.sop = 2 then 2 else 1)) (fun _ => (0, p.n)) else []) ++
  (if c.sop = 6 ∧ c.warmEn ∧ p.warmVa ≠ 0 then [(p.warmVa, 272)] else [])

/-- Runs that a problem reads and does not also write. -/
def SolveCmd.inRuns (c : SolveCmd) (p : Prob) : List (Nat × Nat) :=
  if c.useAsm then [] else p.a.runs (c.rows p) (c.reads p) ++ p.b.runs (c.rows p) (fun _ => (0, p.r))

/-- The input runs of a model: its words and the inputs that its steps name (R268, R269). -/
def State.modelRuns (s : State) (va : Nat) (args : List Nat) : List (Nat × Nat) :=
  let h := bytesWords 2 (s.peek va 16)
  let n := bits (wAt h 1) 15 0
  let ws := bytesWords n (s.peek (va + 16) (8 * n))
  let inputs := fun arg => ws.filterMap fun w =>
    if bits w 63 58 = 2 then some (arg + 4 * stIdx w, 4) else if bits w 63 58 = 3 then some (arg + stIdx w, 2) else none
  (va, 16 + 8 * n) :: (args.map inputs).flatten

/-- Calibration records of entries with refinement and the check table, but the proposals and the check slots that these problems
compute: an X with the status word before it (R277, R283, R288.3). -/
def SolveCmd.recordRuns (c : SolveCmd) (ps : List Prob) (s : State) : List (Nat × Nat) :=
  let records := ((List.range 64).filter fun e => bits (at_ s.calib.refine e {}).w0 28 16 != 0).flatMap fun e =>
    let va := (s.entry e).calVa / 64 * 64
    if ps.any fun p => p.x.va == va + 456 then [(va, 448)] else [(va, 512)]
  let slots := (List.range s.calib.checks.length).flatMap fun k =>
    let va := s.calib.checkVa + 16 * k
    let word := if decide (c.statusVa ≤ va ∧ va < c.statusVa + 8 * c.count) && (va - c.statusVa) % 8 == 0 then [] else [(va, 8)]
    word ++ if ps.any fun p => p.x.va == va + 8 && p.n == 1 then [] else [(va + 8, 8)]
  records ++ slots

/-- Outputs, warm records or status words of one SOLVE overlap one another or its inputs and descriptors in memory, or any
command list of an outstanding launch (R275.3; log entry 96). -/
def SolveCmd.overlap (c : SolveCmd) (ps : List Prob) (s : State) : Bool :=
  let outs := (c.statusVa, 8 * c.count) :: (ps.map c.outRuns).flatten
  let ins := (c.probVa, 64 * c.count) :: (ps.map c.inRuns).flatten ++
    (if c.useAsm then s.modelRuns c.modelVa (ps.map (·.argVa)) else []) ++ s.listRuns
  s.anyMeet (outs.map fun r => [r]) || s.meet outs ins || s.meet outs (c.recordRuns ps s)

/-- The bytes that a problem reads: its matrices or its model and inputs, the iterate, the warm record (R275.4). -/
def SolveCmd.inputs (c : SolveCmd) (p : Prob) (s : State) : List Byte :=
  let runs := c.inRuns p ++ (if c.useAsm then s.modelRuns c.modelVa [p.argVa] ++ p.x.runs p.n (fun _ => (0, 1)) else []) ++
    (if c.sop = 6 ∧ c.warmEn ∧ p.warmVa ≠ 0 then [(p.warmVa, 272)] else [])
  (runs.map fun r => s.peek r.1 r.2).flatten

/-! ### The structure signature (R262) -/

def SolveCmd.signature (c : SolveCmd) (p : Prob) (modelId : Word) : Word :=
  let g := pack [(p.n, 62, 56), (p.m, 54, 48), (p.r, 46, 40), (p.bpA, 36, 32), (p.bpB, 28, 24), (p.bpX, 20, 16), (p.bpF, 12, 8),
    (c.sop, 3, 0)]
  crc64 (wordBytes [g, p.pattern, modelId])

/-! ### What a problem gives -/

/-- The result of one problem. -/
structure Result where
  /-- X by rows -/
  x : List (List Fx)
  /-- F by rows: 0 to N - 1, reciprocals, permutation -/
  f : List (List Nat) := []
  notes : Notes := {}
  warmUsed : Bool := false
  mismatch : Bool := false
  notConverged : Bool := false
  iters : Nat := 0
  signature : Word := 0
  /-- the factorisation stopped: CODE is NUMERIC whatever was written (R258) -/
  stopped : Bool := false
  undef : Bool := false

/-- Rows of a matrix in memory. -/
def MatAt.read (m : MatAt) (rows : Nat) (cols : Nat → Nat × Nat) : TaskM Mx := do
  let rs ← (List.range rows).mapM fun i => do
    let bs ← readM (m.at_ i (cols i).1) (4 * (cols i).2)
    let vs := codesOf 4 (cols i).2 bs
    return (List.replicate (cols i).1 (some 0)) ++ vs.map fxOf
  return Mx.ofList rs

/-- F of a factorisation (R252, R258). -/
def factorRows (s : Factor) (n : Nat) (perm : Bool) : List (List Nat) :=
  let bad := fun j => match s.stop with
    | some k => decide (k ≤ j)
    | none => false
  let nar := 2147483648
  let row := fun (v : Nat → Fx) => (List.range n).map fun j => if bad j then nar else fxRaw (v j)
  (List.range n).map (fun i => row (s.f.get i)) ++ [row fun j => s.rinv.getD j none] ++
    (if perm then [(List.range n).map fun i => s.perm.getD i 0] else [])

/-- X for every right-hand side, or NaR after a failed factorisation (R258). -/
def solveAll (s : Factor) (n r : Nat) (one : (Nat → Fx) → FxM (Array Fx)) (b : Mx) : FxM (List (List Fx)) := do
  if s.stop.isSome then return List.replicate n (List.replicate r none)
  else
    let cols ← (List.range r).mapM fun c => one fun i => b.get i c
    return (List.range n).map fun i => cols.map fun x => x.getD i none

/-- A triangle of a matrix, the rest 0. -/
def Mx.keep (m : Mx) (n : Nat) (p : Nat → Nat → Bool) : Mx :=
  Mx.ofList ((List.range n).map fun i => (List.range n).map fun j => if p i j then m.get i j else some 0)

/-- The direct operations of R252: X, F, and whether the factorisation stopped. -/
def direct (c : SolveCmd) (p : Prob) (a b : Mx) : FxM (List (List Fx) × List (List Nat) × Bool) := do
  let n := p.n
  match c.sop with
  | 0 =>
    let s ← chol a c.piv n p.bpA p.bpF
    return (← solveAll s n p.r (cholSolve s n p.bpF p.bpB p.bpX) b, factorRows s n false, s.stop.isSome)
  | 1 =>
    let s ← ldlt a c.piv n p.bpA p.bpF
    return (← solveAll s n p.r (ldltSolve s n p.bpF p.bpB p.bpX) b, factorRows s n false, s.stop.isSome)
  | 2 =>
    let s ← lu a c.piv n p.bpA p.bpF
    return (← solveAll s n p.r (luSolve s n p.bpF p.bpB p.bpX) b, factorRows s n true, s.stop.isSome)
  | 3 =>
    let (s, w) ← qr a b c.piv p.m n p.r p.bpA p.bpB p.bpF
    let y := Mx.ofList ((List.range n).map fun i => (List.range p.r).map fun k => w.get i (n + k))
    return (← solveAll s n p.r (qrSolve s n p.bpF (qrBp 0 p.bpA p.bpF) p.bpX) y, factorRows s n false, s.stop.isSome)
  | k =>
    let s ← triFrom a c.piv p.bpA p.bpF (if k = 5 then (List.range n).reverse else List.range n) (emptyFactor n)
    return (← solveAll s n p.r (triSolve a s (k = 5) n p.bpA p.bpF p.bpB p.bpX) b, [], s.stop.isSome)

/-- A problem of a direct operation. -/
def directProblem (c : SolveCmd) (p : Prob) : TaskM Result := do
  let rows := c.rows p
  let (a, b, e) ← do
    if c.useAsm then
      let x0 ← (List.range p.n).mapM fun i => do return BitVec.ofNat 32 (leNat (← readM (p.x.at_ i 0) 4))
      let e ← evaluate c.modelVa
        { x := x0, bpX := List.replicate p.n p.bpX, bpA := p.bpA, bpB := p.bpB, argVa := p.argVa, rows := rows, cols := p.n }
      let b := Mx.ofList ((e.vec.toList).map fun v => v :: List.replicate (p.r - 1) (some 0))
      pure (e.mx, b, e)
    else
      let a ← p.a.read rows (c.reads p)
      let b ← p.b.read rows fun _ => (0, p.r)
      pure (a, b, ({} : Asm))
  let a := if c.sop = 0 ∨ c.sop = 1 ∨ c.sop = 4 then a.keep p.n (fun i j => decide (j ≤ i))
    else if c.sop = 5 then a.keep p.n (fun i j => decide (i ≤ j)) else a
  let v := (direct c p a b).run { sat := e.sat }
  return { x := v.1.1, f := v.1.2.1, notes := v.2, stopped := v.1.2.2, undef := e.undef }

/-! ### GN (R260, R261) -/

/-- One iteration's algebra from J and r: the factor, δ where the factorisation stands, and the next iterate. -/
def gnStep (c : SolveCmd) (p : Prob) (j : Mx) (r : Array Fx) (x : List Fx) : FxM (Factor × List Fx × List Fx) := do
  let n := p.n
  let ks := List.range p.m
  let rows ← (List.range n).mapM fun i => (List.range (i + 1)).mapM fun k =>
    fxSumProd (some 0) 0 false (ks.map fun m => (j.get m i, j.get m k)) (2 * p.bpA) p.bpA
  let g ← (List.range n).mapM fun i => fxSumProd (some 0) 0 false (ks.map fun m => (j.get m i, r.getD m (some 0))) (p.bpA + p.bpB) p.bpB
  let s ← chol (Mx.ofList rows) c.piv n p.bpA p.bpF
  if s.stop.isSome then return (s, List.replicate n none, List.replicate n none)
  else
    let d ← cholSolve s n p.bpF p.bpB p.bpX fun i => (g.getD i none).map fun v => -v
    let next ← (x.zip d.toList).mapM fun q => fxAdd q.1 p.bpX q.2 p.bpX p.bpX false
    return (s, d.toList, next)

/-- The step meets TOL. -/
def withinTol (tol : Fx) (d : List Fx) : Bool := d.all fun v => match v, tol with
  | some v, some t => decide ((v.natAbs : Int) ≤ t)
  | _, _ => false

/-- Iterations from the k-th on: last iterate, last factor, iterations run, NOT_CONVERGED. -/
def gnFrom (c : SolveCmd) (p : Prob) : Nat → Nat → List Fx → Notes → Bool → TaskM (List Fx × Factor × Nat × Bool × Notes × Bool)
  | 0, k, x, n, u => return (x, emptyFactor p.n, k, true, n, u)
  | fuel + 1, k, x, n, u => do
    let e ← evaluate c.modelVa
      { x := x.map fun v => BitVec.ofNat 32 (fxRaw v), bpX := List.replicate p.n p.bpX, bpA := p.bpA, bpB := p.bpB
        argVa := p.argVa, rows := p.m, cols := p.n }
    let ((s, d, x'), n') := (gnStep c p e.mx e.vec x).run { n with sat := n.sat + e.sat }
    let u := u || e.undef
    if s.stop.isSome || d.contains none || x'.contains none then return (x', s, k + 1, false, n', u)
    else if withinTol c.tol d then return (x', s, k + 1, false, n', u)
    else if fuel = 0 then return (x', s, k + 1, true, n', u)
    else gnFrom c p fuel (k + 1) x' n' u

/-- A GN problem. -/
def gnProblem (c : SolveCmd) (p : Prob) : TaskM Result := do
  let id := wAt (← readWords c.modelVa 1) 0
  let sig := c.signature p id
  let warm := c.warmEn && p.warmVa != 0
  let rec_ ← if warm then readWords p.warmVa 34 else pure []
  let valid := warm && bit (wAt rec_ 1) 63
  let used := valid && wAt rec_ 0 == sig
  let x0 ← if used then
      pure ((List.range p.n).map fun i => fxOf (if i % 2 = 0 then bits (wAt rec_ (2 + i / 2)) 31 0 else bits (wAt rec_ (2 + i / 2)) 63 32))
    else (List.range p.n).mapM fun i => do return fxOf (leNat (← readM (p.x.at_ i 0) 4))
  let (x, s, k, nc, n, u) ← gnFrom c p c.maxIter 0 x0 {} false
  return { x := x.map fun v => [v], f := factorRows s p.n false, notes := n, warmUsed := used, mismatch := valid && !used
           notConverged := nc, iters := k, signature := sig, stopped := s.stop.isSome, undef := u }

/-! ### Writing what a problem gives (R253) -/

/-- What of a problem's destinations is undefined (R275, R288.4). -/
structure Open where
  x : Bool := false
  f : Bool := false
  warm : Bool := false
  status : Bool := false
  deriving DecidableEq, Repr

/-- Undefined under one of two rules. -/
def Open.or (a b : Open) : Open := { x := a.x || b.x, f := a.f || b.f, warm := a.warm || b.warm, status := a.status || b.status }

/-- All destinations are undefined (R275.1, R275.3). -/
def Open.all : Open := { x := true, f := true, warm := true, status := true }

/-- Raw values from free ones, taken from index `k` on, in the shape of rows. -/
def freeRows {α : Type} (k : Nat) (rows : List (List α)) : List (List Nat) :=
  rows.zipIdx.map fun r => r.1.zipIdx.map fun v => (Config.freeReg (k + 64 * r.2 + v.2)).toNat

/-- A result with free values in place of those that are undefined: what follows from them follows from the free values. -/
def Result.opened (r : Result) (o : Open) (k : Nat) : Result :=
  { r with x := if o.x then (freeRows k r.x).map fun row => row.map fxOf else r.x
           f := if o.f then freeRows (k + 4096) r.f else r.f }

/-- CODE is NUMERIC: the problem wrote NaR (R253), or its factorisation stopped (R258). -/
def Result.numeric (r : Result) (f : Bool) : Bool :=
  r.stopped || r.x.any (·.contains none) || (f && (r.f.any fun row => row.contains 2147483648))

/-- Status word of a completed problem. -/
def Result.status (r : Result) (num : Bool) (lane : Nat) : Word :=
  pack [(if num then 2 else 0, 63, 56), (b2n (r.notes.small != 0), 47, 47), (b2n (r.notes.regs != 0), 46, 46),
    (b2n r.warmUsed, 45, 45), (b2n r.mismatch, 44, 44), (b2n (r.notes.sat != 0), 43, 43), (b2n r.notConverged, 42, 42),
    (r.iters, 39, 32), (r.notes.first.getD 0, 21, 16), (lane, 4, 0)]

/-- Bytes of FX32 values and of raw 32-bit values. -/
def rawBytes (vs : List Nat) : List Byte := (vs.map (leBytes 4)).flatten

/-- Write a run of bytes; free bytes where undefined. -/
def putRun (free : Bool) (va : Nat) (bs : List Byte) : TaskM Unit := do
  let s ← get
  let (k, s) := s.take (if free then bs.length else 0)
  set s
  writeM va (if free then freeBytes k bs.length else bs)

/-- Write rows of a matrix. -/
def MatAt.write (m : MatAt) (rows : List (List Nat)) : TaskM Unit :=
  rows.zipIdx.forM fun r => if r.1.isEmpty then pure () else writeM (m.at_ r.2 0) (rawBytes r.1)

/-- The warm record of a DONE problem; elements of X beyond N are free (log entry 10). -/
def warmBytes (k : Nat) (r : Result) : List Byte :=
  let xs := rawBytes (r.x.map fun row => fxRaw (row.headD none))
  wordBytes [r.signature, pack [(1, 63, 63), (r.iters, 7, 0)]] ++ xs ++ freeBytes k (256 - xs.length)

/-- Count what a problem met (R255, R258, R262, R272, R274, R449). -/
def State.countProblem (s : State) (r : Result) : State :=
  let v := s.solver
  let n := r.notes
  let s := { s with solver := { v with
    pivot := sat32 (v.pivot + n.small), regularised := sat32 (v.regularised + n.regs)
    warm := sat32 (v.warm + b2n r.mismatch), warmTotal := sat32 (v.warmTotal + b2n r.mismatch) } }
  (s.countSat n.sat).count 16 0x33 n.small

/-- Count a completed problem. -/
def State.countDone (s : State) (num satd : Bool) : State :=
  let v := s.solver
  let s := { s with solver := { v with
    problems := sat32 (v.problems + 1), nar := sat32 (v.nar + b2n num), numeric := sat32 (v.numeric + b2n num) } }
  (s.count 16 0x30 1).count 16 0x34 (b2n satd)

/-- Write all outputs of a problem and its status word: it has completed. -/
def SolveCmd.writeOut (c : SolveCmd) (p : Prob) (r : Result) (o : Open) (lane i : Nat) : TaskM Unit := do
  let s ← get
  let (k, s) := s.take (if o.x || o.f then 8448 else 0)
  set s
  let r := r.opened o k
  let num := r.numeric (c.factor p)
  p.x.write (r.x.map fun row => row.map fxRaw)
  if c.factor p then p.f.write r.f
  if c.sop = 6 ∧ c.warmEn ∧ p.warmVa ≠ 0 ∧ ¬ num then do
    let s ← get
    let (k, s) := s.take 256
    set s
    putRun o.warm p.warmVa (warmBytes k r)
  putRun o.status (c.statusVa + 8 * i) (wordBytes [r.status num lane])
  modify fun s => (s.countProblem r).countDone num (r.notes.sat != 0)

/-- An undefined problem: its outputs are free (R275.1). -/
def SolveCmd.badResult (c : SolveCmd) (p : Prob) : Result :=
  { x := List.replicate p.n (List.replicate (c.cols p) (some 0)), f := List.replicate (p.n + (if c.sop = 2 then 2 else 1)) (List.replicate p.n 0) }

/-- A refinement problem whose N or BP_X is not that of its entry (R288.4). -/
def SolveCmd.wrongShape (c : SolveCmd) (p : Prob) (s : State) : Bool :=
  c.sop = 6 && (List.range 64).any fun e =>
    let m := bits (at_ s.calib.refine e {}).w0 28 16
    m != 0 && p.x.va == (s.entry e).calVa / 64 * 64 + 456 &&
    (p.n != ((List.range 13).filter fun i => m / 2 ^ i % 2 = 1).length || p.bpX != bits (at_ s.calib.refine e {}).w0 36 32)

/-- One problem, whole: a model that names what does not exist leaves its outputs open (R275.2), a refinement problem of the wrong
shape its proposal (R288.4). -/
def SolveCmd.problem (c : SolveCmd) (o : Open) (p : Prob) (lane i : Nat) : TaskM Unit := do
  let o := o.or { x := c.wrongShape p (← get) }
  if c.bad p then c.writeOut p (c.badResult p) .all lane i
  else
    let r ← if c.sop = 6 then gnProblem c p else directProblem c p
    c.writeOut p r (o.or { x := r.undef, f := r.undef }) lane i

/-! ### SOLVE (R247, R250, R263 to R265) -/

/-- The lanes that serve positions in service, in ascending order of position (R247, R266). -/
def State.laneList (s : State) : List Nat :=
  ((List.range 16).filter fun i => s.faults.laneIn.getLsbD i).map fun i => if s.faults.laneSubst = some i then 16 else i

/-- Status words with a CODE alone, from problem i on; one that cannot be written stays (R265). -/
def SolveCmd.codes (c : SolveCmd) (free : Bool) (code : Nat) (lane : Nat → Nat) : List Nat → TaskM Unit
  | [] => return ()
  | i :: is => do
    (tryCatch (putRun free (c.statusVa + 8 * i) (wordBytes [pack [(code, 63, 56), (lane i, 4, 0)]])) fun _ => pure ())
    c.codes free code lane is

/-- Problem i from its descriptor; `o i` says what of it is undefined (R275). -/
def SolveCmd.runProblem (c : SolveCmd) (o : Nat → Open) (lane : Nat → Nat) (i : Nat) : TaskM Unit := do
  c.problem (o i) (probOf (← readWords (c.probVa + 64 * i) 8)) (lane i) i

/-- Problems in order: whether one of them faults. -/
def SolveCmd.runAll (c : SolveCmd) (o : Nat → Open) (lane : Nat → Nat) : List Nat → State → Bool × State
  | [], s => (false, s)
  | i :: is, s =>
    match (c.runProblem o lane i).go s with
    | (.ok _, t) => c.runAll o lane is t
    | (.error _, t) => (true, t)

/-- The group of problem `i` on its lane, with `n` lanes in service (R247). -/
def groupOn (n i : Nat) : Nat := i / n / 4

/-- Two problems are of one lane. -/
def sameLane (n i j : Nat) : Bool := i % n == j % n

/-- Of the problems not yet completed, those that have completed when the problems `ds` are said to have: each lane takes its
groups in order. Where the lanes go to a waiting launch, each completes the group it holds (R249). -/
def settled (n : Nat) (whole : Bool) (todo ds : List Nat) : List Nat :=
  let said := fun i => ds.contains i ||
    (whole && todo.any fun j => sameLane n i j && groupOn n i == groupOn n j && ds.contains j)
  todo.filter fun i => said i && todo.all fun j => !(sameLane n i j && decide (groupOn n j < groupOn n i)) || said j

/-- The groups whose last problems are among some. -/
def groupsEnded (n : Nat) (todo run : List Nat) : Nat :=
  (((run.filter fun i => todo.all fun j => !(sameLane n i j && groupOn n i == groupOn n j) || run.contains j).map fun i =>
    (i % n, groupOn n i)).eraseDups).length

/-- A problem of those to run faults. Which of the problems that fault does so first, how many groups the other lanes have then
completed, and which problems of the groups in progress, depend on timing: free choices (log entries 22 and 55). Completed problems
keep their results, those in flight get FAULTED and write nothing, and those not dealt get NOT_RUN (R265). -/
def SolveCmd.faulted (c : SolveCmd) (o : Nat → Open) (lane : Nat → Nat) (n : Nat) (todo : List Nat) (s : State) : Nat × State :=
  let (f, s) := s.take (1 + n + c.count)
  let fails := todo.filter fun i => match (c.runProblem o lane i).go s with
    | (.ok _, _) => false
    | (.error _, _) => true
  let firsts := fails.filter fun i => fails.all fun j => !sameLane n i j || decide (groupOn n i ≤ groupOn n j)
  let k := firsts.getD (Config.freeNat f % firsts.length) 0
  let at_ := fun p =>
    if p = k % n then groupOn n k else
    let top := (firsts.find? fun i => i % n == p).elim (groupOn n c.count + 1) (groupOn n)
    Config.freeNat (f + 1 + p) % (top + 1)
  let done := todo.filter fun i => i ≠ k && !fails.contains i && (decide (groupOn n i < at_ (i % n)) ||
    (groupOn n i = at_ (i % n) && Config.freeNat (f + 1 + n + i) % 2 = 1))
  let u := (c.runAll o lane done s).2
  let v := ((c.runProblem o lane k).go u).2
  let v := { v with mem := { v.mem with cells := u.mem.cells, ueWords := u.mem.ueWords, ceWords := u.mem.ceWords } }
  let rest := todo.filter fun i => !done.contains i
  let t := ((do
    c.codes (todo.any fun i => (o i).status) 3 lane (rest.filter fun i => groupOn n i ≤ at_ (i % n))
    c.codes (todo.any fun i => (o i).status) 4 (fun _ => 0) (rest.filter fun i => at_ (i % n) < groupOn n i) : TaskM Unit).go v).2
  (k, t.count 16 0x31 (groupsEnded n todo done))

/-- The problems of a command as memory holds their descriptors. -/
def SolveCmd.probs (c : SolveCmd) (s : State) : List Prob :=
  (List.range c.count).map fun i => probOf (bytesWords 8 (s.peek (c.probVa + 64 * i) 64))

/-- DEADLINE_MISSED for the problems that have not completed (R263, R264). -/
def SolveCmd.missed (c : SolveCmd) (free : Bool) (late : List Nat) (s : State) : State :=
  let s := ((c.codes free 1 (fun _ => 0) late).go s).2
  { s with solver := { s.solver with missed := sat32 (s.solver.missed + late.length) } }

/-- The deadline of a launch has passed. -/
def State.passed (s : State) (l : Launch) : Bool :=
  l.cut || (match l.deadline with
    | some d => decide (d < s.time.line)
    | none => false)

/-- The problems that complete at or before the deadline, where it cuts the command (R263). -/
def State.cutAt (s : State) (l : Launch) (cut : DeadlineCut) : Option (List Nat) :=
  if s.passed l then some [] else
  match cut with
  | .after ds => if l.deadline.isSome then some ds else none
  | _ => none

/-- The deadline has passed during a command of a launch. -/
def State.markCut (s : State) (l : Launch) : State :=
  { s with dev := { s.dev with launches := s.dev.launches.map fun m => if m.id = l.id then { m with cut := true } else m } }

/-- A launch of a higher class waits for the unit of a launch (R65, R249). -/
def State.higherWaits (s : State) (l : Launch) (target group : Nat) : Bool :=
  s.dev.launches.any fun m => decide (m.cls < l.cls) &&
    ((m.hasRun target group (· = .waiting) && !m.withheld) || m.hasRun target group (· = .preempted))

/-- A SOLVE of which some problems have completed, with the inputs as they were at its start. -/
def State.holdSolve (s : State) (l : Launch) (done : List Nat) (ins : List (List Byte)) : State :=
  { s with dev := { s.dev with launches := s.dev.launches.map fun m =>
    if m.id = l.id then { m with runs := m.runs.map fun r => { r with solved := some (done, ins) } } else m } }

/-- What a SOLVE goes on from: the problems completed, and the inputs noted. -/
def Launch.resumes (l : Launch) : Option (List Nat × List (List Byte)) := l.runs.head?.bind (·.solved)

/-- A solver lane has stopped and waits for its spare (R266, R427). -/
def State.laneWaits (s : State) : Bool := s.faults.queue.any fun q => q.cls = 3 && !q.planned

/-- What of each problem is undefined: all of it where destinations overlap (R275.3); its outputs and its warm record where its
inputs have been written since the SOLVE began (R275.4). -/
def SolveCmd.opens (c : SolveCmd) (ps : List Prob) (ins : Option (List (List Byte))) (s : State) : Nat → Open :=
  let bad := c.overlap ps s
  fun k =>
    if bad then .all else
    match ins with
    | some ins => if (ps[k]?).any fun p => c.inputs p s != ins.getD k [] then { x := true, f := true, warm := true } else {}
    | none => {}

/-- SOLVE. It begins, or goes on with the problems that have not completed (R247, R249). With a launch of a higher class waiting it
deals no further group. A lane that waits for its spare holds it; then the problems in flight run again (R266). -/
def solveBody (cut : DeadlineCut) (l : Launch) (_ : Nat) (ws : List Word) (s : State) : CmdEnd × State :=
  let c := solveOf ws
  let lanes := s.laneList
  let n := lanes.length
  let ps := c.probs s
  let done := l.resumes.elim [] Prod.fst
  let o := c.opens ps (l.resumes.map Prod.snd) s
  let todo := (List.range c.count).filter fun i => !done.contains i
  let late := s.cutAt l cut
  let higher := s.higherWaits l 0x21 16
  if s.laneWaits then (.stay, s) else
  let run := match late, cut with
    | some ds, _ => settled n false todo ds
    | none, .part ds => settled n higher todo ds
    | none, _ => if higher then [] else todo
  let lane := fun i => lanes.getD (i % n) 0
  match c.runAll o lane run s with
  | (true, _) =>
    let r := c.faulted o lane n todo s
    (.fault r.1, r.2)
  | (false, t) =>
    let t := t.count 16 0x31 (groupsEnded n todo run)
    let rest := todo.filter fun i => !run.contains i
    if rest.isEmpty then (.next, t)
    else if late.isSome then (.next, (c.missed (o 0).status rest t).markCut l)
    else (.hold, t.holdSolve l (done ++ run) (l.resumes.elim (ps.map fun p => c.inputs p s) Prod.snd))

/-! ### The rows -/

/-- The OP values that the solver executes as NOP (R248). -/
def svNopOp (op : Nat) : Bool := !([0x01, 0x50, 0x70].contains op)

def State.svCmd (s : State) (mine : Nat → Bool) (body : Launch → Nat → List Word → State → CmdEnd × State) : State :=
  s.runCmd 0x21 16 128 mine body

def execSvNop (s : State) : Host.Outcome State Fault Refusal := fin s unitParts (s.svCmd svNopOp bodyNop)
def execSvEnd (s : State) : Host.Outcome State Fault Refusal := fin s unitParts (s.svCmd (· == 0x01) bodyEnd)
def execSolve (cut : DeadlineCut) (s : State) : Host.Outcome State Fault Refusal :=
  fin s (unitParts ++ [.solver, .cells]) (s.svCmd (· == 0x50) (solveBody cut))

/-- SV_GET_STATUS (R274). -/
def svGetStatus (_ : Cmd) (s : State) : Ans :=
  let v := s.solver
  okWith s [pack [(s.lanes, 20, 16), (b2n s.faults.laneSubst.isSome, 8, 8)], pack [(v.problems, 63, 32), (v.missed, 31, 0)],
    pack [(v.regularised, 63, 32), (v.numeric, 31, 0)], pack [(v.warmTotal, 63, 32), (v.satTotal, 31, 0)]]
def execSvGetStatus (ch : Fin 33) (s : State) : Host.Outcome State Fault Refusal :=
  fin s ansParts (s.serve ch 0x500 0 svGetStatus)

/-- SV_SET_REG (R274). -/
def svSetReg (c : Cmd) (s : State) : Ans :=
  let f := fun i => bits (wAt c.words i) 63 32
  let g := fun i => bits (wAt c.words i) 31 0
  let okw := fun i => decide (f i < 2147483648 ∧ 1 ≤ g i ∧ g i < 2147483648)
  checked [(1, okw 1), (2, okw 2)] <|
  ok { s with solver := { s.solver with
    trackReg := bit (wAt c.words 0) 1, egoReg := bit (wAt c.words 0) 0, trackEps := f 1, trackLambda := g 1, egoEps := f 2
    egoLambda := g 2 } }
def execSvSetReg (ch : Fin 33) (s : State) : Host.Outcome State Fault Refusal :=
  fin s (ansParts ++ [.solver]) (s.serve ch 0x501 3 svSetReg)

end Sys2Proof.Machine
end

