-- ==== Sys2Proof/Machine/Ego.lean ====
section
/-! DEFINITION. The ego estimator (R213 to R220, R241, R242, R259, R270). Propagation has no equations in the spec and is a
free function (log entry 9); samples, alignment, encoder updates, coasting and what is written where are as the spec says. -/
namespace Sys2Proof.Machine

/-! ### Configuration (R242) -/

def Ego.word (e : Ego) (i : Nat) : Word := at_ e.cfg i 0
def Ego.imuMask (e : Ego) : Word := e.word 0
def Ego.encMask (e : Ego) : Word := e.word 1
def Ego.modelVa (e : Ego) : Nat := bits (e.word 2) 47 0
def Ego.coastMax (e : Ego) : Nat := bits (e.word 6) 23 16
def Ego.every (e : Ego) : Nat := bits (e.word 6) 15 0

/-- BT_EVENT (R242, R243). -/
def State.btEvent (s : State) (a b ev : Nat) (value : Word) : State :=
  let w0 := pack [(a, 21, 16), (b, 13, 8), (ev, 7, 0)]
  if ev = 3 then s.eventLimited 0x4F3 3 0 64 w0 value else s.event 0x4F3 w0 value

/-! ### Units (R190, R215) -/

/-- A unit that the estimator has read. -/
structure EgoUnit where
  time : Inst
  entry : Nat
  kind : Nat
  data : List Word
  /-- the bytes of an inertial unit -/
  bytes : List Byte := []
  /-- the rotation of the entry's calibration record -/
  rot : M3 := M3.identity
  deriving DecidableEq, Repr

/-- Bytes of DATA words, six each (R94). -/
def unitBytes (ws : List Word) (n : Nat) : List Byte := (ws.map fun w => leBytes 6 (bits w 47 0)).flatten.take n

/-- A unit being read: header, STAMP words, DATA words. -/
structure Reading where
  head : Word
  rot : M3 := M3.identity
  stamps : List Word := []
  data : List Word := []

def Reading.unit (r : Reading) : EgoUnit :=
  { time := stampOf r.stamps, entry := bits r.head 59 54, kind := bits r.head 53 50, data := r.data
    bytes := unitBytes r.data (bits r.head 23 16), rot := r.rot }

def Reading.whole (r : Reading) : Bool := r.stamps.length = 3 && dataWords r.head ≤ r.data.length

/-- The header of a unit is read; the values in force of an inertial entry are read with it (R278). -/
def egoHeader (w : Word) : TaskM Reading := do
  let s ← get
  let e := bits w 59 54
  if bits w 53 50 = 2 ∧ bit s.ego.imuMask e ∧ (s.entry e).state = .active then do
    return { head := w, rot := (← readExtrinsics e).rot }
  return { head := w }

/-- Read a queue up to a noted occupancy, under the unit rules of R190; none while a unit waits for its words. -/
def egoQueue (q n0 : Nat) : Nat → Nat → Option Reading → List EgoUnit → TaskM (Option (List EgoUnit))
  | 0, _, cur, us => return if cur.isSome then none else some us
  | fuel + 1, nr, cur, us => do
    if cur.isNone ∧ n0 ≤ nr then return some us
    else
      let w ← popM q
      match tagOf w, cur with
      | 0, some _ => return none
      | 0, none => return some us
      | 2, _ => do
        let r ← egoHeader w
        egoQueue q n0 fuel (nr + 1) (some r) us
      | 3, _ => egoQueue q n0 fuel (nr + 1) none us
      | _, none => egoQueue q n0 fuel (nr + 1) none us
      | t, some r =>
        let r := if t = 4 then { r with stamps := r.stamps ++ [w] } else { r with data := r.data ++ [w] }
        if r.whole then egoQueue q n0 fuel (nr + 1) none (us ++ [r.unit])
        else egoQueue q n0 fuel (nr + 1) (some r) us

/-- Read all queues, each up to its noted occupancy. -/
def egoQueues : List (Nat × Nat) → List EgoUnit → TaskM (Option (List EgoUnit))
  | [], us => return some us
  | (q, n) :: r, us => do
    match ← egoQueue q n (n + 1100) 0 none [] with
    | none => return none
    | some vs => egoQueues r (us ++ vs)

/-- The queues named by the enabled inertial and encoder entries, with their occupancies. -/
def State.egoSources (s : State) : List (Nat × Nat) :=
  let es := (List.range 64).filter fun e => (bit s.ego.imuMask e || bit s.ego.encMask e) && (s.entry e).enabled
  let qs := (es.map fun e => (s.entry e).queue).foldl (fun a q => if a.contains q then a else a ++ [q]) []
  qs.map fun q => (q, (s.queue q).occupancy)

/-- A unit by time, after those of the same time. -/
def insertUnit (u : EgoUnit) : List EgoUnit → List EgoUnit
  | [] => [u]
  | v :: r => if u.time.t < v.time.t then u :: v :: r else v :: insertUnit u r

def sortUnits (us : List EgoUnit) : List EgoUnit := us.foldl (fun a u => insertUnit u a) []

/-- A unit that is discarded and counted: before the last state's output time, or of another GEN or UPTIME_EPOCH (R215). -/
def staleUnit (last : Option EgoState) (u : EgoUnit) : Bool :=
  match last with
  | none => false
  | some e => decide (u.time.t < e.time.t) || epochOf u.time.flags != epochOf e.time.flags

/-! ### Recentring (R214) -/

/-- Raw FX32 plus a signed amount, saturating (R255). -/
def rawShift (raw : Nat) (d : Int) : Nat := match fxOf raw with
  | some v => fxRaw (fxSat (v + d)).1
  | none => raw

/-- A state with a position coordinate shifted. -/
def EgoState.shift (e : EgoState) (axis : Nat) (d : Int) : EgoState :=
  let raw := rawShift (e.raw axis) d
  let i := 3 + axis / 2
  let w := e.word i
  { w := put e.w i (if axis % 2 = 0 then pack [(bits w 63 32, 63, 32), (raw, 31, 0)] else pack [(raw, 63, 32), (bits w 31 0, 31, 0)]) }

/-- A reference pose with a coordinate shifted by millimetres. -/
def Pose.shift (p : Pose) (axis : Nat) (mm : Int) : Pose :=
  { p with p := p.p.zipIdx.map fun v => if v.2 = axis then ((f32 v.1).add32 (Num.ofInt mm)).bits32 else v.1 }

/-- Recentre one axis of a state about to be written, the history, and the reference pose of an open frame. -/
def State.recentre (axis : Nat) (p : EgoState × State) : EgoState × State :=
  let v := sgn 32 (p.1.raw axis)
  if v.natAbs < 536870912 then p else
  let mm : Int := if v < 0 then 33554432 else -33554432
  let s := p.2
  let s := { s with
    ego := { s.ego with hist := s.ego.hist.map fun (e : EgoState) => e.shift axis (mm * 16), odoShifts := s.ego.odoShifts + 1 }
    cloud := if s.cloud.isOpen then { s.cloud with pose := s.cloud.pose.map fun (q : Pose) => q.shift axis mm } else s.cloud
    buoys := { s.buoys with shift := s.buoys.shift.zipIdx.map fun (x : Int × Nat) => if x.2 = axis then x.1 + mm else x.1 } }
  (p.1.shift axis (mm * 16), s.btEvent 0 0 4 0)

/-! ### The estimate -/

def Ego.val (g : Ego) (i : Nat) : Fx := fxOf (at_ g.est i 0).toNat

/-- Binary points of the error states (R213, R259): position, velocity, orientation; those of the biases are free (log
entry 9). -/
def errorBp (i : Nat) : Nat :=
  if i < 3 then 4 else if i < 6 then 8 else if i < 9 then 30 else Config.egoPoint (if i < 12 then 0 else 1) % 32

/-- Binary point of the covariance. -/
def egoBpP : Nat := Config.egoPoint 2 % 32

/-- Place of an entry of the covariance in the estimate. -/
def covIndex (i j : Nat) : Nat :=
  let a := min i j
  19 + (15 * a - a * (a - 1) / 2 + (max i j - a))

def Ego.cov (g : Ego) : FxMat := .of 15 15 egoBpP fun i j => g.val (covIndex i j)

/-- SIGMA_POS of the estimate (R213). -/
def Ego.sigma (g : Ego) : Nat :=
  match g.val (covIndex 0 0), g.val (covIndex 1 1), g.val (covIndex 2 2) with
  | some x, some y, some z => fixRoot (x + y + z) egoBpP 4 2147483647
  | _, _, _ => 2147483648

/-- Estimates from values. -/
def estOf (f : Nat → Nat) : Vector (BitVec 32) 139 := Vector.ofFn fun (i : Fin 139) => BitVec.ofNat 32 (f i.val)

/-! ### Inertial samples (R215, R216, R242) -/

/-- A vector of three signed 16-bit values of a unit, from a byte offset on, in units of one count; bytes beyond the unit
are free. -/
def countsAt (k : Nat) (bs : List Byte) (o : Nat) (be : Bool) (lsb : Num) : V3 :=
  let v := fun i =>
    let b := grab (k + 2 * i) bs (o + 2 * i) 2
    (Num.ofInt (sgn 16 (if be then beNat b else leNat b))).mul32 lsb
  (v 0, v 1, v 2)

/-- A sample in body axes: gyroscope and accelerometer (log entry 9: in FP32, as the extrinsics are). -/
def Ego.sampleOf (g : Ego) (k : Nat) (u : EgoUnit) : List (BitVec 32) :=
  let w6 := g.word 6
  let lsb := fun hi lo => f32 (BitVec.ofNat 32 (bits (g.word 7) hi lo))
  let w := M3.apply u.rot (countsAt k u.bytes (bits w6 63 56) (bit w6 47) (lsb 63 32))
  let a := M3.apply u.rot (countsAt (k + 6) u.bytes (bits w6 55 48) (bit w6 47) (lsb 31 0))
  [w.1.bits32, w.2.1.bits32, w.2.2.bits32, a.1.bits32, a.2.1.bits32, a.2.2.bits32]

/-- The angular rate: the sample's gyroscope less the bias of the estimate (R216). -/
def Ego.rates (g : Ego) (smp : List (BitVec 32)) : FxM (List Fx) :=
  (List.range 3).mapM fun i => do fxAdd (← fxFrom (f32 (smp.getD i 0)) 24) 24 (g.val (13 + i)) (errorBp 9) 24 true

/-- The settings that propagation uses. -/
def Ego.settings (g : Ego) : List (BitVec 32) :=
  [3, 4, 5].flatMap fun i => [BitVec.ofNat 32 (bits (g.word i) 63 32), BitVec.ofNat 32 (bits (g.word i) 31 0)]

/-- The estimate propagated to a time (R215), with a sample or without (R218): over no time it stays. The angular rate stays that
of the newest sample (R216). -/
def Ego.propagate (g : Ego) (t : Inst) (smp : List (BitVec 32)) : Ego :=
  let dt := t.t - g.estAt.t
  let key := g.est.toList ++ smp ++ g.settings
  let e := if dt = 0 then g.est else Vector.ofFn fun (i : Fin 139) =>
    if 10 ≤ i.val ∧ i.val < 13 then at_ g.est i.val 0 else Config.egoPropagate i.val dt key
  { g with est := e, estAt := t }

/-- The estimate with the rates of a sample. -/
def Ego.withRates (g : Ego) (smp : List (BitVec 32)) : FxM Ego := do
  let r ← g.rates smp
  return { g with
    sample := smp, est := estOf fun i => if 10 ≤ i ∧ i < 13 then fxRaw (r.getD (i - 10) none) else (at_ g.est i 0).toNat }

/-! ### Alignment (R217) -/

/-- Whole numbers in the ratio of FP32 values; none where one is not finite. -/
def wholes (vs : List Num) : Option (List Int) :=
  let lo := vs.foldl (fun a v => match v with | .fin _ _ e => min a e | _ => a) 0
  vs.mapM fun v => match v with
    | .fin n m e => some (signedAt n m e lo)
    | _ => none

/-- The quaternion of the roll and pitch that bring a mean accelerometer vector upright, with yaw 0, in units of 2^-400; none
where the vector does not give them. -/
def levelQuat (a : Int × Int × Int) : Option (List Int) :=
  let (x, y, z) := a
  let s := (y * y + z * z).toNat
  if s = 0 then none else
  let one : Int := 2 ^ 200
  let n := isqrt ((s + (x * x).toNat) * 2 ^ 800)
  let r := isqrt (s * 2 ^ 800)
  let half := fun (c : Int) (neg : Bool) =>
    (((isqrt ((one + c) * 2 ^ 199).toNat : Nat) : Int), (if neg then -1 else 1) * ((isqrt ((one - c) * 2 ^ 199).toNat : Nat) : Int))
  let p := half ((r * 2 ^ 200 / n : Nat) : Int) (decide (0 < x))
  let f := half (min one (z * 2 ^ 600 / (r : Int))) (decide (y < 0))
  some [p.1 * f.1, p.1 * f.2, p.2 * f.1, -(p.2 * f.2)]

/-- The aligned attitude from 100 accelerometer vectors: their mean has the direction of their sum. Each value is within two
units in the last place, freely (log entry 9); where the mean gives no roll and pitch it is free. -/
def alignedQuat (k : Nat) (accs : List (List (BitVec 32))) : List Nat :=
  let sum := accs.foldl (fun (t : Num × Num × Num) v =>
    (t.1.add_ (f32 (v.getD 0 0)), t.2.1.add_ (f32 (v.getD 1 0)), t.2.2.add_ (f32 (v.getD 2 0)))) (.zero, .zero, .zero)
  let free := (List.range 4).map fun i => (Config.freeReg (k + i)).toNat
  match wholes [sum.1, sum.2.1, sum.2.2] with
  | some [x, y, z] => match levelQuat (x, y, z) with
    | some q => q.zipIdx.map fun v =>
      fld 32 (divRne v.1 (2 ^ 370) + ((Config.egoTurn (4 + v.2) accs.flatten).toNat % 5 : Nat) - 2)
    | none => free
  | _ => free

/-- The estimate begins an alignment: biases and covariance, which the spec does not give then, are free. -/
def State.freshEst (s : State) : State :=
  let (k, s) := s.take 139
  { s with ego := { s.ego with est := estOf fun i => (Config.freeReg (k + i)).toNat, alignAcc := [] } }

/-- One more sample of an alignment; the 100th completes it. -/
def State.alignSample (s : State) (t : Inst) (smp : List (BitVec 32)) : State :=
  let accs := smp.drop 3 :: s.ego.alignAcc
  let done := decide (100 ≤ s.ego.alignCount + 1)
  let (k, s) := s.take 4
  let q := alignedQuat k accs
  let g := s.ego
  let est := if done then estOf fun i =>
      if i < 3 ∨ (7 ≤ i ∧ i < 10) then 0 else if i < 7 then q.getD (i - 3) 0 else (at_ g.est i 0).toNat
    else g.est
  { s with ego := { g with est := est, estAt := t, aligning := !done, alignCount := if done then 0 else g.alignCount + 1
                           alignAcc := if done then [] else accs } }

/-- An inertial sample (R215). -/
def State.egoSample (s : State) (u : EgoUnit) : State :=
  let (k, s) := s.take 12
  let smp := s.ego.sampleOf k u
  let s := if s.ego.aligning then s.alignSample u.time smp else { s with ego := s.ego.propagate u.time smp }
  let r := (s.ego.withRates smp).run {}
  { s with ego := r.1 }.countSat r.2.sat

/-! ### Encoder updates (R215, R255, R259, R270) -/

/-- Count the solver work of one encoder update (R255, R258, R259, R274). -/
def State.countEgo (s : State) (bad : Bool) (n : Notes) : State :=
  let v := s.solver
  let s := { s with solver := { v with
    problems := sat32 (v.problems + 1), nar := sat32 (v.nar + b2n bad), numeric := sat32 (v.numeric + b2n bad)
    pivot := sat32 (v.pivot + n.small), regularised := sat32 (v.regularised + n.regs) } }
  ((s.countSat n.sat).count 16 0x30 1).count 16 0x33 n.small

/-- The estimate after a measurement of the error states; none where it would hold NaR. -/
def Ego.correct (g : Ego) (piv : PivotSet) (m : Measured) : FxM (Option (Vector (BitVec 32) 139)) := do
  let p := g.cov
  let bpS := egoBpP
  let (t, s) ← m.cov p (Config.egoPoint 4 % 32) bpS
  match ← gainRows piv t s bpS errorBp with
  | none => return none
  | some k =>
    let dx ← (List.range 15).mapM fun i => gainTimes k errorBp m.y i (some 0) 0 (errorBp i)
    let p' ← joseph k errorBp m p fun i => Config.egoPoint (5 + i) % (if i = 0 then 31 else 32)
    let d := fun i => dx.getD i none
    let add := fun (i j bp : Nat) => fxAdd (g.val i) bp (d j) (errorBp j) bp false
    let pos ← (List.range 3).mapM fun i => add i i 4
    let vel ← (List.range 3).mapM fun i => add (7 + i) (3 + i) 8
    let bg ← (List.range 3).mapM fun i => add (13 + i) (9 + i) (errorBp 9)
    let ba ← (List.range 3).mapM fun i => add (16 + i) (12 + i) (errorBp 12)
    let turn := ((List.range 4).map fun i => at_ g.est (3 + i) 0) ++ (List.range 3).map fun i => BitVec.ofNat 32 (fxRaw (d (6 + i)))
    let quat : List Fx := (List.range 4).map fun i => fxOf (Config.egoTurn i turn).toNat
    let cov := ((List.range 15).map fun i => (List.range (15 - i)).map fun j => p'.at_ i (i + j)).flatten
    let all := pos ++ quat ++ vel ++ ((List.range 3).map fun i => g.val (10 + i)) ++ bg ++ ba ++ cov
    if dx.contains none || all.contains none then return none
    else return some (estOf fun i => fxRaw (all.getD i none))

/-- One CAN_FRAME unit as a measurement at the estimate propagated to its time: whether it gave NaR, and is skipped. -/
def egoEncoder (u : EgoUnit) : TaskM Bool := do
  modify fun s => { s with ego := s.ego.propagate u.time s.ego.sample }
  let s ← get
  let g := s.ego
  let h ← readWords g.modelVa 2
  let bp := bits (wAt h 1) 36 32
  let rows := bits (wAt h 1) 29 24
  let bytes := ((u.data.drop 1).map fun w => leBytes 6 (bits w 47 0)).flatten.take (bits (u.data.headD 0) 38 32)
  let a ← evaluate g.modelVa
    { x := (List.range 13).map fun i => at_ g.est i 0, bpX := (List.range 13).map egoBp, bpA := bp, bpB := bp
      input := some bytes, rows := rows, cols := 15 }
  let bpR := Config.egoPoint 3 % 32
  let m : Measured :=
    { h := { rows := rows, cols := 15, bp := bp, m := a.mx }
      y := .of rows 1 bp fun i _ => a.vec.getD i (some 0)
      r := .of rows rows bpR fun i j => if i = j then fxOf (Config.encVar i bytes).toNat else some 0 }
  let s ← get
  let v := s.solver
  let r := (g.correct { eps := v.egoEps, lambda := v.egoLambda, regEn := v.egoReg } m).run { sat := a.sat }
  if a.undef then
    let s := s.countEgo false r.2
    let (k, s) := s.take 139
    set { s with ego := { s.ego with est := estOf fun i => (Config.freeReg (k + i)).toNat } }
    return false
  else
    let s := s.countEgo r.1.isNone r.2
    set (match r.1 with
      | some e => { s with ego := { s.ego with est := e } }
      | none => s)
    return r.1.isNone

/-! ### EGO_UPDATE (R215 to R219) -/

/-- The state that the estimator writes (R216): `v i` its quantities. -/
def egoWords (t : Inst) (flags shifts imu enc : Nat) (v : Nat → Nat) : EgoState :=
  let b0 := pack [(flags, 63, 48), (shifts, 47, 32), (imu, 15, 8), (enc, 7, 0)]
  { w := #v[t.stamp.w0, t.stamp.w1, b0, pack [(v 1, 63, 32), (v 0, 31, 0)], pack [(v 3, 63, 32), (v 2, 31, 0)],
    pack [(v 5, 63, 32), (v 4, 31, 0)], pack [(v 7, 63, 32), (v 6, 31, 0)], pack [(v 9, 63, 32), (v 8, 31, 0)],
    pack [(v 11, 63, 32), (v 10, 31, 0)], pack [(v 13, 63, 32), (v 12, 31, 0)]] }

/-- The estimator takes a state into its history and sends it (R218, R242). -/
def State.pushEgo (s : State) (e : EgoState) : State :=
  let g := s.ego
  let due := decide (g.every ≠ 0 ∧ g.every ≤ g.decim + 1)
  let s := { s with ego := { g with hist := (e :: g.hist).take 256, decim := if g.every = 0 ∨ due then 0 else g.decim + 1 } }
  if due then s.notify 0x4F2 e.w.toList else s

/-- Units applied in order: how many encoder updates gave NaR. -/
def egoUnits : List EgoUnit → TaskM Nat
  | [] => return 0
  | u :: r => do
    if u.kind = 2 then
      modify fun s => s.egoSample u
      egoUnits r
    else
      let bad ← egoEncoder u
      return b2n bad + (← egoUnits r)

/-- The state that the estimate gives (R216, R217). -/
def Ego.written (g : Ego) (t : Inst) : EgoState :=
  egoWords t 0 0 0 0 fun i =>
    if g.aligning ∧ (i < 3 ∨ (7 ≤ i ∧ i < 10)) then 0 else if i = 13 then g.sigma else (at_ g.est i 0).toNat

/-- The estimate takes the position that a written state holds. -/
def Ego.follow (g : Ego) (e : EgoState) : Ego :=
  if g.aligning then g else
  { g with est := estOf fun i => if i < 3 then e.raw i else (at_ g.est i 0).toNat }

/-- The state to be written at a time, with the frame recentred where it must be (R214); the estimate follows. -/
def State.recentred (s : State) (time : Inst) : EgoState × State :=
  let p := [0, 1, 2].foldl (fun p axis => State.recentre axis p) (s.ego.written time, s)
  let t := p.2
  (p.1, { t with ego := t.ego.follow p.1 })

/-- COAST_MAX launches in a row have coasted: EGO_LOST (R218). -/
def State.coastLost (s : State) : State :=
  if s.ego.coast = 0 ∨ s.ego.coast < s.ego.coastMax then s
  else (({ s with ego := { s.ego with lost := true } }).btEvent 0 0 1 0).log 0x0D 0 0 0 0 0

/-- The state of a launch is written (R214 to R218): `time` its output time, after `imu` inertial units and `use` encoder
updates, `bad` of them NaR. A count that does not fit its 8 bits is free. -/
def State.writeEgo (s : State) (time : Inst) (imu use bad : Nat) : State :=
  let k := s.free
  let coast := decide (imu = 0)
  let g := s.ego.propagate time (if coast then [] else s.ego.sample)
  let s := { s with free := s.free + 2, ego := { g with coast := if coast then g.coast + 1 else 0 } }
  let p := s.recentred time
  let moved := p.2.ego.odoShifts != s.ego.odoShifts
  let used := fun (n i : Nat) => if n ≤ 255 then n else Config.freeNat (k + i) % 256
  let flags := b2n s.ego.aligning + 2 * b2n coast + 4 * b2n (use = bad) + 8 * b2n moved + 16 * b2n (bad ≠ 0)
  let b0 := pack [(flags, 63, 48), (p.2.ego.odoShifts.toNat, 47, 32), (used imu 0, 15, 8), (used (use - bad) 1, 7, 0)]
  (p.2.pushEgo { w := put p.1.w 2 b0 }).coastLost

/-- An EGO launch with its units read: `imu` and `enc` the units that count. -/
def egoWork (l : Launch) (imu enc : List EgoUnit) : TaskM Unit := do
  let s ← get
  let use := if s.ego.modelVa = 0 || s.ego.aligning then [] else enc
  if s.ego.aligning ∧ s.ego.alignCount = 0 then set s.freshEst
  let bad ← egoUnits (sortUnits (imu ++ use))
  let time : Inst := match imu.getLast? with
    | some u => u.time
    | none => { t := l.slotAt / 4294967296, flags := s.time.flags }
  modify fun s => s.writeEgo time imu.length use.length bad

/-- An EGO launch (R215, R217, R218): none while a unit waits for its words; else whether the launch is FAULTED. -/
def egoTask (l : Launch) : TaskM (Option Bool) := do
  let s ← get
  if !s.ego.configured then return some true
  else
    if s.ego.fresh then set { s with ego := { s.ego with fresh := false, aligning := true, alignCount := 0 } }
    match ← egoQueues s.egoSources [] with
    | none => return none
    | some us =>
      let s ← get
      let last := s.ego.hist.head?
      let mine := us.filter fun u => (s.entry u.entry).state = .active &&
        ((u.kind = 2 && bit s.ego.imuMask u.entry) || (u.kind = 3 && bit s.ego.encMask u.entry))
      let good := mine.filter fun u => !staleUnit last u
      let imu := sortUnits (good.filter (·.kind = 2))
      let enc := sortUnits (good.filter (·.kind = 3))
      set { s with ego := { s.ego with discarded := sat32 (s.ego.discarded + (mine.length - good.length)) } }
      if s.ego.lost ∧ imu.isEmpty then return some true
      else
        if s.ego.lost then
          modify fun s => { s with ego := { s.ego with lost := false, coast := 0, aligning := true, alignCount := 0 } }
        egoWork l imu enc
        return some false

/-- The EGO launch that runs on the solver completes. One whose deadline has passed writes nothing more (R219); with no keeper
pair left none completes (R438); a lane that waits for its spare holds its problems (R259, R427). -/
def State.egoUpdate (s : State) : State :=
  match s.runningAt 0x21 16 with
  | none => s
  | some l =>
    let late := match l.deadline with
      | some d => decide (d < s.time.line)
      | none => false
    if !l.ego || late || !s.keeperUp || s.laneWaits then s else
    match (egoTask l).go (s.byLaunch l.id) with
    | (.ok none, _) => s
    | (.ok (some f), t) => t.byNone.endRun l 16 f
    | (.error _, t) => t.byNone.taskFault 0x21 16 0 0

def execEgoUpdate (s : State) : Host.Outcome State Fault Refusal :=
  fin s (unitParts ++ [.iq, .cloud, .ego, .buoys, .solver]) s.egoUpdate

/-! ### Messages (R241, R242) -/

/-- Every entry of a mask has a sensor class. -/
def State.maskOk (s : State) (m : Word) (cls : Nat) : Bool :=
  (List.range 64).all fun e => !bit m e || (s.entry e).cls == cls

/-- EGO_SET. -/
def egoSet (c : Cmd) (s : State) : Ans :=
  let w := wAt c.words
  checked [(0, s.maskOk (w 0) 3), (1, s.maskOk (w 1) 2), (6, bits (w 6) 23 16 ≠ 0), (6, bits (w 6) 15 0 ≤ 1000)] <|
  ok { s with ego := { s.ego with configured := true, fresh := true, decim := 0, cfg := Vector.ofFn fun (i : Fin 8) => w i.val } }
def execEgoSet (ch : Fin 33) (s : State) : Host.Outcome State Fault Refusal :=
  fin s (ansParts ++ [.ego]) (s.serve ch 0x420 8 egoSet)

/-- EGO_RESET (R217). -/
def egoReset (_ : Cmd) (s : State) : Ans := ok { s with ego := { s.ego with aligning := true, alignCount := 0 } }
def execEgoReset (ch : Fin 33) (s : State) : Host.Outcome State Fault Refusal :=
  fin s (ansParts ++ [.ego]) (s.serve ch 0x421 0 egoReset)

/-- EGO_GET. -/
def egoGet (_ : Cmd) (s : State) : Ans := okWith s (match s.ego.hist.head? with
  | some e => e.w.toList
  | none => List.replicate 10 0)
def execEgoGet (ch : Fin 33) (s : State) : Host.Outcome State Fault Refusal :=
  fin s ansParts (s.serve ch 0x422 0 egoGet)

end Sys2Proof.Machine
end

