-- ==== Sys2Proof/Machine/Track.lean ====
section
/-! DEFINITION. Buoys (R221 to R243): the table, TRACK, contradicting sensors, the fusion output record, messages. Prediction,
gate values and updates follow R222, R226 and R228 in FX32; the binary points that the spec does not give are free (log entry
24). -/
namespace Sys2Proof.Machine

/-! ### Configuration (R242) -/

def Buoys.word (b : Buoys) (i : Nat) : Word := at_ b.cfg i 0
def Buoys.tableVa (b : Buoys) : Nat := bits (b.word 0) 47 0
def Buoys.m (b : Buoys) : Nat := bits (b.word 1) 63 60
def Buoys.n (b : Buoys) : Nat := bits (b.word 1) 59 56
def Buoys.coastMax (b : Buoys) : Nat := bits (b.word 1) 55 48
def Buoys.contraN (b : Buoys) : Nat := bits (b.word 1) 47 40
def Buoys.contraClear (b : Buoys) : Nat := bits (b.word 1) 39 32
def Buoys.contraCap (b : Buoys) : Nat := bits (b.word 1) 23 16
def Buoys.dmCap (b : Buoys) : Nat := bits (b.word 1) 15 8
def Buoys.innovMin (b : Buoys) : Nat := bits (b.word 1) 7 0
def Buoys.nisLimit (b : Buoys) : Fx := fxOf (bits (b.word 5) 63 32)
def Buoys.pMax (b : Buoys) : Nat := bits (b.word 5) 31 0
def Buoys.coarseMul (b : Buoys) : Fx := fxOf (bits (b.word 6) 63 32)
def Buoys.skewUs (b : Buoys) : Nat := bits (b.word 6) 31 0
def Buoys.initVar (b : Buoys) : Fx := fxOf (bits (b.word 8) 31 0)

def Buoys.dwShift (b : Buoys) : Nat := bits (b.word 1) 31 29
def Buoys.noise (b : Buoys) : Noise :=
  { jerk := fxOf (bits (b.word 7) 63 32), acc := fxOf (bits (b.word 7) 31 0), yaw := fxOf (bits (b.word 8) 63 32) }

/-- Value i of FX32 values packed as X from a word on. -/
def packed (ws : List Word) (base i : Nat) : Nat :=
  if i % 2 = 0 then bits (wAt ws (base + i / 2)) 31 0 else bits (wAt ws (base + i / 2)) 63 32

/-- GATE[m], m from 1. -/
def Buoys.gate (b : Buoys) (m : Nat) : Fx := fxOf (packed b.cfg.toList 2 (m - 1))

/-! ### Models (R222, R267) -/

/-- Components: x, y, z, vx, vy, vz, ax, ay, az, length, width, height, yaw, yaw rate, numbered from 0. -/
def modelComps (m : Nat) : List Nat :=
  match m with
  | 0 => [0, 1, 3, 4]
  | 1 => [0, 1, 2, 3, 4, 5]
  | 2 => [0, 1, 2, 3, 4, 5, 6, 7, 8]
  | 3 => [0, 1, 2, 3, 4, 5, 9, 10, 11, 12, 13]
  | _ => []
def measComps (m : Nat) : List Nat :=
  match m with
  | 0 => [0, 1]
  | 1 => [0, 1, 2]
  | 2 => [3, 4]
  | 3 => [0, 1, 3, 4]
  | 4 => [0, 1, 2, 3, 4, 5]
  | 5 => [0, 1, 2, 9, 10, 11]
  | 6 => [0, 1, 2, 12]
  | _ => []

/-- Number of a component in a model's state. -/
def compIndex (m c : Nat) : Option Nat := (modelComps m).findIdx? (· == c)

/-! ### Slots (R221) -/

/-- A buoy: its slot and words w0 to w48. -/
structure Buoy where
  slot : Nat
  ws : List Word
  deriving DecidableEq, Repr

def Buoy.w0 (b : Buoy) : Word := wAt b.ws 0
def Buoy.state (b : Buoy) : Nat := bits b.w0 62 61
def Buoy.model (b : Buoy) : Nat := bits b.w0 60 57
def Buoy.dim (b : Buoy) : Nat := bits b.w0 56 53
def Buoy.bpX (b : Buoy) : Nat := bits b.w0 52 48
def Buoy.bpP (b : Buoy) : Nat := bits b.w0 47 43
def Buoy.hits (b : Buoy) : Nat := bits b.w0 42 35
def Buoy.misses (b : Buoy) : Nat := bits b.w0 34 27
def Buoy.cls (b : Buoy) : Nat := bits b.w0 26 19
def Buoy.conf (b : Buoy) : Nat := bits b.w0 7 0
def Buoy.id (b : Buoy) : Nat := bits (wAt b.ws 1) 63 32
def Buoy.age (b : Buoy) : Nat := bits (wAt b.ws 1) 31 0
def Buoy.time (b : Buoy) : Inst := instOf (wAt b.ws 2) (wAt b.ws 3)
def Buoy.x (b : Buoy) (i : Nat) : Nat := packed b.ws 4 i
def Buoy.live (b : Buoy) : Bool := b.state != 3

/-- Number of an entry of the upper triangle of a 12 × 12 covariance, row by row (log entry 25). -/
def triIndex (i j : Nat) : Nat := 12 * i - i * (i - 1) / 2 + (j - i)
def Buoy.p (b : Buoy) (i j : Nat) : Nat := packed b.ws 10 (triIndex i j)

/-- A field of w0 replaced. -/
def setField (w : Word) (v hi lo : Nat) : Word :=
  let mask : Word := wd ((2 ^ (hi - lo + 1) - 1) * 2 ^ lo)
  (w &&& ~~~mask) ||| pack [(v, hi, lo)]
def Buoy.set0 (b : Buoy) (v hi lo : Nat) : Buoy := { b with ws := b.ws.set 0 (setField b.w0 v hi lo) }

/-- Words of values packed as X. -/
def packAs (n : Nat) (v : Nat → Nat) : List Word := (List.range (n / 2)).map fun j => pack [(v (2 * j + 1), 63, 32), (v (2 * j), 31, 0)]

/-- A buoy with its state vector and covariance values replaced. -/
def Buoy.setXP (b : Buoy) (x : Nat → Nat) (p : Nat → Nat) : Buoy := { b with ws := b.ws.take 4 ++ packAs 12 x ++ packAs 78 p }

/-- Rows and columns of the covariance values of a dimension. -/
def inDim (dim k : Nat) : Bool := (List.range dim).any fun i => (List.range dim).any fun j => decide (i ≤ j) && triIndex i j == k

/-- State vector and covariance as matrices (R221). -/
def Buoy.xs (b : Buoy) : FxMat := .of b.dim 1 b.bpX fun i _ => fxOf (b.x i)
def Buoy.ps (b : Buoy) : FxMat := .of b.dim b.dim b.bpP fun i j => fxOf (b.p (min i j) (max i j))

/-- A buoy with the values of its dimension replaced. -/
def Buoy.withVals (b : Buoy) (x p : FxMat) : Buoy :=
  let tri := ((List.range b.dim).map fun i => (List.range (b.dim - i)).map fun j => (triIndex i (i + j), p.at_ i (i + j))).flatten
  b.setXP (fun i => if i < b.dim then fxRaw (x.at_ i 0) else b.x i) fun k => match tri.find? (·.1 == k) with
    | some e => fxRaw e.2
    | none => packed b.ws 10 k

/-- Point `i` of the intermediate values of a buoy; 1 has a value at the first two. -/
def Buoy.point (b : Buoy) (i : Nat) : Nat := Config.trackPoint i b.bpX b.bpP % (if i < 2 then 31 else 32)

/-- Components of a buoy's state; a DIM beyond the model's has none there. -/
def Buoy.comps (b : Buoy) : List Nat := (modelComps b.model ++ List.replicate b.dim 99).take b.dim

/-- Every value of its dimension is a number. -/
def Buoy.noNar (b : Buoy) : Bool :=
  ((List.range b.dim).all fun i => b.x i != 2147483648) &&
  (List.range 78).all fun k => !inDim b.dim k || packed b.ws 10 k != 2147483648

/-! ### Detections (R223) -/

structure Det where
  idx : Nat
  ws : List Word
  deriving DecidableEq, Repr

def Det.w0 (d : Det) : Word := wAt d.ws 0
def Det.entry (d : Det) : Nat := bits d.w0 63 58
def Det.mmodel (d : Det) : Nat := bits d.w0 57 54
def Det.mdim (d : Det) : Nat := bits d.w0 53 51
def Det.birth (d : Det) : Bool := bit d.w0 50
def Det.bpZ (d : Det) : Nat := bits d.w0 49 45
def Det.bpR (d : Det) : Nat := bits d.w0 44 40
def Det.cls (d : Det) : Nat := bits d.w0 39 32
def Det.birthModel (d : Det) : Nat := bits d.w0 3 0
def Det.time (d : Det) : Inst := instOf (wAt d.ws 1) (wAt d.ws 2)

/-- A detection that R244.1 leaves undefined, whether or not its BIRTH is set. -/
def Det.bad (d : Det) : Bool :=
  decide (6 < d.mmodel) || d.mdim != (measComps d.mmodel).length || decide (3 < d.birthModel) ||
  (measComps d.mmodel).any fun c => (compIndex d.birthModel c).isNone

/-! ### Steps 1 to 3 (R225) -/

/-- What a TRACK is about. -/
structure TrackCmd where
  refMode : Nat
  count : Nat
  listLifted : Bool
  listLaid : Bool
  maxOut : Nat
  detVa : Nat
  frameVa : Nat
  outVa : Nat
  deriving DecidableEq, Repr

def trackOf (ws : List Word) : TrackCmd :=
  let w := wAt ws 0
  { refMode := bits w 55 54, count := bits w 44 32, listLifted := bit w 17, listLaid := bit w 16, maxOut := bits w 12 0
    detVa := bits (wAt ws 3) 47 4 * 16, frameVa := bits (wAt ws 4) 47 6 * 64, outVa := bits (wAt ws 5) 47 6 * 64 }

/-- A frame record is found (R237). -/
def TrackCmd.found (c : TrackCmd) (s : State) : Bool := c.frameVa != 0 && s.cloud.recordAt = some c.frameVa
def TrackCmd.noFrame (c : TrackCmd) (s : State) : Bool := !c.found s && (c.frameVa != 0 || c.refMode = 2)

/-- The output time (R225, R237). -/
def TrackCmd.time (c : TrackCmd) (l : Launch) (ws : List Word) : TaskM Inst := do
  let s ← get
  if c.refMode = 2 then
    if c.found s then do
      let r ← readWords c.frameVa 2
      return instOf (wAt r 0) (wAt r 1)
    else return s.refTime l 1 0 0
  else return s.refTime l (if c.refMode = 0 then 0 else 1) (wAt ws 1) (wAt ws 2)

/-- Slots that hold a buoy. -/
def readBuoys (va : Nat) : List Nat → TaskM (List Buoy)
  | [] => return []
  | i :: is => do
    let w ← readWords (va + 512 * i) 1
    if bit (wAt w 0) 63 then
      let ws ← readWords (va + 512 * i) 49
      return { slot := i, ws := ws } :: (← readBuoys va is)
    else readBuoys va is

/-- Position components of a buoy: two of CV2D, else three. -/
def Buoy.posDim (b : Buoy) : Nat := if b.model = 0 then 2 else 3

/-- A recentring shift, in millimetres to add (R214, R225). -/
def Buoy.shift (b : Buoy) (mm : List Int) : Buoy × Nat :=
  let f := fun i => if i < b.posDim then
      match fxOf (b.x i) with
      | some v =>
        let r := fxSat (v + mm.getD i 0 * 2 ^ b.bpX)
        (fxRaw r.1, b2n r.2)
      | none => (b.x i, 0)
    else (b.x i, 0)
  (b.setXP (fun i => (f i).1) (packed b.ws 10), ((List.range 12).map fun i => (f i).2).sum)

/-- Predict a buoy to T (R222, R225): over no time nothing changes. -/
def Buoy.predict (b : Buoy) (n : Noise) (t : Inst) : FxM Buoy := do
  let dt := t.t - b.time.t
  let b' ← if epochOf b.time.flags ≠ epochOf t.flags ∨ dt = 0 then pure b
    else do
      let f ← motionF b.comps dt (b.point 0)
      let q ← motionQ n b.comps (b.model = 2) dt.natAbs (b.point 2)
      let x ← f.times b.xs b.bpX
      let m ← f.times b.ps (b.point 3)
      let p ← q.addTimes false m f.flip b.bpP
      pure (b.withVals x p)
  return { b' with ws := (b'.ws.set 2 t.stamp.w0).set 3 t.stamp.w1 }

/-- Move and predict the live buoys of a list (R225 step 2). -/
def predictAll (n : Noise) (mm : List Int) (t : Inst) : List Buoy → FxM (List Buoy)
  | [] => return []
  | b :: r => do
    if !b.live then return b :: (← predictAll n mm t r)
    else
      let m := b.shift mm
      modify fun k => { k with sat := k.sat + m.2 }
      let b' ← m.1.predict n t
      return b' :: (← predictAll n mm t r)

/-- Read detections. -/
def readDets (va n : Nat) : TaskM (List Det) :=
  (List.range n).mapM fun i => do return { idx := i, ws := ← readWords (va + 80 * i) 10 }

/-- A detection passes the screen (R225). -/
def State.screens (s : State) (t : Inst) (d : Det) : Bool :=
  (s.entry d.entry).state = .active && epochOf d.time.flags = epochOf t.flags &&
  decide ((d.time.t - t.t).natAbs ≤ s.buoys.skewUs * 65536000)

/-! ### Gating and association (R226, R227) -/

/-- An entry is down-weighted (R235). -/
def Buoys.down (b : Buoys) (e : Nat) : Bool := b.pairs.any fun p => (p.1.1 == e && p.2.dwA) || (p.1.2 == e && p.2.dwB)

/-- A class-matching pair with its gate value. -/
structure Gated where
  det : Det
  slot : Nat
  d2 : Fx
  deriving DecidableEq, Repr

def Buoys.fine (b : Buoys) (g : Gated) : Bool := match g.d2, b.gate g.det.mdim with
  | some v, some k => decide (v ≤ k)
  | _, _ => false
def Buoys.coarse (b : Buoys) (g : Gated) : Bool := match g.d2, b.gate g.det.mdim, b.coarseMul with
  | some v, some k, some m => decide (v * 65536 ≤ k * m)
  | _, _, _ => false

/-- The measurement of a buoy at a detection's time (R226, R267): row and innovation and noise; a component that the buoy's
model lacks gives a row of 0 (log entry 24). Down-weighting scales the variances by 2^DW_SHIFT (R235). -/
def Det.measure (s : Buoys) (t : Inst) (b : Buoy) (d : Det) : FxM Measured := do
  let dt := d.time.t - t.t
  let comps := measComps d.mmodel
  let f ← motionF b.comps dt (b.point 1)
  let q ← motionQ s.noise b.comps (b.model = 2) dt.natAbs (b.point 2)
  let row := fun i => b.comps.findIdx? (· == comps.getD i 98)
  let n := comps.length
  let h : FxMat := .of n b.dim f.bp fun i j => match row i with
    | some k => f.at_ k j
    | none => some 0
  let z : FxMat := .of n 1 d.bpZ fun i _ => fxOf (packed d.ws 3 i)
  let y ← z.addTimes true h b.xs (b.point 4)
  let w := if s.down d.entry then s.dwShift else 0
  let r ← FxMat.build n n (b.point 5) fun i j =>
    let qij : Fx := match row i, row j with
      | some k, some l => q.at_ k l
      | _, _ => some 0
    let v : Fx := if i = j then (fxOf (packed d.ws 6 i)).map fun v => v * 2 ^ w else some 0
    fxAdd qij q.bp v d.bpR (b.point 5) false
  return { h := h, y := y, r := r }

/-- The pivot settings of TRACK (R259). -/
def State.trackPivots (s : State) : PivotSet := { eps := s.solver.trackEps, lambda := s.solver.trackLambda, regEn := s.solver.trackReg }

/-- d2 of a detection and a buoy (R226): NaR where the factorisation stops. -/
def gateValue (s : Buoys) (piv : PivotSet) (t : Inst) (b : Buoy) (d : Det) : FxM Fx := do
  let m ← d.measure s t b
  let (_, c) ← m.cov b.ps (b.point 6) (b.point 7)
  let n := c.rows
  let f ← chol c.m piv n c.bp (b.point 8)
  if f.stop.isSome then return none
  else
    let x ← cholSolve f n (b.point 8) m.y.bp (b.point 9) fun i => m.y.at_ i 0
    fxSumProd (some 0) 0 false (pairsBelow n (fun i => m.y.at_ i 0) (fun i => x.getD i none)) (m.y.bp + b.point 9) 16

/-- Step 4, in detection order and then slot order. -/
def gatePairs (s : Buoys) (piv : PivotSet) (t : Inst) (ds : List Det) (bs : List Buoy) : FxM (List Gated) := do
  let gs ← ds.mapM fun d => (bs.filter fun (b : Buoy) => b.cls = d.cls || d.cls = 255).mapM fun b => do
    return { det := d, slot := b.slot, d2 := ← gateValue s piv t b d }
  return gs.flatten

/-- Count what a computation of TRACK met (R255, R258, R272, R274). -/
def State.countNotes (s : State) (n : Notes) : State :=
  let v := s.solver
  let s := { s with solver := { v with pivot := sat32 (v.pivot + n.small), regularised := sat32 (v.regularised + n.regs) } }
  (s.countSat n.sat).count 16 0x33 n.small

/-- Run a computation over FX32, and count what it met. -/
def runFx {α : Type} (x : FxM α) : TaskM α := do
  let r := x.run {}
  modify fun s => s.countNotes r.2
  return r.1

/-- One pair before another: by d2, detection, slot. -/
def Gated.before (a b : Gated) : Bool :=
  let x := a.d2.getD 0
  let y := b.d2.getD 0
  decide (x < y) || (x = y && (decide (a.det.idx < b.det.idx) || (a.det.idx = b.det.idx && decide (a.slot < b.slot))))

def insertGated (g : Gated) : List Gated → List Gated
  | [] => [g]
  | h :: r => if g.before h then g :: h :: r else h :: insertGated g r

/-- Step 5: pairs taken, in the order taken. -/
def associate (fs : List Gated) : List Gated :=
  (fs.foldl (fun a g => insertGated g a) []).foldl (fun t g =>
    if t.any (fun h => h.det.idx == g.det.idx || (h.slot == g.slot && h.det.entry == g.det.entry)) ||
        decide (8 ≤ (t.filter (·.slot == g.slot)).length) then t else t ++ [g]) []

/-! ### Sectors of buoys (R230) -/

/-- The sector of a buoy's x and y relative to the ego position, rotated into body axes. -/
def Buoy.sector (b : Buoy) (pose : Option (V3 × Quat)) : Option Nat :=
  match pose with
  | none => none
  | some (p, q) =>
    let r := M3.apply (M3.transpose (Quat.matrix q))
      ((fx32 (b.x 0) b.bpX).sub32 p.1, (fx32 (b.x 1) b.bpX).sub32 p.2.1, .zero)
    sectorNum r.1 r.2.1

/-- An entry covers a sector. -/
def Entry.covers (e : Entry) (n : Nat) : Bool := e.enabled && e.sectors / 2 ^ n % 2 == 1

/-! ### Step 6 (R235) -/

/-- The lowest gate value of an entry's detections to a buoy. -/
def lowest (gs : List Gated) (slot e : Nat) : Option Gated :=
  gs.foldl (fun a g => if g.slot = slot ∧ g.det.entry = e ∧ g.d2.isSome then
    (match a with
      | none => some g
      | some h => if decide (g.d2.getD 0 < h.d2.getD 0) then some g else a) else a) none

/-- Fails and passes of a pair of entries in this cycle. -/
def pairTests (s : State) (gs : List Gated) (bs : List (Buoy × Option Nat)) (a b : Nat) : Nat × Nat :=
  bs.foldl (fun t x =>
    match x.2 with
    | none => t
    | some n =>
      if !((s.entry a).covers n && (s.entry b).covers n) then t else
      match lowest gs x.1.slot a, lowest gs x.1.slot b with
      | some g, some h =>
        let fg := s.buoys.fine g
        let fh := s.buoys.fine h
        if fg && fh then (t.1, t.2 + 1)
        else if (fg && !fh && s.buoys.coarse h) || (fh && !fg && s.buoys.coarse g) then (t.1 + 1, t.2)
        else t
      | _, _ => t) (0, 0)

/-- A pair's record after a cycle. -/
def PairRec.cycle (r : PairRec) (clear fails passes : Nat) : PairRec :=
  if passes < fails then { r with fails := min 255 (r.fails + 1), passes := 0 }
  else if passes ≠ 0 then
    let n := min 255 (r.passes + 1)
    let keep := decide (n < clear)
    { fails := 0, passes := n, dwA := r.dwA && keep, dwB := r.dwB && keep }
  else r

def Buoys.pair (b : Buoys) (k : Nat × Nat) : PairRec := match b.pairs.find? (·.1 == k) with
  | some p => p.2
  | none => {}
def Buoys.setPair (b : Buoys) (k : Nat × Nat) (r : PairRec) : Buoys :=
  if (b.pairs.any fun p => p.1 == k) then { b with pairs := b.pairs.map fun p => if p.1 = k then (k, r) else p }
  else if r = {} then b else { b with pairs := b.pairs ++ [(k, r)] }

/-- The pairs (A, B) of ACTIVE entries with A < B, in the order in which they are decided. -/
def State.activePairs (s : State) : List (Nat × Nat) :=
  let es := (List.range 64).filter fun e => decide ((s.entry e).state = .active)
  (es.map fun a => (es.filter (a < ·)).map fun b => (a, b)).flatten

/-- Step 6: counts of entries that are not ACTIVE are held. -/
def State.testPairs (s : State) (gs : List Gated) (bs : List (Buoy × Option Nat)) : State :=
  s.activePairs.foldl (fun t k =>
    let r := pairTests s gs bs k.1 k.2
    { t with buoys := t.buoys.setPair k ((t.buoys.pair k).cycle s.buoys.contraClear r.1 r.2) }) s

/-! ### Step 7 (R228, R229) -/

/-- What a cycle does to a buoy. -/
inductive Cycle where
  | hit | miss | neither
  deriving DecidableEq, Repr

/-- Detections by ascending ENTRY. -/
def insertDet (d : Det) : List Det → List Det
  | [] => [d]
  | e :: r => if d.entry < e.entry then d :: e :: r else e :: insertDet d r

/-- Measurements stacked: their noises do not correlate. -/
def stack (dim bpH bpY bpR : Nat) (ms : List Measured) : Measured :=
  let n := (ms.map (·.h.rows)).sum
  let rows : List (Nat × Measured × Nat) := (ms.zipIdx.map fun m => (List.range m.1.h.rows).map fun i => (m.2, m.1, i)).flatten
  let none_ : Nat × Measured × Nat := (0, { h := .of 0 0 0 fun _ _ => none, y := .of 0 0 0 fun _ _ => none, r := .of 0 0 0 fun _ _ => none }, 0)
  let at_ := fun i => rows.getD i none_
  { h := .of n dim bpH fun i j => (at_ i).2.1.h.at_ (at_ i).2.2 j
    y := .of n 1 bpY fun i _ => (at_ i).2.1.y.at_ (at_ i).2.2 0
    r := .of n n bpR fun i j => if (at_ i).1 = (at_ j).1 then (at_ i).2.1.r.at_ (at_ i).2.2 (at_ j).2.2 else some 0 }

/-- The update of a buoy from its detections in ascending ENTRY order (R228, R259): Cholesky factor of the stacked innovation
covariance with BP_A and BP_F the buoy's BP_P and BP_X its own, gain, state, Joseph form; none where the factorisation
stops. -/
def Buoy.update (s : Buoys) (piv : PivotSet) (t : Inst) (b : Buoy) (ds : List Det) : FxM (Option Buoy) := do
  let ms ← ds.mapM fun d => d.measure s t b
  let m := stack b.dim (b.point 1) (b.point 4) (b.point 5) ms
  let (u, c) ← m.cov b.ps (b.point 6) b.bpP
  match ← gainRows piv u c b.bpP fun _ => b.bpX with
  | none => return none
  | some k =>
    let x ← FxMat.build b.dim 1 b.bpX fun i _ => gainTimes k (fun _ => b.bpX) m.y i (fxOf (b.x i)) b.bpX b.bpX
    let p ← joseph k (fun _ => b.bpX) m b.ps fun i => b.point (if i = 0 then 0 else 9 + i)
    return some (b.withVals x p)

/-- Update one buoy that holds detections: the k-th problem, of which those that `keep` names complete. -/
def updateBuoy (keep : Nat → Bool) (t : Inst) (k : Nat) (b : Buoy) (ds : List Det) : TaskM (Buoy × Cycle) := do
  let s ← get
  let v := s.solver
  if !keep k then
    set { s with solver := { v with missed := sat32 (v.missed + 1) } }
    return (b, .neither)
  else
    let ds := ds.foldl (fun a d => insertDet d a) []
    let r := (b.update s.buoys s.trackPivots t ds).run {}
    let good := (r.1.map Buoy.noNar).getD false
    let s := s.countNotes r.2
    let v := s.solver
    let s := { s with solver := { v with
      problems := sat32 (v.problems + 1), nar := sat32 (v.nar + b2n (!good)), numeric := sat32 (v.numeric + b2n (!good)) } }
    set ((s.count 16 0x30 1).count 16 0x34 (b2n (r.2.sat ≠ 0)))
    let last := (ds.getLast?).map (·.entry)
    return if good then ((r.1.getD b).set0 (last.getD 0) 18 13, .hit) else (b, .neither)

/-- All updates in slot order. -/
def updateAll (keep : Nat → Bool) (t : Inst) (taken : List Gated) : Nat → List Buoy → TaskM (List (Buoy × Cycle))
  | _, [] => return []
  | k, b :: r => do
    let ds := (taken.filter (·.slot == b.slot)).map (·.det)
    if ds.isEmpty then return (b, .miss) :: (← updateAll keep t taken k r)
    else
      let x ← updateBuoy keep t k b ds
      return x :: (← updateAll keep t taken (k + 1) r)

/-! ### Step 8 (R230) -/

/-- Trace of the position block above P_MAX. -/
def Buoy.wide (b : Buoy) (pMax : Nat) : Bool :=
  let vs := (List.range b.posDim).map fun i => fxOf (b.p i i)
  !vs.contains none && decide ((pMax * 2 ^ b.bpP : Nat) < (vs.map fun v => v.getD 0).sum)

/-- Set bits among the n lowest of HITS. -/
def hitBits (hits n : Nat) : Nat := popN n hits

/-- One lift counted. -/
def State.countLift (s : State) (i : Nat) : State :=
  { s with buoys := { s.buoys with lifts := s.buoys.lifts.zipIdx.map fun (x : Nat × Nat) => if x.2 = i then sat32 (x.1 + 1) else x.1 } }

/-- The transition of one live buoy; its new state, misses, and the state of the machine. -/
def State.manageBuoy (s : State) (b : Buoy) (c : Cycle) (observed : Bool) : Buoy × State :=
  let g := s.buoys
  let hits := (b.hits * 2 + b2n (c = .hit)) % 256
  let age := (b.age + 1) % 2 ^ 32
  let b := b.set0 hits 42 35
  let b := { b with ws := b.ws.set 1 (pack [(b.id, 63, 32), (age, 31, 0)]) }
  let go := fun (b : Buoy) (n : Nat) => b.set0 n 62 61
  let miss := fun (b : Buoy) (n : Nat) => b.set0 n 34 27
  if b.wide g.pMax then (go b 3, s.countLift 0)
  else if b.state = 0 then
    if g.m ≤ hitBits hits g.n then (go b 1, s.btEvent 0 0 3 (wd b.id))
    else if g.n ≤ age then (go b 3, s.countLift 1)
    else (b, s)
  else if b.state = 1 then
    match c with
    | .hit => (miss b 0, s)
    | .miss => (if observed then go (miss b 1) 2 else go b 2, s)
    | .neither => (b, s)
  else
    match c with
    | .hit => (go (miss b 0) 1, s)
    | .miss =>
      if !observed then (b, s)
      else if g.coastMax ≤ b.misses + 1 then (go b 3, s.countLift 2)
      else (miss b (b.misses + 1), s)
    | .neither => (b, s)

/-- A miss is observed: an ACTIVE entry has the buoy's sector. -/
def State.observes (s : State) (sector : Option Nat) : Bool := match sector with
  | none => false
  | some n => (List.range 64).any fun e => (s.entry e).state = .active && (s.entry e).covers n

/-- Step 8 over all live buoys. -/
def manageAll (pose : Option (V3 × Quat)) : List (Buoy × Cycle) → State → List Buoy × State
  | [], s => ([], s)
  | (b, c) :: r, s =>
    if !b.live then
      let x := manageAll pose r s
      (b :: x.1, x.2)
    else
      let y := s.manageBuoy b c (s.observes (b.sector pose))
      let x := manageAll pose r y.2
      (y.1 :: x.1, x.2)

/-! ### Step 9 (R231, R232) -/

/-- The next ID after one. -/
def idAfter (i : Nat) : Nat := if i = 4294967295 then 1 else i + 1

/-- The first ID from one on that no buoy holds. -/
def freeId (held : List Nat) : Nat → Nat → Nat
  | 0, i => i
  | fuel + 1, i => if held.contains i then freeId held fuel (idAfter i) else i

/-- A buoy laid from a detection (R231). Its binary points are free (log entry 24). -/
def layBuoy (t : Inst) (d : Det) (slot id bpX bpP : Nat) (initVar : Fx) : FxM Buoy := do
  let m := d.birthModel
  let comps := modelComps m
  let meas := measComps d.mmodel
  let xs ← comps.mapM fun c => match meas.findIdx? (· == c) with
    | some k => fxConv (fxOf (packed d.ws 3 k)) d.bpZ bpX
    | none => pure (some 0)
  let ps ← comps.mapM fun c => match meas.findIdx? (· == c) with
    | some k => fxConv (fxOf (packed d.ws 6 k)) d.bpR bpP
    | none => fxConv initVar 0 bpP
  let w0 := pack [(1, 63, 63), (0, 62, 61), (m, 60, 57), (comps.length, 56, 53), (bpX, 52, 48), (bpP, 47, 43), (1, 42, 35),
    (0, 34, 27), (d.cls, 26, 19), (d.entry, 18, 13)]
  let b : Buoy := { slot := slot, ws := [w0, pack [(id, 63, 32), (1, 31, 0)], t.stamp.w0, t.stamp.w1] }
  let diag := (List.range 12).map fun i => (triIndex i i, i)
  return b.setXP (fun i => fxRaw (xs.getD i (some 0))) fun k => match diag.find? (·.1 == k) with
    | some (_, i) => fxRaw (ps.getD i (some 0))
    | none => 0

/-- Insert a buoy by slot. -/
def insertBuoy (b : Buoy) : List Buoy → List Buoy
  | [] => [b]
  | c :: r => if b.slot < c.slot then b :: c :: r else c :: insertBuoy b r

/-- Step 9: the buoys, those laid, those dropped. -/
def layAll (t : Inst) : List Det → List Buoy → Nat → Nat → State → List Buoy × Nat × Nat × State
  | [], bs, n, k, s => (bs, n, k, s)
  | d :: r, bs, n, k, s =>
    match (List.range 4096).find? fun i => !(bs.any fun b => b.slot == i) with
    | none => layAll t r bs n (k + 1) s
    | some slot =>
      let g := s.buoys
      let id := if g.wrapped then freeId ((bs.filter (·.live)).map (·.id)) 4097 g.nextId else g.nextId
      let (f, s) := s.take 2
      let x := (layBuoy t d slot id (Config.freeNat f % 32) (Config.freeNat (f + 1) % 32) g.initVar).run {}
      let s := { s with buoys := { s.buoys with nextId := idAfter id, wrapped := g.wrapped || idAfter id == 1 } }.countSat x.2.sat
      layAll t r (insertBuoy x.1 bs) (n + 1) k s

/-! ### Step 10 (R233 to R236) -/

/-- E and COUNT after one associated detection (R234). -/
def State.nis (s : State) (g : Gated) : State × Bool :=
  let e := g.det.entry
  let old := at_ s.buoys.e e 65536
  let r := divRne (g.d2.getD 0) (max 1 g.det.mdim)
  let v := (fxSat (old + (r - old) / 16)).1.getD 0
  let n := min (at_ s.buoys.count e 0 + 1) 65535
  let s := { s with buoys := { s.buoys with e := put s.buoys.e e v, count := put s.buoys.count e n } }
  let big := match s.buoys.nisLimit with
    | some k => decide (k < v)
    | none => false
  (s, decide (s.buoys.innovMin ≤ n) && big && (s.entry e).state = .active)

/-- Mask requests of step 10: entry and cause. -/
abbrev Requests := List (Nat × Nat)

def nisAll : List Gated → Requests → State → Requests × State
  | [], q, s => (q, s)
  | g :: r, q, s =>
    let x := s.nis g
    nisAll r (if x.2 ∧ ¬ (q.any fun p => p.1 == g.det.entry) then q ++ [(g.det.entry, 2)] else q) x.1

/-- Decide one pair (R235): requests so far, entries masked by a pair, CONTRADICTION sent. -/
def State.decidePair (x : Requests × List Nat × Bool × State) (k : Nat × Nat) : Requests × List Nat × Bool × State :=
  let (q, m, c, s) := x
  let g := s.buoys
  let r := g.pair k
  if r.fails = 0 ∨ r.fails < g.contraN ∨ m.contains k.1 ∨ m.contains k.2 then x else
  let ea := at_ g.e k.1 65536
  let eb := at_ g.e k.2 65536
  if 11 * min ea eb < 10 * max ea eb then
    let e := if eb < ea then k.1 else k.2
    (q ++ [(e, 3)], m ++ [e], c, { s with buoys := g.setPair k { r with fails := 0 } })
  else
    let s := { s with buoys := g.setPair k { r with fails := 0, dwA := true, dwB := true } }
    (q, m, true, s.btEvent k.1 k.2 2 0)

/-- Apply the mask requests in ascending entry order, the first of an entry. -/
def State.maskAll (s : State) (q : Requests) : State :=
  (List.range 64).foldl (fun s e => match q.find? (·.1 == e) with
    | some p => s.maskSensor e p.2
    | none => s) s

/-- bt_cap of a sector (R236). -/
def State.btCap (s : State) (predictOnly : Bool) (n : Nat) : Nat :=
  let g := s.buoys
  let a := if (List.range 64).any fun e => (s.entry e).covers n && g.down e then g.contraCap else 255
  min a (if predictOnly then g.dmCap else 255)

/-- CONF of a buoy (R233). -/
def Buoy.confOf (b : Buoy) (conf : Nat → Nat) (sector : Option Nat) : Nat :=
  let c := popN 8 b.hits * 255 / 8
  match sector with
  | some n => min c (conf n)
  | none => c

/-! ### Step 11 (R237) -/

/-- The ego body at T. Velocity, angular rate and SIGMA_POS between two states, and SIGMA_POS beyond the newest, are not
stated: free (log entry 24). With it, how many of its values saturate (R255). -/
def egoBody (f : PoseFrom) (t : Inst) (shifts k : Nat) : List Word × Nat :=
  let e := match f with
    | .state e => e
    | .between _ b => b
    | .beyond e => e
  let p := f.pose t.t
  let free := fun i => (Config.freeReg (k + i)).toNat
  let q : Nat → Num × Nat ⊕ Nat := fun i =>
    match i with
    | 0 => .inl (p.1.1, 4) | 1 => .inl (p.1.2.1, 4) | 2 => .inl (p.1.2.2, 4)
    | 3 => .inl (p.2.1, 30) | 4 => .inl (p.2.2.1, 30) | 5 => .inl (p.2.2.2.1, 30) | 6 => .inl (p.2.2.2.2, 30)
    | 13 => match f with
      | .state e => .inr (e.raw 13)
      | _ => .inr (free 13)
    | i => match f with
      | .between _ _ => .inr (free i)
      | _ => .inl (e.qty i, egoBp i)
  let val := fun i => match q i with
    | .inl v => toFx v.1 v.2
    | .inr r => r
  let sats := (List.range 14).filter fun i => match q i with
    | .inl v => (encodeNum 9 v.2 0 0 v.1).sat
    | .inr _ => false
  let b0 := e.word 2
  let w := (egoWords t (bits b0 63 48) shifts (bits b0 15 8) (bits b0 7 0) val).w.toList
  (w.drop 2, sats.length)

/-- SIGMA_POS of a buoy in mm, saturating; of a NaR it is free (log entry 24). -/
def Buoy.sigma (b : Buoy) : Nat :=
  let vs := (List.range b.posDim).map fun i => fxOf (b.p i i)
  if vs.contains none then Config.rootUp b.id b.bpP % 65536 else fixRoot (vs.map fun v => v.getD 0).sum b.bpP 0 65535

/-- A buoy list entry. -/
def Buoy.listed (b : Buoy) : List Word :=
  pack [(b.id, 63, 32), (b.state, 31, 30), (b.model, 29, 26), (b.bpX, 25, 21), (b.conf, 15, 8), (b.cls, 7, 0)] ::
  ((b.ws.drop 4).take 6 ++ [pack [(b.age, 63, 32), (b.hits, 31, 24), (b.misses, 23, 16), (b.sigma, 15, 0)]])

/-- Write a slot. -/
def writeBuoys (va : Nat) : List Buoy → TaskM Unit
  | [] => return ()
  | b :: r => do
    writeWords (va + 512 * b.slot) b.ws
    writeBuoys va r

/-- Free the slots of LIFTED buoys. -/
def freeLifted (va : Nat) : List Buoy → TaskM Unit
  | [] => return ()
  | b :: r => do
    if !b.live then writeWords (va + 512 * b.slot) [setField b.w0 0 63 63]
    freeLifted va r

/-! ### TRACK -/

/-- The deadline of a TRACK: the problems that complete where it passes before step 7 is over (R229). With problems, it passes
after that step where all of them complete. -/
def State.trackCut (s : State) (l : Launch) (cut : DeadlineCut) (n : Nat) : Option (List Nat) :=
  if s.passed l then some [] else
  match cut with
  | .after ds => if l.deadline.isSome && ((List.range n).any (fun k => !ds.contains k) || (n = 0 && ds.isEmpty)) then some ds else none
  | _ => none

/-- TRACK (R225). -/
def trackTask (cut : DeadlineCut) (l : Launch) (ws : List Word) : TaskM Unit := do
  let c := trackOf ws
  let t ← c.time l ws
  let s ← get
  let from_ := poseFrom s.ego.hist t s.cloud.extrap
  let pose := from_.map fun f => f.pose t.t
  let shifts := s.ego.odoShifts.toNat
  let va := s.buoys.tableVa
  -- steps 2 and 3
  let all ← readBuoys va (List.range 4096)
  let skips := (all.filter fun (b : Buoy) => b.live && epochOf b.time.flags != epochOf t.flags).length
  let bs ← runFx (predictAll s.buoys.noise s.buoys.shift t all)
  for b in bs do
    let _ ← checkWrite (va + 512 * b.slot) 392
  writeBuoys va bs
  modify fun s => { s with buoys := { s.buoys with shift := [0, 0, 0], epochSkips := sat32 (s.buoys.epochSkips + skips) } }
  let dets ← readDets c.detVa c.count
  let ds := dets.filter (s.screens t)
  let badTrack := c.refMode = 3 || dets.any (·.bad)
  -- steps 4 to 6
  let live := bs.filter (·.live)
  let gs ← runFx (gatePairs s.buoys s.trackPivots t (ds.filter fun d => !d.bad) live)
  let fs := gs.filter s.buoys.fine
  let taken := associate (fs.take 65536)
  let dropped := fs.length - 65536
  modify fun s => s.testPairs gs (live.map fun b => (b, b.sector pose))
  -- step 7
  let n := (live.filter fun b => taken.any (·.slot == b.slot)).length
  let cut := s.trackCut l cut n
  let late := cut.isSome
  let keep := fun k => match cut with
    | none => true
    | some ds => ds.contains k
  let ups ← updateAll keep t taken 0 live
  writeBuoys va (ups.map Prod.fst)
  let missed := ((List.range n).filter fun k => !keep k).length
  let numeric := (ups.filter fun (x : Buoy × Cycle) => x.2 = .neither).length - missed
  let lifted0 := bs.filter fun b => !b.live
  -- step 8
  let s ← get
  let (bs, s) := manageAll pose (ups ++ lifted0.map fun b => (b, .neither)) s
  set s
  let liftedNew := (bs.filter fun b => !b.live).length - lifted0.length
  -- step 9
  let births := ds.filter fun d => d.birth && !d.bad && !(taken.any (·.det.idx == d.idx))
  let (bs, laid, birthDropped, s) := layAll t births (bs.foldl (fun a b => insertBuoy b a) []) 0 0 s
  let liveN := (bs.filter (·.live)).length
  -- step 10
  let hit := fun slot => ups.any fun x => x.1.slot == slot && x.2 = .hit
  let assoc := (dets.map fun d => taken.filter fun g => g.det.idx == d.idx && hit g.slot).flatten
  let (q, s) := nisAll assoc [] s
  let (q, _, contra, s) := s.activePairs.foldl State.decidePair (q, [], false, s)
  let s := s.maskAll q
  let s := { s with buoys := { s.buoys with cap := Vector.ofFn fun (i : Fin 16) => s.btCap late i.val, live := liveN } }
  set s
  writeBuoys va bs
  let rec_ ← if c.found s then readWords (c.frameVa + 64) 2 else pure []
  let conf := fun i => min (at_ s.buoys.cap i 255)
    (if c.found s then bits (wAt rec_ (i / 8)) (8 * (i % 8) + 7) (8 * (i % 8)) else at_ s.calib.cap i 255)
  let bs := bs.map fun b => b.set0 (b.confOf conf (b.sector pose)) 7 0
  -- step 11
  let list := bs.filter fun b =>
    (b.live || (c.listLifted && !lifted0.any (·.slot == b.slot))) && (b.state != 0 || c.listLaid)
  let out := list.take c.maxOut
  let (k, s) := s.take 16
  let (ego, sats) := match from_ with
    | some f => egoBody f t shifts k
    | none => (List.replicate 8 0, 0)
  set (s.countSat sats)
  let flags := b2n late + 2 * b2n contra + 4 * b2n (dropped ≠ 0) + 8 * b2n (decide (c.maxOut < list.length)) +
    16 * b2n from_.isNone + 32 * b2n (c.noFrame s)
  let confW := fun base => pack ((List.range 8).map fun i => (conf (base + i), 8 * i + 7, 8 * i))
  let down := (List.range 64).foldl (fun a e => if s.buoys.down e then a + 2 ^ e else a) 0
  let head := [t.stamp.w0, t.stamp.w1, pack [(flags, 63, 48), (out.length, 44, 32), (liveN, 28, 16)],
    pack [(c.count, 63, 48), (assoc.length, 47, 32), (laid, 31, 16), (liftedNew, 15, 0)],
    pack [(c.count - ds.length, 63, 48), (birthDropped, 47, 32), (if dropped < 65536 then dropped else (Config.freeReg (k + 15)).toNat, 31, 16), (numeric, 15, 0)],
    confW 0, confW 8, wd down]
  let record := head ++ ego ++ (out.map Buoy.listed).flatten
  let tab := [(va, 2097152)]
  let arr := [(c.detVa, 80 * c.count)]
  let out_ := [(c.outVa, 8 * record.length)]
  let s ← get
  let bad := badTrack || s.anyMeet [tab, arr, out_] || s.meet (tab ++ arr ++ out_) s.listRuns
  if bad then
    let s ← get
    let (k, s) := s.take (2097152 + 128 + 64 * c.maxOut + 1)
    set { s with buoys := { s.buoys with live := Config.freeNat k % 4097 } }
    writeM va (freeBytes (k + 1) 2097152)
    writeM c.outVa (freeBytes (k + 2097153) (128 + 64 * out.length))
  else
    writeBuoys va bs
    writeWords c.outVa record
    freeLifted va bs
  -- step 12
  modify fun s => (s.notify 0x4F1 [pack [(c.outVa, 47, 0)], t.stamp.w0, t.stamp.w1,
    pack [(flags, 63, 48), (out.length, 44, 32)]]).count 16 0x37 1

def execTrack (cut : DeadlineCut) (s : State) : Host.Outcome State Fault Refusal :=
  fin s (unitParts ++ [.ll, .buoys, .solver, .cells]) (s.svCmd (· == 0x70) fun l _ ws s =>
    if s.laneWaits then (.stay, s) else
    let r := ofTask 0 (trackTask cut l ws) s
    match cut, r.1 with
    | .after _, .next => if l.deadline.isSome then (.next, r.2.markCut l) else r
    | _, _ => r)

/-! ### Messages (R241 to R243) -/

/-- Clear VALID of every slot of the table, whose pieces start at slots. -/
def freeSlots (m : List Host.Cell) (ps : List (Nat × Nat × Place)) : List Host.Cell :=
  m.filterMap fun c =>
    if ps.any fun p => decide (p.1 ≤ c.1 ∧ c.1 < p.1 + p.2.1) && (c.1 - p.1) % 512 == 7 then
      (if c.2 &&& 0x7F#8 = 0 then none else some (c.1, c.2 &&& 0x7F#8))
    else some c

/-- Free every slot of the buoy table at an address; whether the table could be written. -/
def State.freeTable (s : State) (va : Nat) : Bool × State :=
  match (checkWrite va 2097152).go s.outsideLaunch with
  | (.error _, t) => (false, s.keepIdle t)
  | (.ok ps, t) =>
    (true, s.keepIdle { t with mem := { t.mem with cells := freeSlots t.mem.cells ps }, buoys := { t.buoys with live := 0 } })

/-- BT_SET. -/
def btSet (c : Cmd) (s : State) : Ans :=
  let w := wAt c.words
  let va := bits (w 0) 47 0
  let m := bits (w 1) 63 60
  let n := bits (w 1) 59 56
  let pos := fun hi lo => decide (1 ≤ bits (w 1) hi lo)
  checked [(0, va % 4096 = 0 && s.mapped va 2097152 .rd && s.mapped va 2097152 .wr), (1, decide (1 ≤ m ∧ m ≤ n ∧ n ≤ 8)), (1, pos 55 48), (1, pos 47 40), (1, pos 39 32),
    (1, pos 7 0), (5, bits (w 5) 31 0 ≠ 0), (6, decide (65536 ≤ sgn 32 (bits (w 6) 63 32))), (6, bits (w 6) 31 0 ≤ 1000000)] <|
  match s.freeTable va with
  | (false, t) => .ok (t, { status := 7 })
  | (true, t) => ok { t with buoys := { t.buoys with configured := true, cfg := Vector.ofFn fun (i : Fin 9) => w i.val } }
def execBtSet (ch : Fin 33) (s : State) : Host.Outcome State Fault Refusal :=
  fin s (ansParts ++ [.buoys, .mem, .cells, .faults]) (s.serve ch 0x430 9 btSet)

/-- BT_CLEAR. Before a BT_SET there is no table and no live buoy. -/
def btClear (_ : Cmd) (s : State) : Ans :=
  if !s.buoys.configured then ok s else
  match s.freeTable s.buoys.tableVa with
  | (false, t) => .ok (t, { status := 7 })
  | (true, t) => ok t
def execBtClear (ch : Fin 33) (s : State) : Host.Outcome State Fault Refusal :=
  fin s (ansParts ++ [.buoys, .mem, .cells, .faults]) (s.serve ch 0x431 0 btClear)

/-- BT_GET_SENSOR. -/
def btGetSensor (c : Cmd) (s : State) : Ans :=
  let i := bits (wAt c.words 0) 5 0
  okWith s [pack [(fld 32 (at_ s.buoys.e i 65536), 63, 32), (at_ s.buoys.count i 0, 15, 0)], wd (b2n (s.buoys.down i))]
def execBtGetSensor (ch : Fin 33) (s : State) : Host.Outcome State Fault Refusal :=
  fin s ansParts (s.serve ch 0x432 1 btGetSensor)

end Sys2Proof.Machine
end

