-- ==== Sys2Proof/Machine/Calibration.lean ====
section
/-! DEFINITION. Online calibration refinement (ch. 11): quiet points, proposals, leading-light checks, messages. -/
namespace Sys2Proof.Machine

/-! ### Components and records (R276, R277) -/

/-- Group of a component: 0 ROT, 1 TRANS, 2 TIME, 3 FOCAL, 4 CENTRE, 5 DIST. -/
def compGroup (i : Nat) : Nat :=
  if i < 3 then 0 else if i < 6 then 1 else if i = 6 then 2 else if i < 9 then 3 else if i < 11 then 4 else 5

/-- Components that a sensor class allows (R276). -/
def classComps (cls : Nat) : Nat := if cls = 0 then 0x1FFF else if cls = 1 then 0x007F else if cls = 3 then 0x0007 else 0

def State.refine (s : State) (e : Nat) : Refine := at_ s.calib.refine e {}
def State.setRefine (s : State) (e : Nat) (r : Refine) : State := { s with calib := { s.calib with refine := put s.calib.refine e r } }

def Refine.gain (r : Refine) : Nat := bits r.w0 42 40
def Refine.bp (r : Refine) : Nat := bits r.w0 36 32
def Refine.mask (r : Refine) : Nat := bits r.w0 28 16
def Refine.comps (r : Refine) : List Nat := (List.range 13).filter fun i => r.mask / 2 ^ i % 2 = 1
def Refine.step (r : Refine) (g : Nat) : Num := (Num.ofInt (r.limits.getD g (0, 0)).1).r32
def Refine.total (r : Refine) (g : Nat) : Num := (Num.ofInt (r.limits.getD g (0, 0)).2).r32

/-- Address of an entry's record. -/
def State.recordVa (s : State) (e : Nat) : Nat := (s.entry e).calVa / 64 * 64

/-- NOT_RUN as a status word. -/
def notRun : Word := pack [(4, 63, 56)]

/-- A record's bank: 0, 1, or 2 the factory bank. -/
def bankVa (va k : Nat) : Nat := va + 64 + 128 * k

/-- CL_EVENT (R287). -/
def State.clEvent (s : State) (a b ev value : Nat) : State :=
  s.event 0x4F4 (pack [(a, 21, 16), (b, 13, 8), (ev, 7, 0)]) (wd value)

/-- Work of the keeper over memory (R338): what it answers, if no access faults. -/
def State.keeperDo {α : Type} (s : State) (x : TaskM α) : Option α × State :=
  match x.go s.outsideLaunch with
  | (.ok a, t) => (some a, s.keepIdle t)
  | (.error _, t) => (none, s.keepIdle t)

/-- Records with refinement: entry and address. -/
def Calib.records (c : Calib) (va : Nat → Nat) : List Nat :=
  ((List.range 64).filter fun e => (at_ c.refine e {}).mask ≠ 0).map va

/-- Two records, a record and the check table, or one of them and a command list, overlap in memory (R288.3). -/
def State.recordsMeet (s : State) : Bool :=
  let rs := [(s.calib.checkVa, 16 * s.calib.checks.length)] :: (s.calib.records s.recordVa).map fun va => [(va, 512)]
  s.anyMeet rs || s.meet rs.flatten s.listRuns

/-- What the keeper writes to the record of an entry is undefined (R288). -/
def State.openRecord (s : State) (e : Nat) : Bool := s.recordsMeet || s.badRecord e

/-- Write words of a record or of the check table; free where they are undefined (R288). -/
def putCal (bad : Bool) (va : Nat) (ws : List Word) : TaskM Unit := putRun bad va (wordBytes ws)

/-- NOT_RUN and 0 in the proposal of a record. -/
def clearProposal (bad : Bool) (va : Nat) : TaskM Unit := putCal bad (va + 448) (notRun :: List.replicate 7 0)

/-! ### compose and exceeds_total (R281, R282) -/

/-- 10^-6 and 10^6 in FP32. -/
def microF : Num := f32 0x358637BD#32
def millionF : Num := Num.ofInt 1000000
def thousandF : Num := Num.ofInt 1000

/-- The rotation by |δ| about δ, by Rodrigues' formula. -/
def rodrigues (d : V3) : M3 :=
  let n := (V3.dot d d).sqrt32
  if n.leq .zero then .identity else
  let (x, y, z) := (d.1.div32 n, d.2.1.div32 n, d.2.2.div32 n)
  let s := sin32 n
  let v := (Num.ofInt 1).sub32 (cos32 n)
  let o := Num.zero
  let k : M3 := ((o, z.neg_, y), (z, o, x.neg_), (y.neg_, x, o))
  let k2 := M3.mul k k
  let row := fun (i a b : V3) => V3.add (V3.add i (V3.scale s a)) (V3.scale v b)
  let e := M3.identity
  (row e.1 k.1 k2.1, row e.2.1 k.2.1 k2.2.1, row e.2.2 k.2.2 k2.2.2)

/-- One Gram-Schmidt pass over the rows, in row order. -/
def gramSchmidt (m : M3) : M3 :=
  let unit := fun (v : V3) => let n := (V3.dot v v).sqrt32; ((v.1.div32 n, v.2.1.div32 n, v.2.2.div32 n) : V3)
  let off := fun (v u : V3) => V3.sub v (V3.scale (V3.dot v u) u)
  let a := unit m.1
  let b := unit (off m.2.1 a)
  (a, b, unit (off (off m.2.2 a) b))

/-- Words of a bank from its values; words b10 to b15 as they were. -/
def bankWords (old : List Word) (f : Nat → Num) (tcal : Int) : List Word :=
  let h := fun i => (f i).bits32.toNat
  let two := fun i => pack [(h (i + 1), 63, 32), (h i, 31, 0)]
  [two 0, two 2, two 4, two 6, two 8, two 10, wdI tcal, two 14, two 16, two 18] ++ (List.range 6).map fun i => wAt old (10 + i)

/-- A finite value to the nearest integer, ties to even. -/
def Num.nearest (v : Num) : Int :=
  match v with
  | .fin n m e => let q := roundAt 0 0 m e 0; if n then -(q : Int) else q
  | _ => 0

/-- The new bank from the bank in force and the correction of each component (R281). -/
def compose (r : Refine) (b : List Word) (d : Nat → Num) : List Word :=
  let has := fun i => r.mask / 2 ^ i % 2 = 1
  let rot := bankRot b
  let turned := gramSchmidt (M3.mul (rodrigues ((d 0).mul32 microF, (d 1).mul32 microF, (d 2).mul32 microF)) rot)
  let m := if has 0 ∨ has 1 ∨ has 2 then turned else rot
  let ms := [m.1.1, m.1.2.1, m.1.2.2, m.2.1.1, m.2.1.2.1, m.2.1.2.2, m.2.2.1, m.2.2.2.1, m.2.2.2.2]
  let moved := fun (i c : Nat) (x : Num) => if has c then (bankF b i).add32 x else bankF b i
  let f := fun i =>
    if i < 9 then ms.getD i .zero
    else if i < 12 then moved i (i - 6) ((d (i - 6)).div32 thousandF)
    else if i < 18 then moved i (i - 7) ((d (i - 7)).div32 thousandF)
    else moved i (i - 7) ((d (i - 7)).mul32 microF)
  let t := (wAt b 6).toInt
  bankWords b f (if has 6 then t + ((d 6).mul_ (Num.ofInt 65536)).nearest else t)

/-- The magnitude of a value. -/
def Num.mag : Num → Num
  | .nan => .nan
  | .inf _ => .inf false
  | .fin _ m e => .fin false m e

/-- The first group whose total limit a bank exceeds against the factory bank (R282). -/
def exceedsTotal (r : Refine) (b fac : List Word) : Option Nat :=
  let p := M3.mul (M3.transpose (bankRot fac)) (bankRot b)
  let tr := (p.1.1.add32 p.2.1.2.1).add32 p.2.2.2.2
  let arg := (tr.sub32 (Num.ofInt 1)).mul32 (.fin false 1 (-1))
  let arg := if (Num.ofInt 1).lt arg then Num.ofInt 1 else arg
  let angle := (acos32 arg).mul32 millionF
  let diff := fun i => (((bankF b i).sub32 (bankF fac i)).mag)
  let wide := fun c => Id.run do
    let v := if c < 6 then (diff (c + 6)).mul32 thousandF
      else if c = 6 then ratio32 ((wAt b 6).toInt - (wAt fac 6).toInt).natAbs 65536
      else if c < 11 then (diff (c + 7)).mul32 thousandF
      else (diff (c + 7)).mul32 millionF
    return (r.total (compGroup c)).lt v
  (List.range 6).find? fun g =>
    if g = 0 then (r.total 0).lt angle else (r.comps.filter fun c => compGroup c == g).any wide

/-! ### Step 1 of a quiet point (R279, R283) -/

/-- An access of the keeper for an entry's record faults during a quiet point: the step ends for that record, with an
entry of class PORT (R338, R426; log entry 26). -/
def State.quietFault (s : State) (e : Nat) : State := s.log 0x10 0 ((s.entry e).cls * 16 + (s.entry e).port) 0 0 0

/-- Copy one check slot: its status word and w1. -/
def copyCheck (bad : Bool) (va p : Nat) : TaskM (Option (Word × Word)) := do
  let ws ← readWords (va + 16 * p) 2
  if bits (wAt ws 0) 63 56 = 4 then return none
  else
    putCal bad (va + 16 * p) [notRun]
    return some (wAt ws 0, wAt ws 1)

/-- Copies of check slots whose CODE is not NOT_RUN: pair number, status word, w1. -/
def State.copyChecks : List (Nat × Check) → State → List (Nat × Word × Word) × State
  | [], s => ([], s)
  | (p, c) :: r, s =>
    match s.keeperDo (copyCheck s.recordsMeet s.calib.checkVa p) with
    | (some (some w), t) =>
      let x := State.copyChecks r t
      ((p, w) :: x.1, x.2)
    | (some none, t) => State.copyChecks r t
    | (none, t) => State.copyChecks r (t.quietFault c.a)

/-- Copy one proposal: its status word and values. -/
def copyProposal (bad : Bool) (va : Nat) : TaskM (Option (List Word)) := do
  let ws ← readWords (va + 448) 8
  if bits (wAt ws 0) 63 56 = 4 then return none
  else
    clearProposal bad va
    return some ws

/-- Copies of the proposals of enabled entries; one whose accesses fault is not copied (log entry 26). -/
def State.copyProposals : List Nat → State → List (Nat × List Word) × State
  | [], s => ([], s)
  | e :: r, s =>
    if (s.refine e).mask = 0 ∨ s.recordVa e = 0 then State.copyProposals r s else
    match s.keeperDo (copyProposal (s.openRecord e) (s.recordVa e)) with
    | (some (some ws), t) =>
      let x := State.copyProposals r t
      ((e, ws) :: x.1, x.2)
    | (some none, t) => State.copyProposals r t
    | (none, t) => State.copyProposals r (t.quietFault e)

/-! ### Step 2: restores (R287) -/

/-- A restore takes effect; one whose accesses fault does not (log entry 26). -/
def State.restore (s : State) (e : Nat) : State :=
  let va := s.recordVa e
  match s.keeperDo (do
    let h ← readWords va 1
    let f ← readWords (bankVa va 2) 16
    let sel := b2n (bit (wAt h 0) 0)
    putCal (s.openRecord e) (bankVa va (1 - sel)) f
    putCal (s.openRecord e) va [pack [(bits (wAt h 0) 63 32 + 1, 63, 32), (1 - sel, 0, 0)]]
    clearProposal (s.openRecord e) va : TaskM Unit) with
  | (some _, t) => (t.keepRecord e).clEvent e 0 4 0
  | (none, t) => t.quietFault e

/-! ### Step 3: leading-light checks (R283 to R285) -/

/-- An entry is isolated (R284). -/
def isolated (cs : List Check) (e : Nat) : Bool :=
  let mine := cs.filter fun c => c.a == e || c.b == e
  decide (2 ≤ mine.length) && mine.all (·.failing)

def State.setCheck (s : State) (p : Nat) (c : Check) : State := { s with calib := { s.calib with checks := s.calib.checks.set p c } }

/-- One pair's outcome: pass or fail. -/
def State.judge (s : State) (p : Nat) (c : Check) (pass : Bool) : Requests × State :=
  let g := s.calib
  let c := if pass then { c with fails := 0, passes := min 255 (c.passes + 1) } else { c with passes := 0, fails := min 255 (c.fails + 1) }
  if !c.failing ∧ g.failN ≤ c.fails ∧ ¬ pass then
    let cs := g.checks.set p { c with failing := true }
    let ia := isolated cs c.a
    let ib := isolated cs c.b
    if ia != ib then ([(if ia then c.a else c.b, 4)], s.setCheck p { c with failing := true })
    else ([], (s.setCheck p { c with failing := true, holds := true }).clEvent c.a c.b 2 0)
  else if c.failing ∧ pass ∧ g.passN ≤ c.passes then
    let t := s.setCheck p { c with failing := false, holds := false }
    ([], if c.holds then t.clEvent c.a c.b 3 0 else t)
  else ([], s.setCheck p c)

/-- Examine the copied check slots in ascending pair order. -/
def State.examineChecks : List (Nat × Word × Word) → Requests → State → Requests × State
  | [], q, s => (q, s)
  | (p, w0, w1) :: r, q, s =>
    match s.calib.checks[p]? with
    | none => State.examineChecks r q s
    | some c =>
      match fxOf (bits w1 31 0) with
      | none => State.examineChecks r q s
      | some v =>
        if bits w0 63 56 ≠ 0 ∨ (s.entry c.a).state ≠ .active ∨ (s.entry c.b).state ≠ .active then State.examineChecks r q s
        else
          let x := s.judge p c (decide (v ≤ 2 ^ c.bp))
          State.examineChecks r (q ++ x.1) x.2

/-- cal_cap (R285). -/
def State.calCap (s : State) (n : Nat) : Nat :=
  if s.calib.checks.any fun c => c.failing && c.holds &&
      ((s.entry c.a).sectors / 2 ^ n % 2 == 1 || (s.entry c.b).sectors / 2 ^ n % 2 == 1) then s.calib.llCap else 255
def State.setCalCaps (s : State) : State :=
  { s with calib := { s.calib with cap := Vector.ofFn fun (i : Fin 16) => s.calCap i.val } }

/-- Commits of an entry are held (R284). -/
def Calib.held (c : Calib) (e : Nat) : Bool := c.checks.any fun p => p.holds && (p.a == e || p.b == e)

/-! ### Step 4: proposals (R280) -/

/-- The corrections of a proposal, and whether they were clipped. -/
def Refine.corrections (r : Refine) (ws : List Word) : (Nat → Num) × Bool :=
  let xs := r.comps.zipIdx.map fun c => (c.1, (fx32 (packed ws 1 c.2) r.bp).mul32 (.fin false 1 (-(r.gain : Int))))
  let k := (xs.map fun x => x.2.mag.div32 (r.step (compGroup x.1))).foldl Num.max_ .zero
  let clip := (Num.ofInt 1).lt k
  (fun i => match xs.find? (·.1 == i) with
    | some x => if clip then x.2.div32 k else x.2
    | none => .zero, clip)

/-- Examine one proposal. -/
def State.examine (s : State) (e : Nat) (ws : List Word) : Requests × State :=
  let r := s.refine e
  let st := wAt ws 0
  let va := s.recordVa e
  let discard := fun (t : State) => t.setRefine e { t.refine e with discarded := sat32 ((t.refine e).discarded + 1) }
  if bits st 63 56 ≠ 0 ∨ bit st 42 ∨ bit st 46 ∨ (s.entry e).state ≠ .active ∨ s.calib.held e then ([], discard s) else
  match s.keeperDo (do
    let h ← readWords va 1
    let b ← readWords (bankVa va (b2n (bit (wAt h 0) 0))) 16
    let f ← readWords (bankVa va 2) 16
    return (wAt h 0, b, f) : TaskM (Word × List Word × List Word)) with
  | (none, t) => ([], t.quietFault e)
  | (some (h, b, f), t) =>
    let d := r.corrections ws
    let t := if d.2 then t.setRefine e { t.refine e with clipped := sat32 ((t.refine e).clipped + 1) } else t
    let new := compose r b d.1
    match exceedsTotal r new f with
    | some g =>
      ([(e, 6)], (t.setRefine e { t.refine e with limitHits := sat32 ((t.refine e).limitHits + 1) }).clEvent e 0 1 g)
    | none =>
      let sel := b2n (bit h 0)
      match t.keeperDo (do
        putCal (t.openRecord e) (bankVa va (1 - sel)) new
        putCal (t.openRecord e) va [pack [(bits h 63 32 + 1, 63, 32), (1 - sel, 0, 0)], t.now.stamp.w0, t.now.stamp.w1] : TaskM Unit) with
      | (none, t) => ([], t.quietFault e)
      | (some _, t) =>
        let t := t.keepRecord e
        ([], t.setRefine e { t.refine e with commits := sat32 ((t.refine e).commits + 1) })

def State.examineAll : List (Nat × List Word) → Requests → State → Requests × State
  | [], q, s => (q, s)
  | (e, ws) :: r, q, s =>
    let x := s.examine e ws
    State.examineAll r (q ++ x.1) x.2

/-! ### QUIET_POINT (R279) -/

/-- This is a quiet point. -/
def State.isQuiet (s : State) : Bool :=
  s.keeperUp && !s.pairAway 1 && (s.dev.state = .standby || (s.dev.state = .armed && s.solverQuiet) || (s.dev.state = .running && s.calib.quiet))

def State.quietPoint (s : State) : State :=
  if !s.isQuiet then s else
  let c := s.calib
  let s := { s with calib := { c with quiet := false, restores := [] } }
  let (cs, s) := State.copyChecks (c.checks.zipIdx.map fun p => (p.2, p.1)) s
  let (ps, s) := State.copyProposals (List.range 64) s
  let s := c.restores.foldl State.restore s
  let (q, s) := State.examineChecks cs [] s
  let s := s.setCalCaps
  let (q, s) := State.examineAll ps q s
  s.maskAll q

def execQuietPoint (s : State) : Host.Outcome State Fault Refusal :=
  fin s (logParts ++ [.ll, .calib, .mem, .cells]) s.quietPoint

/-! ### Messages (R286, R287) -/

/-- CL_ENABLE. -/
def clEnable (c : Cmd) (s : State) : Ans :=
  let w := wAt c.words
  let e := bits (w 0) 5 0
  let r : Refine := { s.refine e with w0 := w 0, limits := (List.range 6).map fun g => (bits (w (g + 1)) 63 32, bits (w (g + 1)) 31 0) }
  let lim := fun g => (r.comps.all fun i => compGroup i != g) || decide (1 ≤ bits (w (g + 1)) 63 32 ∧ 1 ≤ bits (w (g + 1)) 31 0)
  checked (([(0, s.recordVa e ≠ 0), (0, r.mask &&& classComps (s.entry e).cls = r.mask)] : List (Nat × Bool)) ++ (List.range 6).map fun g => (g + 1, lim g)) <|
  let t := s.setRefine e r
  let bad := t.recordsMeet || !bankOk (bytesWords 16 (t.peek (bankVa (s.recordVa e) 2) 128))
  let known := (s.refine e).mask ≠ 0 && (s.refine e).keptAt == s.recordVa e
  if !bit (w 0) 8 then ok (if known then t else t.keepRecord e)
  else
    let va := s.recordVa e
    match s.keeperDo (do
      let f ← readWords (bankVa va 2) 16
      putCal bad (bankVa va 0) f
      putCal bad (bankVa va 1) f
      let h ← readWords va 1
      putCal bad va [wAt h 0 &&& ~~~(pack [(0xFFFFFFFF, 63, 32), (1, 0, 0)])]
      clearProposal bad va : TaskM Unit) with
    | (none, u) => .ok (u, { status := 7 })
    | (some _, u) => ok ((u.setRefine e r).keepRecord e)
def execClEnable (ch : Fin 33) (s : State) : Host.Outcome State Fault Refusal :=
  fin s (ansParts ++ [.calib, .mem, .cells, .faults]) (s.serve ch 0x440 7 clEnable)

/-- CL_RESTORE. -/
def clRestore (c : Cmd) (s : State) : Ans :=
  let e := bits (wAt c.words 0) 5 0
  stateCheck ((s.refine e).mask ≠ 0) <|
  ok { s with calib := { s.calib with restores := s.calib.restores ++ [e] } }
def execClRestore (ch : Fin 33) (s : State) : Host.Outcome State Fault Refusal :=
  fin s (ansParts ++ [.calib]) (s.serve ch 0x441 1 clRestore)

/-- Pair p of CL_SET_CHECKS. -/
def checkOf (w : Word) : Check := { a := bits w 5 0, b := bits w 13 8, bp := bits w 20 16 }

/-- Pair p of a list is given once. -/
def pairOnce (cs : List Check) (p : Nat) : Bool :=
  (cs.filter fun d => (cs[p]?).any fun c => d.a == c.a && d.b == c.b).length ≤ 1

/-- LL_CLEAR of every pair that holds, when CL_SET_CHECKS replaces it (R284). -/
def State.clearHolds (s : State) : State :=
  (s.calib.checks.filter fun c => c.failing && c.holds).foldl (fun t c => t.clEvent c.a c.b 3 0) s

/-- CL_SET_CHECKS. A COUNT whose pairs the payload does not hold is out of range. -/
def clSetChecks (c : Cmd) (s : State) : Ans :=
  let w := wAt c.words
  let n := bits (w 0) 5 0
  let cs := (List.range n).map fun p => checkOf (w (3 + p))
  let each := (List.range n).map fun p => (3 + p, decide (bits (w (3 + p)) 5 0 < bits (w (3 + p)) 13 8) && pairOnce cs p)
  if 32 < n then badArg 0 else
  if c.len < 3 + n then badArg c.len else
  checked (([(1, bits (w 1) 47 0 % 16 = 0), (2, bits (w 2) 15 8 ≠ 0), (2, bits (w 2) 7 0 ≠ 0)] : List (Nat × Bool)) ++ each) <|
  let va := bits (w 1) 47 0
  let u := s.clearHolds
  let t := { u with calib := { u.calib with
    checks := cs, checkVa := va, llCap := bits (w 2) 23 16, failN := bits (w 2) 15 8, passN := bits (w 2) 7 0
    cap := Vector.replicate 16 255 } }
  match t.keeperDo ((List.range n).forM fun p => putCal t.recordsMeet (va + 16 * p) [notRun]) with
  | (none, v) => .ok ({ s with mem := v.mem, pm := v.pm }, { status := 7 })
  | (some _, v) => ok v
def execClSetChecks (ch : Fin 33) (s : State) : Host.Outcome State Fault Refusal :=
  fin s (ansParts ++ [.calib, .mem, .cells, .faults]) (s.serve ch 0x442 3 clSetChecks)

/-- CL_GET_STATUS. SEQ is read from the record's header. -/
def clGetStatus (c : Cmd) (s : State) : Ans :=
  let e := bits (wAt c.words 0) 5 0
  let r := s.refine e
  let va := s.recordVa e
  let (h, s) := if va = 0 then ((some [0] : Option (List Word)), s) else s.keeperDo (readWords va 1)
  match h with
  | none => .ok (s, { status := 7 })
  | some ws =>
    okWith s [pack [(bits (wAt ws 0) 63 32, 63, 32), (b2n (s.calib.restores.contains e), 16, 16), (b2n (s.calib.held e), 8, 8),
        (b2n (r.mask ≠ 0), 0, 0)],
      pack [(r.commits, 63, 32), (r.clipped, 31, 0)], pack [(r.discarded, 63, 32), (r.limitHits, 31, 0)],
      pack [((s.calib.checks.zipIdx.foldl (fun a p => if p.1.failing then a + 2 ^ p.2 else a) 0), 31, 0)]]
def execClGetStatus (ch : Fin 33) (s : State) : Host.Outcome State Fault Refusal :=
  fin s (ansParts ++ [.mem, .faults]) (s.serve ch 0x443 1 clGetStatus)

end Sys2Proof.Machine
end

