-- ==== Sys2Proof/Machine/Cache.lean ====
section
/-! DEFINITION. The key-value cache (R289 to R305, R315, R319 to R321): pages, descriptors, sequences, messages. -/
namespace Sys2Proof.Machine

/-! ### Pages and pools (R290, R292) -/

/-- Bytes of an element of a page format. -/
def kvElem (fmt : Nat) : Nat := if fmt = 7 then 2 else 1

/-- Bytes of one position in a key or a value block. -/
def KvModel.rowBytes (m : KvModel) (fmt : Nat) : Nat := m.kvHeads * m.headDim * kvElem fmt

/-- B of R290. -/
def KvModel.layerBytes (m : KvModel) (sizeLog fmt : Nat) : Nat := 2 * 2 ^ sizeLog * m.rowBytes fmt

/-- Bytes that a page occupies before rounding, and rounded up. -/
def KvModel.usedBytes (m : KvModel) (sizeLog fmt : Nat) : Nat := m.layers * m.layerBytes sizeLog fmt + 8 * m.layers
def KvModel.pageBytes (m : KvModel) (sizeLog fmt : Nat) : Nat := (m.usedBytes sizeLog fmt + 4095) / 4096 * 4096

/-- Address of the key block of a layer, of its value block, and of its scales. -/
def KvModel.keyVa (m : KvModel) (p : PageDesc) (layer : Nat) : Nat := p.va + layer * m.layerBytes p.sizeLog p.fmt
def KvModel.valVa (m : KvModel) (p : PageDesc) (layer : Nat) : Nat := m.keyVa p layer + m.layerBytes p.sizeLog p.fmt / 2
def KvModel.scalesVa (m : KvModel) (p : PageDesc) : Nat := p.va + m.layers * m.layerBytes p.sizeLog p.fmt

/-- The pages of a pool: address and bytes. -/
def Kv.extents (k : Kv) (m : KvModel) (near : Bool) : List (Nat × Nat) :=
  (k.pages.filter fun p => p.2.near == near).map fun p => (p.2.va, m.pageBytes p.2.sizeLog p.2.fmt)

/-- The lowest address of a pool at which a number of bytes fits (R292). -/
def Kv.fit (k : Kv) (m : KvModel) (near : Bool) (size : Nat) : Option Nat :=
  let base := if near then m.nearVa else m.farVa
  let len := if near then m.nearBytes else m.farBytes
  let es := k.extents m near
  let ok := fun c => decide (base ≤ c ∧ c + size ≤ base + len) && !es.any fun e => decide (c < e.1 + e.2 ∧ e.1 < c + size)
  ((base :: es.map fun e => e.1 + e.2).filter ok).foldl (fun a c => match a with
    | none => some c
    | some b => some (min b c)) none

/-- The lowest free index from one on, of descriptors by index rising. -/
def freeIndex : List (Nat × PageDesc) → Nat → Nat
  | [], i => i
  | (k, _) :: r, i => if k = i then freeIndex r (i + 1) else i

/-- A page and a descriptor for it: none where no descriptor is free or neither pool has room. -/
def Kv.alloc (k : Kv) (sizeLog fmt : Nat) : Option (Nat × PageDesc) :=
  let i := freeIndex k.pages 0
  match k.model with
  | none => none
  | some m =>
    let size := m.pageBytes sizeLog fmt
    if 131072 ≤ i then none else
    match k.fit m true size with
    | some va => some (i, { pinned := false, near := true, sizeLog := sizeLog, fmt := fmt, va := va, refs := 1 })
    | none => (k.fit m false size).map fun va =>
        (i, { pinned := false, near := false, sizeLog := sizeLog, fmt := fmt, va := va, refs := 1 })

/-! ### Undefined pages (R322)

A page or a MOVER list that another agent wrote is found by comparing memory with what the keeper and the unit left there. -/

def Kv.page (k : Kv) (i : Nat) : PageDesc := (look k.pages i).getD
  { pinned := false, near := false, sizeLog := 4, fmt := 3, va := 0, refs := 0 }

/-- The bytes of a page as memory holds them. -/
def State.pageBytes (s : State) (p : PageDesc) : List Byte := match s.kv.model with
  | some m => s.peek p.va (m.usedBytes p.sizeLog p.fmt)
  | none => []

/-- A page that only the keeper and the unit have written. -/
def State.pageClean (s : State) (i : Nat) : Bool := (s.kv.page i).kept == some (s.pageBytes (s.kv.page i))

/-- Note a page as it stands; one that is undefined stays so. -/
def State.notePage (s : State) (clean : Bool) (i : Nat) : State :=
  let p := s.kv.page i
  { s with kv := { s.kv with pages := insertKey s.kv.pages i { p with kept := if clean then some (s.pageBytes p) else none } } }

/-- Work of the unit or the keeper on a page, which is then noted, also where an access faults. -/
def onPage (i : Nat) (x : TaskM Unit) : TaskM Unit := do
  let clean := (← get).pageClean i
  tryCatch x fun e => do
    modify fun s => s.notePage clean i
    throw e
  modify fun s => s.notePage clean i

/-! ### Sequences (R294 to R297) -/

def Kv.seq (k : Kv) (i : Nat) : Option KvSeq := look k.seqs i
/-- Pages of a list: entry number, first position, descriptor index. -/
def Kv.spansFrom (k : Kv) : Nat → Nat → List Nat → List (Nat × Nat × Nat)
  | _, _, [] => []
  | n, start, i :: r => (n, start, i) :: k.spansFrom (n + 1) (start + 2 ^ (k.page i).sizeLog) r
def Kv.spans (k : Kv) (q : KvSeq) : List (Nat × Nat × Nat) := k.spansFrom 0 0 q.list

/-- Positions that a list's pages hold. -/
def Kv.capacity (k : Kv) (q : KvSeq) : Nat := (q.list.map fun i => 2 ^ (k.page i).sizeLog).sum

/-- The page of a list that holds a position. -/
def Kv.spanAt (k : Kv) (q : KvSeq) (pos : Nat) : Option (Nat × Nat × Nat) :=
  (k.spans q).find? fun p => decide (p.2.1 ≤ pos ∧ pos < p.2.1 + 2 ^ (k.page p.2.2).sizeLog)

/-- SIZE_LOG of a new page at a position (R296). -/
def KvSeq.sizeLogAt (q : KvSeq) (pos : Nat) : Nat := min (if pos = 0 then q.logMin else max q.logMin pos.log2) q.logMax

/-- Visibility of a key (R297). -/
def KvSeq.sees (q : KvSeq) (at_ k : Nat) : Bool :=
  decide (k ≤ at_ ∧ k < q.length) &&
  (q.window = 0 || decide (at_ - k < q.window) || q.globals.contains k || q.globals.contains at_)

def State.setSeq (s : State) (i : Nat) (q : KvSeq) : State := { s with kv := { s.kv with seqs := insertKey s.kv.seqs i q } }
def State.setPage (s : State) (i : Nat) (p : PageDesc) : State := { s with kv := { s.kv with pages := insertKey s.kv.pages i p } }
def State.dropPage (s : State) (i : Nat) : State := { s with kv := { s.kv with pages := eraseKey s.kv.pages i } }

/-- KV_EVENT (R320, R321). -/
def State.kvEvent (s : State) (seq ev index : Nat) : State :=
  let w0 := pack [(seq, 43, 32), (ev, 7, 0)]
  if ev = 3 ∨ ev = 4 then s.eventLimited 0x7F0 ev seq 1 w0 0 else s.event 0x7F0 w0 (wd index)

/-- Tokens and pages counted in KV_NOPAGE (R311, R315). -/
def State.countNopage (s : State) : State :=
  { s with kv := { s.kv with nopage := sat32 (s.kv.nopage + 1), nopageTotal := sat32 (s.kv.nopageTotal + 1) } }

/-! ### Reference counts (R299 to R302) -/

/-- One more list names a page (R301). -/
def State.addRef (s : State) (seq i : Nat) : State :=
  let p := s.kv.page i
  if 65535 ≤ p.refs then (s.setPage i { p with pinned := true }).kvEvent seq 1 i
  else s.setPage i { p with refs := p.refs + 1 }

/-- One list fewer names a page: freed at 0, unless it is pinned (R301, R302). -/
def State.dropRef (s : State) (i : Nat) : State :=
  let p := s.kv.page i
  if p.pinned then s else if p.refs ≤ 1 then s.dropPage i else s.setPage i { p with refs := p.refs - 1 }

/-- Scan the lists for a pinned page that a message removed from one (R301). -/
def State.scanPinned (s : State) (seq i : Nat) : State :=
  if (s.kv.page i).pinned ∧ ¬ (s.kv.seqs.any fun q => q.2.list.contains i) then (s.dropPage i).kvEvent seq 2 i else s

/-- Remove entries of a list from a position's pages on; `scan` for the messages. -/
def State.cutList (s : State) (seq len : Nat) (scan : Bool) : State :=
  match s.kv.seq seq with
  | none => s
  | some q =>
    let sp := s.kv.spans q
    let gone := (sp.filter fun p => decide (len ≤ p.2.1)).map fun p => p.2.2
    let s := s.setSeq seq { q with length := len, list := (sp.filter fun p => decide (p.2.1 < len)).map fun p => p.2.2 }
    let s := gone.foldl State.dropRef s
    if scan then gone.foldl (fun s i => s.scanPinned seq i) s else s

/-! ### Messages (R319, R320) -/

/-- KV_SET_MODEL (R289). -/
def kvSetModel (c : Cmd) (s : State) : Ans :=
  let w := wAt c.words
  let kvh := bits (w 0) 53 48 + 1
  let qh := bits (w 0) 47 40 + 1
  let d := bits (w 0) 39 32
  checked [(0, qh % kvh = 0), (0, decide (1 ≤ d ∧ d ≤ 8)), (1, bits (w 1) 47 0 % 8 = 0), (2, bits (w 2) 47 0 % 4096 = 0),
    (3, (w 3).toNat % 4096 = 0), (4, bits (w 4) 47 0 % 4096 = 0), (5, (w 5).toNat % 4096 = 0)] <|
  ok { s with kv := { s.kv with
    pages := [], seqs := []
    model := some { layers := bits (w 0) 63 56 + 1, kvHeads := kvh, qHeads := qh, headDim := 32 * d, scaleVa := bits (w 1) 47 0
                    nearVa := bits (w 2) 47 0, nearBytes := (w 3).toNat, farVa := bits (w 4) 47 0, farBytes := (w 5).toNat } } }
def execKvSetModel (ch : Fin 33) (s : State) : Host.Outcome State Fault Refusal :=
  fin s (ansParts ++ [.kv]) (s.serve ch 0x700 6 kvSetModel)

/-- Entries reserved for the lists of KEEPER sequences (R295). -/
def Kv.reserved (k : Kv) : Nat := ((k.seqs.filter fun q => !q.2.mover).map fun q => q.2.cap).sum

/-- KV_SEQ_OPEN. -/
def kvSeqOpen (c : Cmd) (s : State) : Ans :=
  let w0 := wAt c.words 0
  let w1 := wAt c.words 1
  let va := bits (wAt c.words 2) 47 0
  let lo := bits w0 59 56
  let hi := bits w0 55 52
  let fmt := bits w0 51 48
  let mover := bit w0 44
  let i := bits w0 11 0
  let cap := bits w1 16 0 + 1
  checked [(0, decide (4 ≤ lo ∧ lo ≤ 12)), (0, decide (lo ≤ hi ∧ hi ≤ 12)), (0, fmt = 2 || fmt = 3 || fmt = 7),
    (1, bits w1 62 48 ≤ 16384), (1, cap ≤ 65536), (2, !mover || va % 64 = 0)] <|
  stateCheck (s.kv.seq i).isNone <|
  if ¬ mover ∧ 262144 < s.kv.reserved + cap then noResource else
  ok (s.setSeq i { mover := mover, fmt := fmt, logMin := lo, logMax := hi, window := bits w1 62 48, globals := [], length := 0
                   list := [], cap := cap, listVa := va, full := 0 })
def execKvSeqOpen (ch : Fin 33) (s : State) : Host.Outcome State Fault Refusal :=
  fin s (ansParts ++ [.kv]) (s.serve ch 0x701 3 kvSeqOpen)

/-- The entries of a list as they lie in memory (R294). -/
def entryBytes (l : List Nat) : List Byte := (l.map (leBytes 4)).flatten

/-- The list of a MOVER sequence has been written by another agent (R322.4). -/
def State.listSpoilt (s : State) (q : KvSeq) : Bool := q.mover && s.peek q.listVa (4 * q.list.length) != entryBytes q.list

/-- Sequences of which another agent has written a page or the list. -/
def State.seqsWritten (s : State) : List (Nat × KvSeq) :=
  s.kv.seqs.filter fun r => (r.2.list.any fun j => !s.pageClean j) || s.listSpoilt r.2

/-- Sequences with those that share a page with one of them, and so on. -/
def sharers (all : List (Nat × KvSeq)) : Nat → List (Nat × KvSeq) → List (Nat × KvSeq)
  | 0, qs => qs
  | fuel + 1, qs => sharers all fuel (all.filter fun r => qs.any fun q => q.1 == r.1 || r.2.list.any q.2.list.contains)

/-- A sequence whose pages or list are undefined (R322.4): one written, or one that shares its pages. -/
def State.seqUndef (s : State) (i : Nat) : Bool :=
  let w := s.seqsWritten
  !w.isEmpty && (sharers s.kv.seqs s.kv.seqs.length w).any (·.1 == i)

/-- Pools, lists and the default scale table, as runs of bytes. -/
def Kv.ownRuns (k : Kv) (m : KvModel) : List (List (Nat × Nat)) :=
  [[(m.nearVa, m.nearBytes)], [(m.farVa, m.farBytes)], [(m.scaleVa, 8 * m.layers)]] ++
  (k.seqs.filter fun q => q.2.mover).map fun q => [(q.2.listVa, 4 * q.2.cap)]

/-- KV_FORK (R299). -/
def kvFork (c : Cmd) (s : State) : Ans :=
  let w0 := wAt c.words 0
  let w1 := wAt c.words 1
  let va := bits (wAt c.words 2) 47 0
  let mover := bit w0 44
  let dst := bits w0 11 0
  let len := bits w1 52 32
  let cap := bits w1 16 0 + 1
  let lenOk := match s.kv.seq (bits w0 27 16), s.kv.seq dst with
    | some q, none => decide (len ≤ q.length)
    | _, _ => true
  checked [(1, cap ≤ 65536), (1, lenOk), (2, !mover || va % 64 = 0)] <|
  match s.kv.seq (bits w0 27 16), s.kv.seq dst with
  | some q, none =>
    let list := ((s.kv.spans q).filter fun p => decide (p.2.1 < len)).map fun p => p.2.2
    if (¬ mover ∧ 262144 < s.kv.reserved + cap) ∨ cap < list.length then noResource else
    let r := if mover then s.keeperWrite va (entryBytes list) else (true, s)
    if !r.1 then .ok (r.2, { status := 7 }) else
    let t := r.2.setSeq dst { q with mover := mover, length := len, list := list, cap := cap, listVa := va, full := 0 }
    ok (list.foldl (fun t i => t.addRef dst i) t)
  | _, _ => wrongState
def execKvFork (ch : Fin 33) (s : State) : Host.Outcome State Fault Refusal :=
  fin s (ansParts ++ [.kv, .mem, .cells, .faults]) (s.serve ch 0x702 3 kvFork)

/-- KV_RELEASE (R302). -/
def kvRelease (c : Cmd) (s : State) : Ans :=
  let i := bits (wAt c.words 0) 11 0
  stateCheck (s.kv.seq i).isSome <|
  let gone := match s.kv.seq i with
    | some q => q.list
    | none => []
  let t := { s with kv := { s.kv with seqs := eraseKey s.kv.seqs i } }
  let t := gone.foldl State.dropRef t
  ok (gone.foldl (fun t p => t.scanPinned i p) t)
def execKvRelease (ch : Fin 33) (s : State) : Host.Outcome State Fault Refusal :=
  fin s (ansParts ++ [.kv]) (s.serve ch 0x703 1 kvRelease)

/-- KV_TRUNCATE (R302). -/
def kvTruncate (c : Cmd) (s : State) : Ans :=
  let i := bits (wAt c.words 0) 11 0
  let len := bits (wAt c.words 1) 20 0
  match s.kv.seq i with
  | none => wrongState
  | some q => checked [(1, len ≤ q.length)] <| ok (s.cutList i len true)
def execKvTruncate (ch : Fin 33) (s : State) : Host.Outcome State Fault Refusal :=
  fin s (ansParts ++ [.kv]) (s.serve ch 0x704 2 kvTruncate)

/-- KV_SET_GLOBAL. -/
def kvSetGlobal (c : Cmd) (s : State) : Ans :=
  let n := bits (wAt c.words 0) 22 16
  let i := bits (wAt c.words 0) 11 0
  checked [(0, n ≤ 64)] <|
  match s.kv.seq i with
  | none => wrongState
  | some q =>
    match s.keeperRead (bits (wAt c.words 1) 47 0) (4 * n) with
    | (none, t) => .ok (t, { status := 7 })
    | (some bs, t) => ok (t.setSeq i { q with globals := codesOf 4 n bs })
def execKvSetGlobal (ch : Fin 33) (s : State) : Host.Outcome State Fault Refusal :=
  fin s (ansParts ++ [.kv, .mem, .faults]) (s.serve ch 0x705 2 kvSetGlobal)

/-- KV_GET_SEQ. -/
def kvGetSeq (c : Cmd) (s : State) : Ans :=
  match s.kv.seq (bits (wAt c.words 0) 11 0) with
  | none => wrongState
  | some q => okWith s [pack [(1, 63, 63), (b2n q.mover, 62, 62), (q.fmt, 59, 56), (q.globals.length, 54, 48), (q.window, 46, 32), (q.length, 20, 0)],
      pack [(q.list.length, 63, 32), ((q.list.filter fun i => (s.kv.page i).pinned).length, 16, 0)], wd q.full]
def execKvGetSeq (ch : Fin 33) (s : State) : Host.Outcome State Fault Refusal :=
  fin s ansParts (s.serve ch 0x706 1 kvGetSeq)

/-- KV_GET_PAGE. -/
def kvGetPage (c : Cmd) (s : State) : Ans :=
  match look s.kv.pages (bits (wAt c.words 0) 16 0) with
  | none => okWith s [0, 0]
  | some p => okWith s [pack [(1, 63, 63), (b2n p.pinned, 62, 62), (b2n p.near, 61, 61), (p.sizeLog, 59, 56), (p.fmt, 55, 52), (p.va, 47, 0)],
      pack [(p.refs, 63, 48)]]
def execKvGetPage (ch : Fin 33) (s : State) : Host.Outcome State Fault Refusal :=
  fin s ansParts (s.serve ch 0x707 1 kvGetPage)

/-- Free KiB of a pool. -/
def Kv.freeKib (k : Kv) (near : Bool) : Nat := match k.model with
  | none => 0
  | some m => ((if near then m.nearBytes else m.farBytes) - ((k.extents m near).map fun e => e.2).sum) / 1024

/-- KV_GET_STATUS. -/
def kvGetStatus (_ : Cmd) (s : State) : Ans :=
  let k := s.kv
  okWith s [pack [(k.seqs.length, 44, 32), (k.freeCount, 17, 0)], pack [(k.freeKib true, 63, 32), (k.freeKib false, 31, 0)],
    pack [(k.copiesTotal, 63, 32), (k.nopageTotal, 31, 0)]]
def execKvGetStatus (ch : Fin 33) (s : State) : Host.Outcome State Fault Refusal :=
  fin s ansParts (s.serve ch 0x708 0 kvGetStatus)

/-! ### PAGE_MOVE (R315) -/

/-- Move one page to a pool, if the pool has room. -/
def moveOne (near : Bool) (i : Nat) : TaskM Unit := do
  let s ← get
  let p := s.kv.page i
  match s.kv.model with
  | none => return ()
  | some m =>
    if p.near == near then return ()
    else
      match s.kv.fit m near (m.pageBytes p.sizeLog p.fmt) with
      | none => modify State.countNopage
      | some va =>
        let n := m.usedBytes p.sizeLog p.fmt
        let bs ← readM p.va n
        writeM va bs
        let clean := s.pageClean i
        modify fun s => (((s.setPage i { p with va := va, near := near }).notePage clean i).count 20 0x69 n).count 20 0x6A 1

/-- PAGE_MOVE. -/
def pageMoveTask (ws : List Word) : TaskM Unit := do
  let s ← get
  let lo := bits (wAt ws 1) 20 0
  let hi := bits (wAt ws 1) 52 32
  match s.kv.seq (bits (wAt ws 0) 43 32) with
  | none => return ()
  | some q =>
    let ps := (s.kv.spans q).filter fun p => decide (lo ≤ p.2.1 ∧ p.2.1 + 2 ^ (s.kv.page p.2.2).sizeLog ≤ hi + 1)
    ps.forM fun p => moveOne (bit (wAt ws 0) 0) p.2.2

end Sys2Proof.Machine
end

