-- ==== Sys2Proof/Machine/Attention.lean ====
section
/-! DEFINITION. The attention unit (R303 to R316): ATTEND, ATTEND_BWD, PAGE_MOVE. -/
namespace Sys2Proof.Machine

/-! ### Commands (R308, R309) -/

/-- Rows of an operand: address and distance in bytes. -/
structure Rows where
  va : Nat
  ld : Nat
  deriving DecidableEq, Repr

def rowsOf (w : Word) : Rows := { va := bits w 47 5 * 32, ld := bits w 63 48 * 32 }
def Rows.at_ (r : Rows) (t : Nat) : Nat := (r.va + t * r.ld) % 2 ^ 48

/-- Fields that ATTEND and ATTEND_BWD share. -/
structure AttCmd where
  row : Bool
  append : Bool
  stats : Bool
  causal : Bool
  rnd : Nat
  fq : Nat
  fo : Nat
  fkn : Nat
  layer : Nat
  gcount : Nat
  t : Nat
  scale : Num
  window : Nat
  tokVa : Nat
  q : Rows
  o : Rows
  kn : Rows
  vn : Rows
  statVa : Nat
  globalVa : Nat

def attOf (ws : List Word) : AttCmd :=
  let w := wAt ws 0
  { row := bit w 55, append := bit w 54, stats := bit w 53, causal := bit w 52, rnd := bits w 51 50, fq := bits w 49 46
    fo := bits w 45 42, fkn := bits w 41 38, layer := bits w 37 30, gcount := bits w 22 16, t := bits w 15 0
    scale := f32 (BitVec.ofNat 32 (bits (wAt ws 1) 63 32)), window := bits (wAt ws 1) 14 0, tokVa := bits (wAt ws 2) 47 3 * 8
    q := rowsOf (wAt ws 3), o := rowsOf (wAt ws 4), kn := rowsOf (wAt ws 5), vn := rowsOf (wAt ws 6)
    statVa := bits (wAt ws 7) 47 3 * 8, globalVa := bits (wAt ws 8) 47 2 * 4 }

/-- A token (R309). -/
structure Tok where
  idx : Nat
  segment : Nat
  seq : Nat
  append : Bool
  pos : Nat
  deriving DecidableEq, Repr

def tokOf (i : Nat) (w : Word) : Tok :=
  { idx := i, segment := bits w 63 48, seq := bits w 43 32, append := bit w 21, pos := bits w 20 0 }

def readToks (c : AttCmd) : TaskM (List Tok) := do
  let ws ← readWords c.tokVa c.t
  return ws.zipIdx.map fun w => tokOf w.2 w.1

/-- Bytes of an element of an operand format. -/
def attElem (f : Nat) : Nat := if f = 3 then 1 else if f = 8 then 4 else if f = 6 ∨ f = 7 then 2 else 4

/-- A command that R322.1 leaves undefined. -/
def AttCmd.bad (c : AttCmd) (bwd : Bool) (k : Kv) (toks : List Tok) : Bool :=
  let row := c.row || bwd
  !(c.fq = 6 || c.fq = 7) || (!bwd && !(c.fo = 6 || c.fo = 7 || c.fo = 8)) ||
  !(c.fkn = 6 || c.fkn = 7 || c.fkn = 8 || (row && c.fkn = 3)) || c.rnd = 3 ||
  (match k.model with
    | some m => decide (m.layers ≤ c.layer)
    | none => true) || c.t = 0 ||
  (!row && (toks.any (fun t => (k.seq t.seq).isNone) || toks.any fun t => toks.any fun u => t.segment == u.segment && t.seq != u.seq))

/-- The layer whose pages a command uses; one at or above LAYERS, which is undefined, uses the last (R322.1). -/
def AttCmd.pageLayer (c : AttCmd) (m : KvModel) : Nat := min c.layer (m.layers - 1)

/-- Tokens by the sequence or segment they belong to, cut into blocks of at most 16, by first token (R310). -/
def cutBlocks (key : Tok → Nat) : Nat → List Tok → List (List Tok)
  | 0, _ => []
  | _, [] => []
  | fuel + 1, t :: r =>
    let mine := (t :: r).filter fun u => key u == key t
    let b := mine.take 16
    b :: cutBlocks key fuel ((t :: r).filter fun u => !b.contains u)

/-! ### Arithmetic (R148, R312) -/

/-- The floating path over products: blocks of 32 (R148). -/
def floatPath : Nat → List Num → Num → Num
  | 0, _, a => a
  | n + 1, ps, a => if ps.isEmpty then a else floatPath n (ps.drop 32) (a.add32 (blockSum (ps.take 32)).r32)
def pathSum (ps : List Num) : Num := floatPath (ps.length / 32 + 1) ps .zero
def pathDot (a b : List Num) : Num := pathSum ((a.zip b).map fun p => p.1.mul_ p.2)

def exp2 (x : Num) : Num := vecFun 0x12 x.bits32

/-- The larger of two; NaN propagates. -/
def maxNan (a b : Num) : Num := if a = .nan ∨ b = .nan then .nan else a.max_ b

/-- Running statistics and output of a row. -/
structure RowState where
  m : Num := .inf true
  l : Num := .zero
  o : List Num

/-- One page or chunk: the visible keys and values of a head (R312). -/
def RowState.visit (r : RowState) (scale : Num) (q : List Num) (kv : List (List Num × List Num)) : RowState :=
  if kv.isEmpty then r else
  let s := kv.map fun p => (pathDot q p.1).mul32 scale
  let mn := maxNan r.m (s.foldl maxNan (.inf true))
  let c := if r.m = .inf true then .zero else exp2 (r.m.sub32 mn)
  let es := s.map fun x => exp2 (x.sub32 mn)
  { m := mn, l := (r.l.mul32 c).add32 (pathSum es)
    o := r.o.zipIdx.map fun o => (o.1.mul32 c).add32 (pathSum ((es.zip kv).map fun p => p.1.mul_ (p.2.2.getD o.2 .zero))) }

/-- The outputs of a row. -/
def RowState.out (r : RowState) : List Num := if Num.zero.lt r.l then r.o.map fun x => x.div32 r.l
  else if r.l = .nan then r.o.map fun _ => .nan else r.o.map fun _ => .zero

/-- Convert values with RND; stochastic rounding takes free random values, since the spec gives this unit no generator. -/
def convertFree (fmt rnd : Nat) (vs : List Num) : TaskM (List Byte) := do
  let s ← get
  let (k, s) := s.take (if rnd = 2 then vs.length else 0)
  set s
  return ((vs.zipIdx).map fun v => leBytes (attElem fmt) (encodeNum fmt 0 rnd (Config.freeNat (k + v.2) % 65536) v.1).code).flatten

/-- Elements of an operand row. -/
def readRowF (r : Rows) (fmt t n : Nat) : TaskM (List Num) := do
  let bs ← readM (r.at_ t) (n * attElem fmt)
  modify fun s => s.count 19 0x64 (n * attElem fmt)
  return (codesOf (attElem fmt) n bs).map (decodeNum fmt 0)

/-- Head h of a row. -/
def headOf (d h : Nat) (v : List Num) : List Num := (v.drop (h * d)).take d

/-! ### Appends (R300, R311) -/

/-- Write an entry of a sequence's list (R295). -/
def putEntry (seq n i : Nat) (q : KvSeq) : TaskM Unit := do
  if q.mover then writeM (q.listVa + 4 * n) (leBytes 4 i)
  modify fun s => s.setSeq seq { q with list := if n < q.list.length then q.list.set n i else q.list ++ [i] }

/-- A copy-on-write of a page of a sequence (R300): whether it could be made. -/
def copyPage (seq n start i : Nat) (q : KvSeq) : TaskM Bool := do
  let s ← get
  let p := s.kv.page i
  match s.kv.model, (if q.cap ≤ q.list.length then none else s.kv.alloc p.sizeLog p.fmt) with
  | some m, some (j, np) =>
    let rb := m.rowBytes p.fmt
    let len := (min q.length (start + 2 ^ p.sizeLog) - start) * rb
    (List.range m.layers).forM fun l => do
      writeM (m.keyVa np l) (← readM (m.keyVa p l) len)
      writeM (m.valVa np l) (← readM (m.valVa p l) len)
    writeM (m.scalesVa np) (← readM (m.scalesVa p) (8 * m.layers))
    modify fun s => (s.setPage j np).notePage (s.pageClean i) j
    putEntry seq n j q
    modify fun s =>
      let s := (s.dropRef i).count 19 0x62 1
      { s with kv := { s.kv with copies := sat32 (s.kv.copies + 1), copiesTotal := sat32 (s.kv.copiesTotal + 1) } }.count 20 0x69
        (2 * m.layers * len + 8 * m.layers)
    return true
  | _, _ => return false

/-- A new page at the end of a sequence's list (R291, R296): whether it could be made. -/
def newPage (seq pos : Nat) (q : KvSeq) : TaskM Bool := do
  let s ← get
  match s.kv.model, (if q.cap ≤ q.list.length then none else s.kv.alloc (q.sizeLogAt pos) q.fmt) with
  | some m, some (j, np) =>
    writeM (m.scalesVa np) (← readM m.scaleVa (8 * m.layers))
    modify fun s => (s.setPage j np).notePage true j
    putEntry seq q.list.length j q
    return true
  | _, _ => return false

/-- Bytes of stored elements: INT8 and FP8-E4M3 take one byte, BF16 two. -/
def pageBytesOf (fmt rnd : Nat) (vs : List Num) : TaskM (List Byte) := do
  let s ← get
  let (k, s) := s.take (if rnd = 2 then vs.length else 0)
  set s
  return ((vs.zipIdx).map fun v => leBytes (kvElem fmt) (encodeNum fmt 0 rnd (Config.freeNat (k + v.2) % 65536) v.1).code).flatten

/-- FP32 scales of a layer of a page: key and value. -/
def pageScales (m : KvModel) (p : PageDesc) (layer : Nat) : TaskM (Num × Num) := do
  let w ← readWords (m.scalesVa p + 8 * layer) 1
  return (f32 (BitVec.ofNat 32 (bits (wAt w 0) 31 0)), f32 (BitVec.ofNat 32 (bits (wAt w 0) 63 32)))

/-- Write a token's key and value into the page that holds its position. -/
def storeToken (c : AttCmd) (free : Bool) (m : KvModel) (t : Tok) (start i : Nat) : TaskM Unit := do
  let s ← get
  let p := s.kv.page i
  let n := m.kvHeads * m.headDim
  let (ks, vs) ← if p.fmt = 7 then pure (Num.zero, Num.zero) else pageScales m p (c.pageLayer m)
  let one := fun (rows : Rows) (scale : Num) (va : Nat) => (do
    let xs ← readRowF rows c.fkn t.idx n
    let bs ← pageBytesOf p.fmt c.rnd (if p.fmt = 7 then xs else xs.map fun x => x.div32 scale)
    putRun free (va + (t.pos - start) * m.rowBytes p.fmt) bs : TaskM Unit)
  onPage i do
    one c.kn ks (m.keyVa p (c.pageLayer m))
    one c.vn vs (m.valVa p (c.pageLayer m))
  modify fun s => s.count 19 0x61 1

/-- What the appends of a command have met: sequences without a further append, sequences whose values are undefined. -/
structure Appends where
  stopped : List Nat := []
  undef : List Nat := []

/-- An append finds no page (R311): the sequence ends at the token's position. -/
def noPage (a : Appends) (t : Tok) : TaskM Appends := do
  modify fun s => ((s.cutList t.seq t.pos false).countNopage).kvEvent t.seq 3 0
  return { a with stopped := t.seq :: a.stopped }

/-- An append that R322.2 leaves undefined: the sequence's pages and LENGTH are free. -/
def badAppend (a : Appends) (m : KvModel) (t : Tok) (q : KvSeq) : TaskM Appends := do
  let s ← get
  let (k, s) := s.take 1
  set (s.setSeq t.seq { q with length := Config.freeNat k % (s.kv.capacity q + 1) })
  q.list.forM fun i => do
    let s ← get
    let p := s.kv.page i
    putRun true p.va (List.replicate (m.usedBytes p.sizeLog p.fmt) 0)
    modify fun s => s.notePage false i
  return { a with undef := t.seq :: a.undef }

/-- One append token (R298, R300, R311). -/
def appendToken (c : AttCmd) (free : Bool) (m : KvModel) (a : Appends) (t : Tok) : TaskM Appends := do
  let s ← get
  match s.kv.seq t.seq with
  | none => return a
  | some q =>
    if a.stopped.contains t.seq then
      modify fun s => s.countNopage
      return a
    else if c.layer = 0 ∧ q.length = 1048576 then
      modify fun s => (s.setSeq t.seq { q with full := min (q.full + 1) (2 ^ 64 - 1) }).kvEvent t.seq 4 0
      return a
    else if (if c.layer = 0 then decide (t.pos ≠ q.length) else decide (q.length ≤ t.pos)) then badAppend a m t q
    else
      let ok ← match s.kv.spanAt q t.pos with
        | none => newPage t.seq t.pos q
        | some (n, start, i) => if 1 < (s.kv.page i).refs then copyPage t.seq n start i q else pure true
      if !ok then noPage a t
      else
        let s ← get
        match s.kv.seq t.seq with
        | none => return a
        | some q =>
          match s.kv.spanAt q t.pos with
          | none => return a
          | some (_, start, i) =>
            storeToken c free m t start i
            if c.layer = 0 then modify fun s => s.setSeq t.seq { q with length := t.pos + 1 }
            return a

def appendAll (c : AttCmd) (free : Bool) (m : KvModel) : List Tok → Appends → TaskM Appends
  | [], a => return a
  | t :: r, a => do
    let a ← appendToken c free m a t
    appendAll c free m r a

/-! ### Walks (R303, R310) -/

/-- Keys and values of a range of positions or tokens, by head. -/
structure Chunk where
  /-- position within a sequence, or number within a segment's tokens -/
  first : Nat
  keys : List (List Num)
  vals : List (List Num)

/-- A block of one sequence with its rows so far. -/
abbrev Block := List (Tok × List Num × List RowState)

/-- One page or chunk for a block: `vis` says whether a token sees an item. -/
def visitBlock (m : KvModel) (scale : Num) (vis : Tok → Nat → Bool) (ch : Chunk) (b : Block) : Block :=
  let items := (ch.keys.zip ch.vals).zipIdx
  b.map fun x =>
    let mine := items.filter fun i => vis x.1 (ch.first + i.2)
    (x.1, x.2.1, x.2.2.zipIdx.map fun r =>
      let g := r.2 * m.kvHeads / m.qHeads
      r.1.visit scale (headOf m.headDim r.2 x.2.1) (mine.map fun i => (headOf m.headDim g i.1.1, headOf m.headDim g i.1.2)))

/-- The lowest and highest item of a range that some token of a block sees. -/
def rangeOf (vis : Tok → Nat → Bool) (ts : List Tok) (start n : Nat) : Option (Nat × Nat) :=
  let seen := (List.range n).filter fun j => ts.any fun t => vis t (start + j)
  match seen.head?, seen.getLast? with
  | some a, some b => some (start + a, start + b)
  | _, _ => none

/-- Rows of a page's block from one position to another, dequantised (R291). -/
def pageRows (m : KvModel) (p : PageDesc) (base start lo hi : Nat) (scale : Num) : TaskM (List (List Num)) := do
  let rb := m.rowBytes p.fmt
  let n := m.kvHeads * m.headDim
  let bs ← readM (base + (lo - start) * rb) ((hi + 1 - lo) * rb)
  modify fun s => s.count 19 0x64 ((hi + 1 - lo) * rb)
  return (List.range (hi + 1 - lo)).map fun i =>
    (codesOf (kvElem p.fmt) n (bs.drop (i * rb))).map fun x =>
      let v := decodeNum p.fmt 0 x
      if p.fmt = 7 then v else v.mul32 scale

/-- The entries of a MOVER list from the n-th on that one burst of 64 bytes reads, not beyond LIST_CAP (R303). -/
def readBurst (q : KvSeq) (n : Nat) : TaskM (List Nat) := do
  let k := min 16 (q.cap - n)
  let bs ← readM (q.listVa + 4 * n) (4 * k)
  return (codesOf 4 k bs).map (· % 131072)

/-- Walk a sequence's list for a block (R303, R305). `burst` holds the entries read of a MOVER list: number of the first, and
their descriptor indices. -/
def walkPages (c : AttCmd) (m : KvModel) (q : KvSeq) : List (Nat × Nat × Nat) → Nat × List Nat → Block → TaskM Block
  | [], _, b => return b
  | (n, start, i) :: r, burst, b => do
    let s ← get
    let vis := fun (t : Tok) k => q.sees t.pos k
    match rangeOf vis (b.map fun x => x.1) start (min (2 ^ (s.kv.page i).sizeLog) (q.length - start)) with
    | none => walkPages c m q r burst b
    | some (lo, hi) =>
      let bursts : List (Nat × Nat) :=
        if !q.mover then [] else if burst.2.isEmpty then [(n, n)]
        else (List.range ((n - burst.1) / 16)).map fun k => (burst.1 + 16 * (k + 1), n)
      let burst ← bursts.foldlM (fun (_ : Nat × List Nat) k => do return (k.1, ← readBurst q k.1)) burst
      if q.mover then modify fun s => s.count 20 0x68 1
      let i := match burst.2[n - burst.1]? with
        | some j => if (look s.kv.pages j).isSome then j else i
        | none => i
      let p := s.kv.page i
      let (ks, vs) ← if p.fmt = 7 then pure (Num.zero, Num.zero) else pageScales m p (c.pageLayer m)
      let keys ← pageRows m p (m.keyVa p (c.pageLayer m)) start lo hi ks
      let vals ← pageRows m p (m.valVa p (c.pageLayer m)) start lo hi vs
      modify fun s => s.count 19 0x60 1
      walkPages c m q r burst (visitBlock m c.scale vis { first := lo, keys := keys, vals := vals } b)

/-- Visibility between tokens of a segment (R310). -/
def AttCmd.rowSees (c : AttCmd) (globals : List Nat) (i j : Tok) : Bool :=
  (!c.causal || decide (j.pos ≤ i.pos)) &&
  (c.window = 0 || decide (((i.pos : Int) - j.pos).natAbs < c.window) || globals.contains j.pos || globals.contains i.pos)

/-- Chunks of 64 tokens of a segment for a block (R310). -/
def walkChunks (c : AttCmd) (m : KvModel) (globals : List Nat) (mine : List Tok) : Nat → Nat → Block → TaskM Block
  | 0, _, b => return b
  | fuel + 1, start, b => do
    if mine.length ≤ start then return b
    else
      let vis := fun (t : Tok) k => match mine[k]? with
        | some u => c.rowSees globals t u
        | none => false
      match rangeOf vis (b.map fun x => x.1) start (min 64 (mine.length - start)) with
      | none => walkChunks c m globals mine fuel (start + 64) b
      | some (lo, hi) =>
        let ts := (mine.drop lo).take (hi + 1 - lo)
        let keys ← ts.mapM fun t => readRowF c.kn c.fkn t.idx (m.kvHeads * m.headDim)
        let vals ← ts.mapM fun t => readRowF c.vn c.fkn t.idx (m.kvHeads * m.headDim)
        modify fun s => s.count 19 0x60 1
        walkChunks c m globals mine fuel (start + 64) (visitBlock m c.scale vis { first := lo, keys := keys, vals := vals } b)

/-! ### ATTEND (R308 to R313) -/

/-- Write the outputs and statistics of a block; where they are undefined, free bytes. -/
def writeBlock (c : AttCmd) (m : KvModel) (free : Bool) : Block → TaskM Unit
  | [] => return ()
  | (t, _, rs) :: r => do
    let bs ← convertFree c.fo c.rnd (rs.map RowState.out).flatten
    putRun free (c.o.at_ t.idx) bs
    if c.stats then
      (rs.zipIdx).forM fun x => putRun free (c.statVa + 8 * (t.idx * m.qHeads + x.2))
        (wordBytes [pack [(x.1.m.bits32.toNat, 31, 0), (x.1.l.bits32.toNat, 63, 32)]])
    writeBlock c m free r

/-- One block: read its queries, walk, write. -/
def runBlock (c : AttCmd) (m : KvModel) (globals : List Nat) (toks : List Tok) (free : Bool) (undef : List Nat) (ts : List Tok) :
    TaskM Unit := do
  let b ← ts.mapM fun t => do
    let q ← readRowF c.q c.fq t.idx (m.qHeads * m.headDim)
    return (t, q, List.replicate m.qHeads ({ o := List.replicate m.headDim .zero } : RowState))
  let first := ts.headD (tokOf 0 0)
  let b ← if c.row then do
      let mine := toks.filter fun t => t.segment == first.segment
      walkChunks c m globals mine (mine.length / 64 + 1) 0 b
    else do
      let s ← get
      match s.kv.seq first.seq with
      | some q => walkPages c m q (s.kv.spans q) (0, []) b
      | none => pure b
  writeBlock c m (free || undef.contains first.seq || (!c.row && (← get).seqUndef first.seq)) b

/-- Runs of rows. -/
def Rows.runs (r : Rows) (t n : Nat) : List (Nat × Nat) := (List.range t).map fun i => (r.at_ i, n)

/-- Runs that any command reads: tokens, queries, keys, values, global positions. -/
def AttCmd.inputs (c : AttCmd) (m : KvModel) (bwd : Bool) : List (Nat × Nat) :=
  let n := m.kvHeads * m.headDim * attElem c.fkn
  [(c.tokVa, 8 * c.t)] ++ c.q.runs c.t (m.qHeads * m.headDim * attElem c.fq) ++
  (if c.row || bwd || c.append then c.kn.runs c.t n ++ c.vn.runs c.t n else []) ++
  (if c.row || bwd then [(c.globalVa, 4 * c.gcount)] else [])

def AttCmd.outputs (c : AttCmd) (m : KvModel) : List (Nat × Nat) :=
  c.o.runs c.t (m.qHeads * m.headDim * attElem c.fo) ++ (if c.stats then [(c.statVa, 8 * c.t * m.qHeads)] else [])

/-- Pools, lists, scale table or outputs overlap one another, an input of the command or a command list (R322.5). -/
def State.attMeet (s : State) (m : KvModel) (outs ins : List (Nat × Nat)) : Bool :=
  let own := s.kv.ownRuns m
  s.anyMeet (own ++ outs.map fun r => [r]) || s.meet (own.flatten ++ outs) (ins ++ s.listRuns)

/-- Pools, lists and the scale table that overlap another of them, or what a command writes or reads, or a command list, take free
values (R322.5). -/
def State.freeOwn (s : State) (m : KvModel) (outs ins : List (Nat × Nat)) : State :=
  let own := (s.kv.ownRuns m).zipIdx
  let hit := own.filter fun a => s.meet a.1 (outs ++ ins ++ s.listRuns) || own.any fun b => a.2 != b.2 && s.meet a.1 b.1
  s.freeAt (s.places (hit.map (·.1)).flatten)

/-- ATTEND. -/
def attendTask (ws : List Word) : TaskM Unit := do
  let c := attOf ws
  let toks ← readToks c
  let s ← get
  match s.kv.model with
  | none => return ()
  | some m =>
    let meets := s.attMeet m (c.outputs m) (c.inputs m false)
    let free := c.bad false s.kv toks || meets
    let mine := if c.append ∧ ¬ c.row then toks.filter (·.append) else []
    let a ← appendAll c free m mine {}
    let globals ← if c.row then do pure (codesOf 4 c.gcount (← readM c.globalVa (4 * c.gcount))) else pure []
    (cutBlocks (fun t => if c.row then t.segment else t.seq) (c.t + 1) toks).forM fun ts => runBlock c m globals toks free a.undef ts
    if meets then modify fun s => s.freeOwn m (c.outputs m) (c.inputs m false)

/-! ### ATTEND_BWD (R316) -/

/-- Gradients: dQ, dK and dV by token and element. -/
structure Grads where
  dq : Array (Array Num)
  dk : Array (Array Num)
  dv : Array (Array Num)

def addTo (a : Array (Array Num)) (t h d : Nat) (x : List Num) : Array (Array Num) :=
  a.modify t fun r => x.zipIdx.foldl (fun r v => r.modify (h * d + v.2) fun y => y.add32 v.1) r

/-- The format in which ATTEND_BWD reads O: R316 ignores FMT_O and gives none, so it is one of those of R308, freely (log entry
27). -/
def oFormat : Nat := 6 + Config.outFormat % 3

/-- What the backward pass has read of a token. -/
structure BwdRow where
  tok : Tok
  q : List Num
  k : List Num
  v : List Num
  d : List Num
  o : List Num
  stats : List Word

/-- One visible pair and head. -/
def pairGrad (c : AttCmd) (m : KvModel) (g : Grads) (i j : BwdRow) (h : Nat) : Grads :=
  let kh := h * m.kvHeads / m.qHeads
  let d := m.headDim
  let q := headOf d h i.q
  let do_ := headOf d h i.d
  let k := headOf d kh j.k
  let v := headOf d kh j.v
  let st := wAt i.stats h
  let s := (pathDot q k).mul32 c.scale
  let p := (exp2 (s.sub32 (f32 (BitVec.ofNat 32 (bits st 31 0))))).div32 (f32 (BitVec.ofNat 32 (bits st 63 32)))
  let dp := pathDot do_ v
  let row := pathDot do_ (headOf d h i.o)
  let ds := (p.mul32 (dp.sub32 row)).mul32 c.scale
  { dq := addTo g.dq i.tok.idx h d (k.map fun x => ds.mul32 x)
    dk := addTo g.dk j.tok.idx kh d (q.map fun x => ds.mul32 x)
    dv := addTo g.dv j.tok.idx kh d (do_.map fun x => p.mul32 x) }

/-- Write FP32 rows. -/
def writeGrad (free : Bool) (r : Rows) (a : Array (Array Num)) : TaskM Unit :=
  a.toList.zipIdx.forM fun x => putRun free (r.at_ x.2) ((x.1.toList.map fun v => leBytes 4 v.bits32.toNat).flatten)

/-- ATTEND_BWD: pairs by row token, then key token, then head, each ascending (log entry 27). -/
def attendBwdTask (ws : List Word) : TaskM Unit := do
  let c := attOf ws
  let dO := rowsOf (wAt ws 9)
  let toks ← readToks c
  let s ← get
  match s.kv.model with
  | none => return ()
  | some m =>
    let qn := m.qHeads * m.headDim
    let kn := m.kvHeads * m.headDim
    let outs := [(rowsOf (wAt ws 10), qn), (rowsOf (wAt ws 11), kn), (rowsOf (wAt ws 12), kn)]
    let runs := (outs.map fun o => o.1.runs c.t (4 * o.2)).flatten
    let ins := c.inputs m true ++ dO.runs c.t (4 * qn) ++ c.o.runs c.t (qn * attElem oFormat) ++ [(c.statVa, 8 * c.t * m.qHeads)]
    let meets := s.attMeet m runs ins
    let free := c.bad true s.kv toks || meets
    let zero := fun n => Array.replicate c.t (Array.replicate n Num.zero)
    let g0 : Grads := { dq := zero qn, dk := zero kn, dv := zero kn }
    let g ← do
      let globals := codesOf 4 c.gcount (← readM c.globalVa (4 * c.gcount))
      let rows ← toks.mapM fun t => do
        return { tok := t, q := ← readRowF c.q c.fq t.idx qn, k := ← readRowF c.kn c.fkn t.idx kn, v := ← readRowF c.vn c.fkn t.idx kn
                 d := ← readRowF dO 8 t.idx qn, o := ← readRowF c.o oFormat t.idx qn, stats := ← readWords (c.statVa + 8 * t.idx * m.qHeads) m.qHeads : BwdRow }
      pure (rows.foldl (fun g i => rows.foldl (fun g j =>
        if i.tok.segment = j.tok.segment ∧ c.rowSees globals i.tok j.tok then
          (List.range m.qHeads).foldl (fun g h => pairGrad c m g i j h) g
        else g) g) g0)
    writeGrad free (rowsOf (wAt ws 10)) g.dq
    writeGrad free (rowsOf (wAt ws 11)) g.dk
    writeGrad free (rowsOf (wAt ws 12)) g.dv
    if meets then modify fun s => s.freeOwn m runs ins

/-! ### The rows -/

/-- The OP values that the unit executes as NOP (R306). -/
def kvNopOp (op : Nat) : Bool := !([0x01, 0x80, 0x81, 0x82].contains op)

def State.kvCmd (s : State) (mine : Nat → Bool) (body : Launch → Nat → List Word → State → CmdEnd × State) : State :=
  s.runCmd 0x23 16 128 mine body

def execKvNop (s : State) : Host.Outcome State Fault Refusal := fin s unitParts (s.kvCmd kvNopOp bodyNop)
def execKvEnd (s : State) : Host.Outcome State Fault Refusal := fin s unitParts (s.kvCmd (· == 0x01) bodyEnd)
def execAttend (s : State) : Host.Outcome State Fault Refusal :=
  fin s (unitParts ++ [.kv, .cells]) (s.kvCmd (· == 0x80) fun _ _ ws => ofTask 0 (attendTask ws))
def execAttendBwd (s : State) : Host.Outcome State Fault Refusal :=
  fin s (unitParts ++ [.cells]) (s.kvCmd (· == 0x81) fun _ _ ws => ofTask 0 (attendBwdTask ws))
def execPageMove (s : State) : Host.Outcome State Fault Refusal :=
  fin s (unitParts ++ [.kv, .cells]) (s.kvCmd (· == 0x82) fun _ _ ws => ofTask 0 (pageMoveTask ws))

end Sys2Proof.Machine
end

