-- ==== Sys2Proof/Machine/Bar2.lean ====
section
/-! DEFINITION. Reads through BAR2 beside launches that run (R340 to R342, R346). -/
namespace Sys2Proof.Machine

/-- The rows that run commands of lists. -/
def listRows : List (State → Host.Outcome State Fault Refusal) :=
  ((List.finRange 16).map fun g =>
    [execTileNop g, execTileEnd g, execBarrier g, execRegWrite g, execRegRead g, execSetShape g, execSetScale g, execSetMisc g,
     execMatmul g, execVector g]).flatten ++
  [execXeNop, execXeEnd, execMove, execVxNop, execVxEnd, execFrameBegin, execDeskew, execRules, execFrameEnd, execNeighbours,
   execSvNop, execSvEnd, execSolve .never, execTrack .never, execKvNop, execKvEnd, execAttend, execAttendBwd, execPageMove]

/-- What the running launches write when their commands go on by themselves: notes, and the state that comes about. -/
def State.foreseeRound (s : State) : List (State → Host.Outcome State Fault Refusal) → List Use × State
  | [] => ([], s)
  | f :: r =>
    let t := match f s with
      | .next t => t
      | _ => s
    let x := t.foreseeRound r
    (t.mem.wrote ++ x.1, x.2)

/-- The writes that the running launches will make within some rounds of commands. -/
def State.foresee : Nat → State → List Use
  | 0, _ => []
  | fuel + 1, s =>
    if s.running.isEmpty then [] else
    let x := s.foreseeRound listRows
    x.1 ++ x.2.foresee fuel

/-- BAR2 data that are undefined: those of places that a launch running at the same time writes, before or after the read (R346.2).
What it writes after it is seen as far as its commands go on by themselves, 64 rounds of them (log entry 70). -/
def State.readBeside (s : State) (va : Nat) (bs : List Byte) : List Byte × State :=
  let later := (s.foresee 64).filter fun e => s.running.any (·.id == e.2.2)
  s.freeIn (usePlaces (s.live s.mem.wrote ++ later)) va bs

/-- BAR2_READ (R340 to R342, R346). -/
def execBar2Read (off : BitVec 34) (len : Nat) (s : State) : Host.Outcome State Fault Refusal :=
  let va := s.mem.bar2Va + off.toNat
  fin s (logParts ++ [.mem, .boot]) <| if !s.bar2Open then s.answerBus .unsupportedRequest else
  match (readM va len).go s.outsideLaunch with
  | (.ok bs, t) =>
    let (bs, u) := (s.backIn t).readBeside va bs
    u.answerBus (.bytes bs)
  | (.error _, t) => (s.backIn t).bar2Fault.answerBus .abort

end Sys2Proof.Machine
end

