-- ==== Sys2Proof/Machine/Dispatch.lean ====
section
/-! DEFINITION. One arm per command: its meaning, by name. -/
namespace Sys2Proof.Machine

/-- The effect of a command on everything but the queue. -/
def exec (i : Instr) (s : State) : Host.Outcome State Fault Refusal :=
  match i with
  | .powerOn => Sys2Proof.Machine.execPowerOn s
  | .resetNLow => Sys2Proof.Machine.execResetNLow s
  | .supplyMonitor r => Sys2Proof.Machine.execSupplyMonitor r s
  | .supplyRecovered => Sys2Proof.Machine.execSupplyRecovered s
  | .thermalTrip => Sys2Proof.Machine.execThermalTrip s
  | .thermTripRelease => Sys2Proof.Machine.execThermTripRelease s
  | .bootWatchdog => Sys2Proof.Machine.execBootWatchdog s
  | .keeperWatchdog m => Sys2Proof.Machine.execKeeperWatchdog m s
  | .keeperRequest => Sys2Proof.Machine.execKeeperRequest s
  | .pllLock d => Sys2Proof.Machine.execPllLock d s
  | .pllNoLock d => Sys2Proof.Machine.execPllNoLock d s
  | .clockDomainLoss d => Sys2Proof.Machine.execClockDomainLoss d s
  | .clockDomainRelock d => Sys2Proof.Machine.execClockDomainRelock d s
  | .relockTimeout d => Sys2Proof.Machine.execRelockTimeout d s
  | .memRewriteDone => Sys2Proof.Machine.execMemRewriteDone s
  | .optionLoadDone ohms lost => Sys2Proof.Machine.execOptionLoadDone ohms lost s
  | .keeperBootDone ext0 ext1 failed => Sys2Proof.Machine.execKeeperBootDone ext0 ext1 failed s
  | .flashTimeout r => Sys2Proof.Machine.execFlashTimeout r s
  | .chainBootImage part => Sys2Proof.Machine.execChainBootImage part s
  | .svcLinkReset => Sys2Proof.Machine.execSvcLinkReset s
  | .tlSnapTake w => Sys2Proof.Machine.execTlSnapTake w s
  | .iqPop p => Sys2Proof.Machine.execIqPop p s
  | .dropToStart q => Sys2Proof.Machine.execDropToStart q s
  | .iqDiscardedRead q => Sys2Proof.Machine.execIqDiscardedRead q s
  | .ttSatRead g => Sys2Proof.Machine.execTtSatRead g s
  | .ttNanRead g => Sys2Proof.Machine.execTtNanRead g s
  | .xeErrWrite v => Sys2Proof.Machine.execXeErrWrite v s
  | .xeOobReadRead => Sys2Proof.Machine.execXeOobReadRead s
  | .xeOobWriteRead => Sys2Proof.Machine.execXeOobWriteRead s
  | .svSatRead => Sys2Proof.Machine.execSvSatRead s
  | .svPivotRead => Sys2Proof.Machine.execSvPivotRead s
  | .svNarRead => Sys2Proof.Machine.execSvNarRead s
  | .svWarmRead => Sys2Proof.Machine.execSvWarmRead s
  | .kvCopiesRead => Sys2Proof.Machine.execKvCopiesRead s
  | .kvNopageRead => Sys2Proof.Machine.execKvNopageRead s
  | .mmEccCeRead => Sys2Proof.Machine.execMmEccCeRead s
  | .mmEccUeRead => Sys2Proof.Machine.execMmEccUeRead s
  | .pmSelWrite w v => Sys2Proof.Machine.execPmSelWrite w v s
  | .pmRingRdWrite w v => Sys2Proof.Machine.execPmRingRdWrite w v s
  | .ring ch chain => Sys2Proof.Machine.execRing ch chain s
  | .mbInboundWrite ch off wide v => Sys2Proof.Machine.execMbInboundWrite ch off wide v s
  | .mbChOutRdWrite ch v => Sys2Proof.Machine.execMbChOutRdWrite ch v s
  | .mbChStatusWrite ch v => Sys2Proof.Machine.execMbChStatusWrite ch v s
  | .mbChStatusRead ch => Sys2Proof.Machine.execMbChStatusRead ch s
  | .regWriteOther place bytes v => Sys2Proof.Machine.execRegWriteOther place bytes v s
  | .bar2Write off bs => Sys2Proof.Machine.execBar2Write off bs s
  | .bar2Read off len => Sys2Proof.Machine.execBar2Read off len s
  | .unsupported ch => Sys2Proof.Machine.execUnsupported ch s
  | .criserCompletion ch => Sys2Proof.Machine.execCriserCompletion ch s
  | .timeout ch => Sys2Proof.Machine.execTimeout ch s
  | .devGetInfo ch => Sys2Proof.Machine.execDevGetInfo ch s
  | .devGetState ch => Sys2Proof.Machine.execDevGetState ch s
  | .devArm ch => Sys2Proof.Machine.execDevArm ch s
  | .devRun ch => Sys2Proof.Machine.execDevRun ch s
  | .devDisarm ch => Sys2Proof.Machine.execDevDisarm ch s
  | .devStandby ch => Sys2Proof.Machine.execDevStandby ch s
  | .devReset ch => Sys2Proof.Machine.execDevReset ch s
  | .devSetNotify ch => Sys2Proof.Machine.execDevSetNotify ch s
  | .devSetTimeout ch => Sys2Proof.Machine.execDevSetTimeout ch s
  | .devEcho ch => Sys2Proof.Machine.execDevEcho ch s
  | .listSubmit ch => Sys2Proof.Machine.execListSubmit ch s
  | .timeGetStatus ch => Sys2Proof.Machine.execTimeGetStatus ch s
  | .timeSetSource ch => Sys2Proof.Machine.execTimeSetSource ch s
  | .timeSetServo ch => Sys2Proof.Machine.execTimeSetServo ch s
  | .timeStepForce ch => Sys2Proof.Machine.execTimeStepForce ch s
  | .timeGetEpoch ch => Sys2Proof.Machine.execTimeGetEpoch ch s
  | .ptpSetClock ch => Sys2Proof.Machine.execPtpSetClock ch s
  | .ptpSetPort ch => Sys2Proof.Machine.execPtpSetPort ch s
  | .ptpGetPort ch => Sys2Proof.Machine.execPtpGetPort ch s
  | .timeSetPps ch => Sys2Proof.Machine.execTimeSetPps ch s
  | .timePpsLabel ch => Sys2Proof.Machine.execTimePpsLabel ch s
  | .servoOffset => Sys2Proof.Machine.execServoOffset s
  | .holdoverEntered => Sys2Proof.Machine.execHoldoverEntered s
  | .stampInterrupt port tx event => Sys2Proof.Machine.execStampInterrupt port tx event s
  | .ptpSyncRx port h twoStep origin => Sys2Proof.Machine.execPtpSyncRx port h twoStep origin s
  | .ptpFollowUpRx port h origin => Sys2Proof.Machine.execPtpFollowUpRx port h origin s
  | .ptpDelayReqRx port h => Sys2Proof.Machine.execPtpDelayReqRx port h s
  | .ptpDelayRespRx port h r => Sys2Proof.Machine.execPtpDelayRespRx port h r s
  | .ptpAnnounceRx port a => Sys2Proof.Machine.execPtpAnnounceRx port a s
  | .ptpDiscardedRx port k => Sys2Proof.Machine.execPtpDiscardedRx port k s
  | .ptpSyncTx port => Sys2Proof.Machine.execPtpSyncTx port s
  | .ptpDelayReqTx port => Sys2Proof.Machine.execPtpDelayReqTx port s
  | .ptpAnnounceTx port => Sys2Proof.Machine.execPtpAnnounceTx port s
  | .ptpAnnounceTimeout port => Sys2Proof.Machine.execPtpAnnounceTimeout port s
  | .ppsInEdge phase => Sys2Proof.Machine.execPpsInEdge phase s
  | .ppsInLost => Sys2Proof.Machine.execPpsInLost s
  | .ppsOutRise => Sys2Proof.Machine.execPpsOutRise s
  | .ppsOutFall => Sys2Proof.Machine.execPpsOutFall s
  | .charLoad ch => Sys2Proof.Machine.execCharLoad ch s
  | .charStart ch => Sys2Proof.Machine.execCharStart ch s
  | .charStop ch => Sys2Proof.Machine.execCharStop ch s
  | .charGetStatus ch => Sys2Proof.Machine.execCharGetStatus ch s
  | .budgetSet ch => Sys2Proof.Machine.execBudgetSet ch s
  | .budgetSetShed ch => Sys2Proof.Machine.execBudgetSetShed ch s
  | .budgetGetStatus ch => Sys2Proof.Machine.execBudgetGetStatus ch s
  | .charPeriodStart idx => Sys2Proof.Machine.execCharPeriodStart idx s
  | .charPeriodEnd idx => Sys2Proof.Machine.execCharPeriodEnd idx s
  | .slotDueList idx e => Sys2Proof.Machine.execSlotDueList idx e s
  | .slotDueEgo idx e => Sys2Proof.Machine.execSlotDueEgo idx e s
  | .slotDueBeacon idx e => Sys2Proof.Machine.execSlotDueBeacon idx e s
  | .beaconFall pin => Sys2Proof.Machine.execBeaconFall pin s
  | .slotDueMark idx e => Sys2Proof.Machine.execSlotDueMark idx e s
  | .slotDueEmpty idx e => Sys2Proof.Machine.execSlotDueEmpty idx e s
  | .launchIssue => Sys2Proof.Machine.execLaunchIssue s
  | .launchStart target g => Sys2Proof.Machine.execLaunchStart target g s
  | .preemption target g => Sys2Proof.Machine.execPreemption target g s
  | .deadlineMissed id => Sys2Proof.Machine.execDeadlineMissed id s
  | .budgetWindow m => Sys2Proof.Machine.execBudgetWindow m s
  | .groupWake g => Sys2Proof.Machine.execGroupWake g s
  | .leaseExpired => Sys2Proof.Machine.execLeaseExpired s
  | .thermalWarn tj => Sys2Proof.Machine.execThermalWarn tj s
  | .thermalHot tj => Sys2Proof.Machine.execThermalHot tj s
  | .thermalNormal tj => Sys2Proof.Machine.execThermalNormal tj s
  | .stbEdge pin rising phase => Sys2Proof.Machine.execStbEdge pin rising phase s
  | .spiReadDone port bs => Sys2Proof.Machine.execSpiReadDone port bs s
  | .csiFrameStart port vc phase => Sys2Proof.Machine.execCsiFrameStart port vc phase s
  | .csiLongPacket port vc dt bs crcOk => Sys2Proof.Machine.execCsiLongPacket port vc dt bs crcOk s
  | .csiFrameEnd port vc => Sys2Proof.Machine.execCsiFrameEnd port vc s
  | .csiOtherPacket port k => Sys2Proof.Machine.execCsiOtherPacket port k s
  | .ethFrameRx port bs => Sys2Proof.Machine.execEthFrameRx port bs s
  | .ethLinkDown port => Sys2Proof.Machine.execEthLinkDown port s
  | .ethLinkUp port => Sys2Proof.Machine.execEthLinkUp port s
  | .canFrameRx c f => Sys2Proof.Machine.execCanFrameRx c f s
  | .canBusOff c => Sys2Proof.Machine.execCanBusOff c s
  | .canBusOffRecovery c => Sys2Proof.Machine.execCanBusOffRecovery c s
  | .canSync c => Sys2Proof.Machine.execCanSync c s
  | .canSyncTransmit c => Sys2Proof.Machine.execCanSyncTransmit c s
  | .sensorAbsent e => Sys2Proof.Machine.execSensorAbsent e s
  | .llSetEntry ch => Sys2Proof.Machine.execLlSetEntry ch s
  | .llGetEntry ch => Sys2Proof.Machine.execLlGetEntry ch s
  | .llGetStatus ch => Sys2Proof.Machine.execLlGetStatus ch s
  | .llMask ch => Sys2Proof.Machine.execLlMask ch s
  | .llUnmask ch => Sys2Proof.Machine.execLlUnmask ch s
  | .llSetTemplate ch => Sys2Proof.Machine.execLlSetTemplate ch s
  | .llSetEthPort ch => Sys2Proof.Machine.execLlSetEthPort ch s
  | .llSetCanPort ch => Sys2Proof.Machine.execLlSetCanPort ch s
  | .iqSetPool ch => Sys2Proof.Machine.execIqSetPool ch s
  | .iqSetQueue ch => Sys2Proof.Machine.execIqSetQueue ch s
  | .iqGetStatus ch => Sys2Proof.Machine.execIqGetStatus ch s
  | .tileNop g => Sys2Proof.Machine.execTileNop g s
  | .tileEnd g => Sys2Proof.Machine.execTileEnd g s
  | .barrier g => Sys2Proof.Machine.execBarrier g s
  | .regWrite g => Sys2Proof.Machine.execRegWrite g s
  | .regRead g => Sys2Proof.Machine.execRegRead g s
  | .setShape g => Sys2Proof.Machine.execSetShape g s
  | .setScale g => Sys2Proof.Machine.execSetScale g s
  | .setMisc g => Sys2Proof.Machine.execSetMisc g s
  | .matmul g => Sys2Proof.Machine.execMatmul g s
  | .vector g => Sys2Proof.Machine.execVector g s
  | .tileFault pos => Sys2Proof.Machine.execTileFault pos s
  | .knownAnswerTest u pass => Sys2Proof.Machine.execKnownAnswerTest u pass s
  | .katStarved u => Sys2Proof.Machine.execKatStarved u s
  | .xeNop => Sys2Proof.Machine.execXeNop s
  | .xeEnd => Sys2Proof.Machine.execXeEnd s
  | .move => Sys2Proof.Machine.execMove s
  | .tensorRequestRx pos a => Sys2Proof.Machine.execTensorRequestRx pos a s
  | .tensorResponseRx id r => Sys2Proof.Machine.execTensorResponseRx id r s
  | .tensorTimeout id => Sys2Proof.Machine.execTensorTimeout id s
  | .xeSetOwner ch => Sys2Proof.Machine.execXeSetOwner ch s
  | .xeClearOwner ch => Sys2Proof.Machine.execXeClearOwner ch s
  | .xeGetStatus ch => Sys2Proof.Machine.execXeGetStatus ch s
  | .vxNop => Sys2Proof.Machine.execVxNop s
  | .vxEnd => Sys2Proof.Machine.execVxEnd s
  | .frameBegin => Sys2Proof.Machine.execFrameBegin s
  | .deskew => Sys2Proof.Machine.execDeskew s
  | .rules => Sys2Proof.Machine.execRules s
  | .frameEnd => Sys2Proof.Machine.execFrameEnd s
  | .neighbours => Sys2Proof.Machine.execNeighbours s
  | .egoUpdate => Sys2Proof.Machine.execEgoUpdate s
  | .track cut => Sys2Proof.Machine.execTrack cut s
  | .egoSet ch => Sys2Proof.Machine.execEgoSet ch s
  | .egoReset ch => Sys2Proof.Machine.execEgoReset ch s
  | .egoGet ch => Sys2Proof.Machine.execEgoGet ch s
  | .btSet ch => Sys2Proof.Machine.execBtSet ch s
  | .btClear ch => Sys2Proof.Machine.execBtClear ch s
  | .btGetSensor ch => Sys2Proof.Machine.execBtGetSensor ch s
  | .svNop => Sys2Proof.Machine.execSvNop s
  | .svEnd => Sys2Proof.Machine.execSvEnd s
  | .solve cut => Sys2Proof.Machine.execSolve cut s
  | .asmEnd => Sys2Proof.Machine.execAsmEnd s
  | .ldx w => Sys2Proof.Machine.execLdx w s
  | .ldi w => Sys2Proof.Machine.execLdi w s
  | .ldh w => Sys2Proof.Machine.execLdh w s
  | .ldk w k => Sys2Proof.Machine.execLdk w k s
  | .add w => Sys2Proof.Machine.execAdd w s
  | .sub w => Sys2Proof.Machine.execSub w s
  | .mul w => Sys2Proof.Machine.execMul w s
  | .mac w => Sys2Proof.Machine.execMac w s
  | .sin w => Sys2Proof.Machine.execSin w s
  | .cos w => Sys2Proof.Machine.execCos w s
  | .recip w => Sys2Proof.Machine.execRecip w s
  | .rsqrt w => Sys2Proof.Machine.execRsqrt w s
  | .sta w => Sys2Proof.Machine.execSta w s
  | .stb w => Sys2Proof.Machine.execStb w s
  | .solverLaneFault lane => Sys2Proof.Machine.execSolverLaneFault lane s
  | .svGetStatus ch => Sys2Proof.Machine.execSvGetStatus ch s
  | .svSetReg ch => Sys2Proof.Machine.execSvSetReg ch s
  | .quietPoint => Sys2Proof.Machine.execQuietPoint s
  | .clEnable ch => Sys2Proof.Machine.execClEnable ch s
  | .clRestore ch => Sys2Proof.Machine.execClRestore ch s
  | .clSetChecks ch => Sys2Proof.Machine.execClSetChecks ch s
  | .clGetStatus ch => Sys2Proof.Machine.execClGetStatus ch s
  | .kvNop => Sys2Proof.Machine.execKvNop s
  | .kvEnd => Sys2Proof.Machine.execKvEnd s
  | .attend => Sys2Proof.Machine.execAttend s
  | .attendBwd => Sys2Proof.Machine.execAttendBwd s
  | .pageMove => Sys2Proof.Machine.execPageMove s
  | .kvSetModel ch => Sys2Proof.Machine.execKvSetModel ch s
  | .kvSeqOpen ch => Sys2Proof.Machine.execKvSeqOpen ch s
  | .kvFork ch => Sys2Proof.Machine.execKvFork ch s
  | .kvRelease ch => Sys2Proof.Machine.execKvRelease ch s
  | .kvTruncate ch => Sys2Proof.Machine.execKvTruncate ch s
  | .kvSetGlobal ch => Sys2Proof.Machine.execKvSetGlobal ch s
  | .kvGetSeq ch => Sys2Proof.Machine.execKvGetSeq ch s
  | .kvGetPage ch => Sys2Proof.Machine.execKvGetPage ch s
  | .kvGetStatus ch => Sys2Proof.Machine.execKvGetStatus ch s
  | .engineFault u => Sys2Proof.Machine.execEngineFault u s
  | .scrub t r => Sys2Proof.Machine.execScrub t r s
  | .bankSwitch bank => Sys2Proof.Machine.execBankSwitch bank s
  | .selfRefreshEntry c => Sys2Proof.Machine.execSelfRefreshEntry c s
  | .mmSetRegion ch => Sys2Proof.Machine.execMmSetRegion ch s
  | .mmClearRegion ch => Sys2Proof.Machine.execMmClearRegion ch s
  | .mmGetRegion ch => Sys2Proof.Machine.execMmGetRegion ch s
  | .mmSetBar2 ch => Sys2Proof.Machine.execMmSetBar2 ch s
  | .mmGetStatus ch => Sys2Proof.Machine.execMmGetStatus ch s
  | .keeperCoreFault p t => Sys2Proof.Machine.execKeeperCoreFault p t s
  | .lampChangerSwitch katOk => Sys2Proof.Machine.execLampChangerSwitch katOk s
  | .wearMonitor vid worn => Sys2Proof.Machine.execWearMonitor vid worn s
  | .fogEntry c => Sys2Proof.Machine.execFogEntry c s
  | .flGetLog ch => Sys2Proof.Machine.execFlGetLog ch s
  | .flGetSpares ch => Sys2Proof.Machine.execFlGetSpares ch s
  | .flClearLog ch => Sys2Proof.Machine.execFlClearLog ch s
  | .flTest ch => Sys2Proof.Machine.execFlTest ch s
  | .chainTrainingDone port t partner => Sys2Proof.Machine.execChainTrainingDone port t partner s
  | .laneSpared port l => Sys2Proof.Machine.execLaneSpared port l s
  | .retrained port ok => Sys2Proof.Machine.execRetrained port ok s
  | .linkUp port => Sys2Proof.Machine.execLinkUp port s
  | .flitReplay f => Sys2Proof.Machine.execFlitReplay f s
  | .chainTimeExchange => Sys2Proof.Machine.execChainTimeExchange s
  | .timeExchangeReply lag => Sys2Proof.Machine.execTimeExchangeReply lag s
  | .timeReplyRx t2 t3 flags stepped => Sys2Proof.Machine.execTimeReplyRx t2 t3 flags stepped s
  | .forwardedNote pos n => Sys2Proof.Machine.execForwardedNote pos n s
  | .cnGetStatus ch => Sys2Proof.Machine.execCnGetStatus ch s
  | .cnEnumerate ch e => Sys2Proof.Machine.execCnEnumerate ch e s
  | .cnForward ch reply => Sys2Proof.Machine.execCnForward ch reply s
  | .cnRetrain ch => Sys2Proof.Machine.execCnRetrain ch s
  | .cnSetNumber ch => Sys2Proof.Machine.execCnSetNumber ch s
  | .scInstall ch cycles => Sys2Proof.Machine.execScInstall ch cycles s
  | .scGetPackages ch => Sys2Proof.Machine.execScGetPackages ch s
  | .scUpdateFirmware ch cycles damage => Sys2Proof.Machine.execScUpdateFirmware ch cycles damage s
  | .scAttest ch => Sys2Proof.Machine.execScAttest ch s
  | .scRevokeRoot ch => Sys2Proof.Machine.execScRevokeRoot ch s
  | .scAdvanceRollback ch => Sys2Proof.Machine.execScAdvanceRollback ch s
  | .scGetStatus ch => Sys2Proof.Machine.execScGetStatus ch s
  | .pmSet ch => Sys2Proof.Machine.execPmSet ch s
  | .pmStart ch => Sys2Proof.Machine.execPmStart ch s
  | .pmStop ch => Sys2Proof.Machine.execPmStop ch s
  | .pmGetStatus ch => Sys2Proof.Machine.execPmGetStatus ch s
  | .collectorSnapshot => Sys2Proof.Machine.execCollectorSnapshot s
  | .sampleRecord idx skid => Sys2Proof.Machine.execSampleRecord idx skid s
  | .resetNRisingEdge => Sys2Proof.Machine.execResetNRisingEdge s
  | .servicePortLinkUp => Sys2Proof.Machine.execServicePortLinkUp s
  | .arrayCycleCount conds => Sys2Proof.Machine.execArrayCycleCount conds s
  | .charPeriodBegun idx => Sys2Proof.Machine.execCharPeriodBegun idx s

end Sys2Proof.Machine
end

