-- ==== Sys2Proof/Machine/Idle.lean ====
section
/-! DEFINITION. What the passing of one keeper cycle does by itself (log entry 1). -/
namespace Sys2Proof.Machine

/-- ARRAY_VID moves one step toward the code that the keeper wants, at most once in 100 µs (R465). -/
def Pins.moveVid (p : Pins) (now : Nat) : Pins :=
  if p.arrayVid = p.vidTarget ∨ now < p.vidAt + 100 * cycUs then p
  else { p with arrayVid := if p.arrayVid < p.vidTarget then p.arrayVid + 1 else p.arrayVid - 1, vidAt := now }

/-- An instant of the collector has come since the array edge before (R456): one step of the line over several counts once. -/
def State.instantDue (s : State) : Bool :=
  let d : Int := s.pm.intervalUs * (1000 * 281474976710656)
  match s.pm.edgeLine with
  | some x => decide (x / d < s.time.line / d)
  | none => decide ((s.time.line - 4 * s.time.rate) / d < s.time.line / d)

/-- At the first array edge at or after an instant of the collector, every counter of its list is latched (R456); while the
record of the snapshot before is unwritten, this one is skipped. -/
def State.latchSnap (s : State) : State :=
  if !s.arrayEdge then s else
  let p := { s.pm with edgeLine := some s.time.line }
  if !p.running || p.items.isEmpty || !s.instantDue then { s with pm := p }
  else if p.snap.isSome then
    { s with pm := { p with skipped := sat32 (p.skipped + 1), seq := (p.seq + 1) % 2 ^ 48 } }
  else { s with pm := { p with snap := some (s.time.counter / 4, s.now.words, p.items.map fun i =>
      let c := at_ p.ctr i {}
      pack [(b2n c.wrapped, 63, 63), (i, 57, 48), (c.value, 47, 0)]) } }

/-- The writes that fall in an array cycle, one to each queue: made by its end, after its reads (R120). -/
def State.queueWrites (s : State) : State :=
  if s.time.counter % 4 = 3 then (List.range 64).foldl State.writeDue s else s

/-- One keeper-clock edge: the counter counts, the time line advances, IN_BUSY clears, the words that have come are written to
the queues, and the collector latches what is due (R30, R31, R33, R120, R359, R456). ARRAY_VID moves while a keeper pair works (R438, R465). Without the CORE
domain there is no keeper clock, and only the time of the always-on domain goes on. -/
def idle (s : State) : State :=
  let s := { s with boot := { s.boot with aon := s.boot.aon + 1 } }
  if !(at_ s.boot.dom 0 {}).up then s else
  let s := s.queueWrites
  let now := (s.time.counter + 1) % 2 ^ 64
  State.latchSnap { s with
    time := { s.time with counter := now, line := s.time.line + s.time.rate }
    criser := { s.criser with ch := s.criser.ch.map fun (c : Channel) => { c with inBusy := false } }
    pins := if s.faults.keeperDead then s.pins else s.pins.moveVid now }

end Sys2Proof.Machine
end

