-- ==== Sys2Proof/Safety.lean ====
section
/-! DEFINITION. The terms in which claims are stated: what a command may change, how a command of the Criser protocol is
answered, how a unit runs a command of its list, the order of the device states, and what the fuses keep. -/
namespace Sys2Proof.Machine

/-! ### Frames -/

/-- A part of the state is the same in two states. -/
def Part.same : Part → State → State → Prop
  | .time, s, t => t.time = s.time
  | .ptp, s, t => t.ptp = s.ptp
  | .pps, s, t => t.pps = s.pps
  | .chars, s, t => t.chars = s.chars
  | .budget, s, t => t.budget = s.budget
  | .ll, s, t => t.ll = s.ll
  | .iq, s, t => t.iq = s.iq
  | .tiles, s, t => t.tiles = s.tiles
  | .layout, s, t => t.layout = s.layout
  | .cloud, s, t => t.cloud = s.cloud
  | .ego, s, t => t.ego = s.ego
  | .buoys, s, t => t.buoys = s.buoys
  | .solver, s, t => t.solver = s.solver
  | .calib, s, t => t.calib = s.calib
  | .kv, s, t => t.kv = s.kv
  | .mem, s, t => { t.mem with cells := [] } = { s.mem with cells := [] }
  | .cells, s, t => t.mem.cells = s.mem.cells
  | .criser, s, t => t.criser = s.criser
  | .devState, s, t => t.dev.state = s.dev.state ∧ t.dev.from_ = s.dev.from_ ∧ t.dev.since = s.dev.since
  | .dev, s, t => t.dev.fogPending = s.dev.fogPending ∧ t.dev.resetAt = s.dev.resetAt ∧ t.dev.launches = s.dev.launches ∧
      t.dev.issuedIn = s.dev.issuedIn ∧ t.dev.nextLaunch = s.dev.nextLaunch
  | .chain, s, t => t.chain = s.chain
  | .boot, s, t => { t.boot with otp := {} } = { s.boot with otp := {} }
  | .otp, s, t => t.boot.otp = s.boot.otp
  | .faults, s, t => t.faults = s.faults
  | .pm, s, t => t.pm = s.pm
  | .pins, s, t => t.pins = s.pins
  | .free, s, t => t.free = s.free

/-- Everything but the named parts is the same, and so is the queue of waiting commands. -/
def FrameOf (ps : List Part) (s t : State) : Prop := t.pending = s.pending ∧ ∀ p, p ∉ ps → p.same s t

/-- The parts of the state that a command may change. -/
def parts : Instr → List Part
  | .powerOn | .resetNLow | .supplyMonitor .. | .thermalTrip | .pllNoLock .. => resetParts
  | .svcLinkReset | .resetNRisingEdge => [.boot]
  | .servicePortLinkUp => [.boot, .free]
  | .thermTripRelease | .supplyRecovered => [.boot, .pins]
  | .bootWatchdog .. | .keeperWatchdog .. | .keeperRequest | .clockDomainLoss .. => resetParts ++ [.free]
  | .pllLock .. => [.devState, .boot]
  | .clockDomainRelock .. => [.mem, .cells, .devState, .chain, .boot, .faults]
  | .relockTimeout .. => logParts ++ [.boot]
  | .memRewriteDone => [.dev, .faults]
  | .optionLoadDone .. => [.devState, .chain, .boot, .free]
  | .keeperBootDone .. => unitParts ++ [.chars, .ll, .tiles, .layout, .solver, .cells, .devState, .boot]
  | .flashTimeout .. => noteParts ++ [.devState, .boot]
  | .chainBootImage .. => [.boot, .pm]
  | .tlSnapTake .. => [.time]
  | .iqPop .. | .dropToStart .. => logParts ++ [.iq, .mem]
  | .iqDiscardedRead .. => [.iq, .pins]
  | .ttSatRead .. | .ttNanRead .. => [.tiles, .pins]
  | .xeErrWrite .. => [.layout]
  | .xeOobReadRead | .xeOobWriteRead => [.layout, .pins]
  | .svSatRead | .svPivotRead | .svNarRead | .svWarmRead => [.solver, .pins]
  | .kvCopiesRead | .kvNopageRead => [.kv, .pins]
  | .mmEccCeRead | .mmEccUeRead => [.mem, .pins]
  | .pmSelWrite .. | .arrayCycleCount .. => [.pm]
  | .pmRingRdWrite .. | .bar2Write .. | .tensorRequestRx .. | .collectorSnapshot | .sampleRecord .. =>
    logParts ++ [.mem, .cells]
  | .ring .. | .timeout .. => noteParts
  | .mbInboundWrite .. | .mbChStatusWrite .. => [.criser]
  | .mbChOutRdWrite .. => [.criser, .free]
  | .mbChStatusRead .. => [.criser, .pins, .boot]
  | .regWriteOther .. => logParts ++ [.time, .iq, .layout, .mem, .cells, .boot]
  | .bar2Read .. => logParts ++ [.mem, .boot]
  | .unsupported .. | .devGetInfo .. | .devGetState .. | .devReset .. | .devSetNotify .. | .devSetTimeout ..
    | .devEcho .. | .listSubmit .. | .timeGetStatus .. | .timeGetEpoch .. | .ptpGetPort .. | .charGetStatus ..
    | .budgetGetStatus .. | .llGetEntry .. | .llGetStatus .. | .xeGetStatus .. | .egoGet .. | .btGetSensor ..
    | .svGetStatus .. | .kvGetSeq .. | .kvGetPage .. | .kvGetStatus .. | .mmGetRegion .. | .mmGetStatus ..
    | .flGetLog .. | .flGetSpares .. | .cnGetStatus .. | .cnEnumerate .. | .cnForward .. | .cnRetrain ..
    | .cnSetNumber .. | .scGetPackages .. | .scGetStatus .. | .pmSet .. | .pmStart .. | .pmGetStatus .. => ansParts
  | .criserCompletion .. | .scInstall .. | .scUpdateFirmware .. => ansParts ++ [.mem, .boot, .faults]
  | .devArm .. => ansParts ++ [.devState]
  | .devRun .. => ansParts ++ [.chars, .ll, .tiles, .mem, .devState]
  | .devDisarm .. => ansParts ++ [.chars, .devState]
  | .devStandby .. => ansParts ++ [.chars, .ll, .devState]
  | .timeSetServo .. => ansParts ++ [.time]
  | .timeSetSource .. => ansParts ++ [.time, .ptp]
  | .timeStepForce .. | .servoOffset => ansParts ++ [.time, .ptp, .chars, .ll]
  | .ptpSetClock .. | .ptpSetPort .. => ansParts ++ [.ptp]
  | .timeSetPps .. | .timePpsLabel .. => ansParts ++ [.pps]
  | .holdoverEntered => noteParts ++ [.time]
  | .stampInterrupt .. => [.ptp, .pm]
  | .ptpSyncRx .. | .ptpFollowUpRx .. => [.time, .ptp]
  | .ptpDelayReqRx .. | .ptpSyncTx .. | .ptpDelayReqTx .. | .ptpAnnounceTx .. => [.ptp, .pins]
  | .ptpDelayRespRx .. => [.ptp, .free]
  | .ptpAnnounceRx .. | .ptpAnnounceTimeout .. => noteParts ++ [.ptp]
  | .ptpDiscardedRx .. => []
  | .ppsInEdge .. => [.time, .pps]
  | .ppsInLost => noteParts ++ [.pps]
  | .ppsOutRise | .ppsOutFall => [.pps]
  | .charLoad .. => ansParts ++ [.chars, .budget, .mem, .faults]
  | .charStart .. | .charStop .. | .charPeriodEnd .. | .slotDueList .. | .slotDueEgo .. | .deadlineMissed .. =>
    ansParts ++ [.chars]
  | .budgetSet .. | .budgetSetShed .. => ansParts ++ [.budget]
  | .charPeriodStart .. | .slotDueEmpty .. | .charPeriodBegun .. => [.chars]
  | .slotDueBeacon .. => [.chars, .pins]
  | .beaconFall .. => [.pins]
  | .slotDueMark .. => noteParts ++ [.chars]
  | .launchIssue => ansParts ++ [.budget, .calib]
  | .launchStart .. => [.tiles, .dev, .pm]
  | .preemption .. => [.dev, .pm]
  | .budgetWindow .. => ansParts ++ [.budget, .tiles]
  | .groupWake .. => [.tiles]
  | .leaseExpired | .thermalWarn .. | .thermalHot .. | .thermalNormal .. => noteParts ++ [.budget]
  | .stbEdge .. | .spiReadDone .. | .csiFrameStart .. | .csiFrameEnd .. | .ethFrameRx .. | .canFrameRx .. =>
    logParts ++ [.ll, .iq]
  | .csiLongPacket .. => logParts ++ [.ll, .mem, .cells]
  | .csiOtherPacket .. | .canBusOffRecovery .. | .canSync .. => [.ll]
  | .ethLinkDown .. | .ethLinkUp .. | .canBusOff .. | .sensorAbsent .. => noteParts ++ [.ll]
  | .canSyncTransmit .. => [.ll, .pins]
  | .llSetEntry .. | .llUnmask .. => ansParts ++ [.ll, .buoys]
  | .llMask .. | .llSetEthPort .. | .llSetCanPort .. => ansParts ++ [.ll]
  | .llSetTemplate .. => ansParts ++ [.ll, .mem, .faults]
  | .iqSetPool .. | .iqSetQueue .. => ansParts ++ [.iq]
  | .iqGetStatus .. => ansParts ++ [.iq, .faults]
  | .tileNop .. | .tileEnd .. | .barrier .. | .xeNop | .xeEnd | .vxNop | .vxEnd | .svNop | .svEnd | .kvNop | .kvEnd =>
    unitParts
  | .regWrite .. => unitParts ++ [.time, .iq, .layout, .cells]
  | .regRead .. => unitParts ++ [.iq, .tiles, .layout, .solver, .kv, .cells]
  | .setShape .. | .setScale .. | .setMisc .. => unitParts ++ [.tiles]
  | .matmul .. | .vector .. => unitParts ++ [.tiles, .cells]
  | .tileFault .. => ansParts ++ [.budget, .calib, .faults]
  | .knownAnswerTest .. => ansParts ++ [.chars, .budget, .ll, .tiles, .layout, .solver, .calib, .devState, .faults]
  | .katStarved .. => logParts ++ [.tiles, .solver]
  | .move | .tensorResponseRx .. => unitParts ++ [.layout, .cells]
  | .tensorTimeout .. | .engineFault .. => ansParts ++ [.budget, .layout, .calib, .faults]
  | .xeSetOwner .. => ansParts ++ [.layout, .mem, .faults]
  | .xeClearOwner .. => ansParts ++ [.layout]
  | .frameBegin | .rules | .frameEnd => unitParts ++ [.cloud, .cells]
  | .deskew => unitParts ++ [.iq, .cloud, .cells]
  | .neighbours | .attendBwd => unitParts ++ [.cells]
  | .egoUpdate => unitParts ++ [.iq, .cloud, .ego, .buoys, .solver]
  | .track .. => unitParts ++ [.ll, .buoys, .solver, .cells]
  | .egoSet .. | .egoReset .. => ansParts ++ [.ego]
  | .btSet .. | .btClear .. => ansParts ++ [.buoys, .mem, .cells, .faults]
  | .solve .. => unitParts ++ [.solver, .cells]
  | .asmEnd | .ldk .. | .add .. | .sub .. | .mul .. | .mac .. | .sin .. | .cos .. | .recip .. | .rsqrt .. | .sta ..
    | .stb .. => [.solver]
  | .ldx .. => [.solver, .free]
  | .ldi .. | .ldh .. => logParts ++ [.solver, .mem]
  | .solverLaneFault .. => ansParts ++ [.chars, .ll, .layout, .devState, .faults]
  | .svSetReg .. => ansParts ++ [.solver]
  | .quietPoint => logParts ++ [.ll, .calib, .mem, .cells]
  | .clEnable .. | .clSetChecks .. => ansParts ++ [.calib, .mem, .cells, .faults]
  | .clRestore .. => ansParts ++ [.calib]
  | .clGetStatus .. => ansParts ++ [.mem, .faults]
  | .attend | .pageMove => unitParts ++ [.kv, .cells]
  | .kvSetModel .. | .kvSeqOpen .. | .kvRelease .. | .kvTruncate .. => ansParts ++ [.kv]
  | .kvFork .. => ansParts ++ [.kv, .mem, .cells, .faults]
  | .kvSetGlobal .. => ansParts ++ [.kv, .mem, .faults]
  | .scrub .. => ansParts ++ [.chars, .ll, .iq, .layout, .mem, .devState, .faults]
  | .bankSwitch .. | .keeperCoreFault .. | .wearMonitor .. | .laneSpared .. => logParts
  | .selfRefreshEntry .. => [.mem]
  | .mmSetRegion .. | .mmClearRegion .. | .mmSetBar2 .. => ansParts ++ [.mem]
  | .lampChangerSwitch .. | .flTest .. => ansParts ++ [.chars, .budget, .ll, .layout, .calib, .devState, .faults]
  | .fogEntry .. => ansParts ++ [.ll, .tiles, .mem, .devState]
  | .flClearLog .. => ansParts ++ [.faults]
  | .chainTrainingDone .. | .retrained .. | .forwardedNote .. => noteParts
  | .linkUp .. => [.chain]
  | .flitReplay .. => [.chain, .pm, .pins]
  | .chainTimeExchange | .timeExchangeReply .. => [.chain, .pm, .pins, .free]
  | .timeReplyRx .. => [.time, .chain, .pm, .free]
  | .scAttest .. => ansParts ++ [.boot, .otp]
  | .scRevokeRoot .. | .scAdvanceRollback .. => ansParts ++ [.otp]
  | .pmStop .. => ansParts ++ [.mem, .cells, .faults]

/-! ### Commands of the Criser protocol (ch. 14) -/

/-- A command of an opcode is the one that a channel begins now: it is the oldest accepted one, nothing goes before it
(R360, R363), the device state allows its opcode, and its payload has the length its table needs (R357). -/
structure State.Begins (s : State) (ch : Fin 33) (op need : Nat) (c : Cmd) : Prop where
  front : s.front ch.val = some c
  opcode : c.opcode = op
  kind : c.kind = 0
  allowed : s.allows op = true
  short : c.len ≤ 255
  enough : need ≤ c.len

/-- The state in which a command is applied: taken from its queue, its notifications held (R365). -/
def State.begun (s : State) (ch : Fin 33) : State :=
  { s.beginCmd ch.val with criser := { (s.beginCmd ch.val).criser with hold := some [] } }

/-- The completion of a command that was applied with the state `u` as its result. -/
def completionOf (s : State) (c : Cmd) (status : Nat) (resp : List Word) (wait : Wait) : Await :=
  { cmd := c, begunAt := s.boot.aon, status := BitVec.ofNat 8 status, arg := 0xFFFF, resp := resp
    wait := wait, counted := true }

/-- The state once the completion of a command is given, and after it the notifications that it held. -/
def State.answered (s u : State) (ch : Fin 33) (c : Cmd) (status : Nat) (resp : List Word) (wait : Wait) : State :=
  (u.release c).complete ch.val (completionOf s c status resp wait)

/-- A command that only answers: its next state is the one it began in, with the completion OK and the response given. -/
def Tells (i : Instr) (s : State) (ch : Fin 33) (c : Cmd) (resp : List Word) : Prop :=
  exec i s = .next (s.only (s.answered (s.begun ch) ch c 0 resp .room) ansParts)

/-- A command answers a next state of which `P` holds. -/
def Gives (i : Instr) (s : State) (P : State → Prop) : Prop := ∃ t, exec i s = .next t ∧ P t

/-- A command's next state is this one, as far as its frame reaches. -/
def Does (i : Instr) (s u : State) : Prop := exec i s = .next (s.only u (parts i))

/-- A command that acts: its effect makes the state `u` of the one it began in, and its completion is given in `u`, with the
notifications it caused after it. -/
def Makes (i : Instr) (s : State) (ch : Fin 33) (c : Cmd) (u : State) (resp : List Word := []) (status : Nat := 0)
    (wait : Wait := .room) : Prop :=
  Does i s (s.answered u ch c status resp wait)

/-- A command that acts: it answers a next state, in which the completion with this status and response is given to the
channel, and of which `P` holds. Of the protocol's own state nothing else has changed. -/
def Acts (i : Instr) (s : State) (ch : Fin 33) (c : Cmd) (P : State → Prop) (resp : List Word := []) (status : Nat := 0)
    (wait : Wait := .room) : Prop :=
  ∃ t u, exec i s = .next t ∧ t.criser = (s.answered u ch c status resp wait).criser ∧
    u.criser = { (s.begun ch).criser with hold := u.criser.hold, rate := u.criser.rate } ∧
    u.dev.state = t.dev.state ∧ u.time.counter = s.time.counter ∧ P t

/-- A command that is turned away: nothing changes but its channel, which gets the completion with a status and ARG_WORD. -/
def Refuses (i : Instr) (s : State) (ch : Fin 33) (c : Cmd) (status arg : Nat) : Prop :=
  exec i s = .next (s.only ((s.beginCmd ch.val).complete ch.val
    { completionOf s c status [] .room with arg := BitVec.ofNat 16 arg }) (parts i))

/-- The channel, opcode and number of listed payload words of a row that is a command of the index (R357, R371). -/
def messageOf : Instr → Option (Fin 33 × Nat × Nat)
  | .devGetInfo ch => some (ch, 0x000, 0) | .devGetState ch => some (ch, 0x001, 0) | .devArm ch => some (ch, 0x002, 0)
  | .devRun ch => some (ch, 0x003, 0) | .devDisarm ch => some (ch, 0x004, 0) | .devStandby ch => some (ch, 0x005, 0)
  | .devReset ch => some (ch, 0x006, 0) | .devSetNotify ch => some (ch, 0x007, 1)
  | .devSetTimeout ch => some (ch, 0x008, 2) | .devEcho ch => some (ch, 0x009, 0)
  | .listSubmit ch => some (ch, 0x010, 2) | .timeGetStatus ch => some (ch, 0x100, 0)
  | .timeSetSource ch => some (ch, 0x101, 1) | .timeSetServo ch => some (ch, 0x102, 3)
  | .timeStepForce ch => some (ch, 0x103, 3) | .timeGetEpoch ch => some (ch, 0x104, 0)
  | .ptpSetClock ch => some (ch, 0x110, 3) | .ptpSetPort ch => some (ch, 0x111, 4)
  | .ptpGetPort ch => some (ch, 0x112, 1) | .timeSetPps ch => some (ch, 0x120, 4)
  | .timePpsLabel ch => some (ch, 0x121, 1) | .charLoad ch => some (ch, 0x200, 2)
  | .charStart ch => some (ch, 0x201, 3) | .charStop ch => some (ch, 0x202, 1)
  | .charGetStatus ch => some (ch, 0x203, 1) | .budgetSet ch => some (ch, 0x210, 3)
  | .budgetSetShed ch => some (ch, 0x211, 1) | .budgetGetStatus ch => some (ch, 0x212, 0)
  | .llSetEntry ch => some (ch, 0x300, 7) | .llGetEntry ch => some (ch, 0x301, 1)
  | .llGetStatus ch => some (ch, 0x302, 1) | .llMask ch => some (ch, 0x303, 1) | .llUnmask ch => some (ch, 0x304, 1)
  | .llSetTemplate ch => some (ch, 0x310, 8) | .llSetEthPort ch => some (ch, 0x320, 3)
  | .llSetCanPort ch => some (ch, 0x321, 4) | .iqSetPool ch => some (ch, 0x330, 4)
  | .iqSetQueue ch => some (ch, 0x331, 4) | .iqGetStatus ch => some (ch, 0x332, 1) | .egoSet ch => some (ch, 0x420, 8)
  | .egoReset ch => some (ch, 0x421, 0) | .egoGet ch => some (ch, 0x422, 0) | .btSet ch => some (ch, 0x430, 9)
  | .btClear ch => some (ch, 0x431, 0) | .btGetSensor ch => some (ch, 0x432, 1) | .clEnable ch => some (ch, 0x440, 7)
  | .clRestore ch => some (ch, 0x441, 1) | .clSetChecks ch => some (ch, 0x442, 3)
  | .clGetStatus ch => some (ch, 0x443, 1) | .svGetStatus ch => some (ch, 0x500, 0)
  | .svSetReg ch => some (ch, 0x501, 3) | .xeSetOwner ch => some (ch, 0x640, 3)
  | .xeClearOwner ch => some (ch, 0x641, 1) | .xeGetStatus ch => some (ch, 0x642, 0)
  | .kvSetModel ch => some (ch, 0x700, 6) | .kvSeqOpen ch => some (ch, 0x701, 3) | .kvFork ch => some (ch, 0x702, 3)
  | .kvRelease ch => some (ch, 0x703, 1) | .kvTruncate ch => some (ch, 0x704, 2)
  | .kvSetGlobal ch => some (ch, 0x705, 2) | .kvGetSeq ch => some (ch, 0x706, 1)
  | .kvGetPage ch => some (ch, 0x707, 1) | .kvGetStatus ch => some (ch, 0x708, 0)
  | .mmSetRegion ch => some (ch, 0x800, 4) | .mmClearRegion ch => some (ch, 0x801, 1)
  | .mmGetRegion ch => some (ch, 0x802, 1) | .mmSetBar2 ch => some (ch, 0x810, 1)
  | .mmGetStatus ch => some (ch, 0x820, 0) | .cnGetStatus ch => some (ch, 0x900, 0)
  | .cnEnumerate ch (.answers _) => some (ch, 0x901, 0) | .cnForward ch _ => some (ch, 0x902, 2)
  | .cnRetrain ch => some (ch, 0x903, 1) | .cnSetNumber ch => some (ch, 0x904, 1)
  | .scInstall ch _ => some (ch, 0xA00, 2) | .scGetPackages ch => some (ch, 0xA01, 0)
  | .scUpdateFirmware ch _ _ => some (ch, 0xA02, 1) | .scAttest ch => some (ch, 0xA10, 4)
  | .scRevokeRoot ch => some (ch, 0xA20, 1) | .scAdvanceRollback ch => some (ch, 0xA21, 1)
  | .scGetStatus ch => some (ch, 0xA30, 0) | .flGetLog ch => some (ch, 0xB00, 1)
  | .flGetSpares ch => some (ch, 0xB01, 0) | .flClearLog ch => some (ch, 0xB02, 0) | .flTest ch => some (ch, 0xB03, 1)
  | .pmSet ch => some (ch, 0xC00, 2) | .pmStart ch => some (ch, 0xC01, 19) | .pmStop ch => some (ch, 0xC02, 0)
  | .pmGetStatus ch => some (ch, 0xC03, 0)
  | _ => none

/-! ### Commands of a unit's list -/

/-- The target code, sequencer and size of a command's words, of a row that is a command of a unit's list (R135, R142, R162, R183,
R248, R306). -/
def listRow : Instr → Option (Nat × Nat × Nat)
  | .tileNop g | .tileEnd g | .barrier g | .regWrite g | .regRead g | .setShape g | .setScale g | .setMisc g | .matmul g
    | .vector g => some (g.val, g.val, 32)
  | .xeNop | .xeEnd | .move => some (0x22, 16, 128)
  | .vxNop | .vxEnd | .frameBegin | .deskew | .rules | .frameEnd | .neighbours => some (0x20, 16, 128)
  | .svNop | .svEnd | .solve _ | .track _ => some (0x21, 16, 128)
  | .kvNop | .kvEnd | .attend | .attendBwd | .pageMove => some (0x23, 16, 128)
  | _ => none

/-- The unit runs a launch's list and stands at a command whose words it has read with LS, or that is in progress; `t` is the
state in which the command works: its memory is used by the launch (R161), and a command in progress sees the region table with
which it began (R339). -/
structure State.Runs (s t : State) (target group size op : Nat) (l : Launch) (ws : List Word) : Prop where
  running : s.runningAt target group = some l
  plain : l.ego = false
  fetched : (l.heldAt target group = none ∧
      ∃ v, (readWords (l.pcOf target group) (size / 8) .ls).go s = (.ok ws, v) ∧ t = v.byLaunch l.id) ∨
    ∃ h, l.heldAt target group = some h ∧ ws = h.words ∧
      t = { s with mem := { s.mem with regions := h.regions.getD s.mem.regions } }.byLaunch l.id
  opcode : bits (wAt ws 0) 63 56 = op

/-- What a command of a list has made of the state, once it no longer uses memory: the region table is that of the state it began
in. -/
def State.leaves (s u : State) : State := { u with mem := { u.mem with regions := s.mem.regions } }.byNone

/-- A command of a list completes with the effect `u`: the list goes on behind it (R136). -/
def Goes (i : Instr) (s : State) (l : Launch) (group size : Nat) (u : State) : Prop := Does i s ((s.leaves u).advance l.id group size)

/-- A command of a list has done `u` and is still in progress: it goes on with the words it was read as (R339). -/
def Holds (i : Instr) (s : State) (l : Launch) (target group : Nat) (ws : List Word) (u : State) : Prop :=
  Does i s ((s.leaves u).holdCmd l.id group ((l.heldAt target group).getD { words := ws }))

/-- A command of a list ends with a task fault in the state `u`: its run of the launch ends FAULTED and the keeper writes a
TASK entry with the command's address (R140, R174, R185, R265, R307). -/
def Breaks (i : Instr) (s : State) (l : Launch) (group pc detail : Nat) (u : State) : Prop :=
  Does i s ((s.leaves u).taskFault l.target.toNat group pc detail)

/-- A command of a list that only works over memory: it goes on with what its work did, and where an access of the work
faults it ends with a task fault. -/
def Works (i : Instr) (s t : State) (l : Launch) (group size pc : Nat) (x : TaskM Unit) (detail : Nat := 0) : Prop :=
  (∀ u, x.go t = (.ok (), u) → Goes i s l group size u) ∧ ∀ e u, x.go t = (.error e, u) → Breaks i s l group pc detail u

/-! ### The bytes that a command of a list may change -/

/-- A device address lies in one of some runs. -/
def inRuns (rs : List (Nat × Nat)) (a : Nat) : Prop := ∃ r ∈ rs, r.1 ≤ a ∧ a < r.1 + r.2

/-- The places of memory that may turn undefined beside a store of a launch: the ring of a collector that runs, where the store
meets it (R460.1), and what launches that run beside it have written, where they have read the place stored to (R161, R182). -/
def State.besides (s : State) : List (Nat × Nat) :=
  (if s.pm.running then s.places [(s.pm.ringVa, s.pm.ringBytes)] else []) ++
    usePlaces (s.mem.wrote.filter fun e => some e.2.2 != s.mem.who)

/-- Work over memory, whether it faults or not, changes no byte outside the places of some runs of virtual addresses, but for
those that turn undefined beside it. -/
def WritesOnly {α : Type} (x : TaskM α) (s : State) (rs : List (Nat × Nat)) : Prop :=
  ∀ a, ¬ inRuns (s.places rs) a → ¬ inRuns s.besides a → memGet (x.go s).2.mem.cells a = memGet s.mem.cells a

/-- Rows and columns of a matrix, as the runs of bytes in which they lie: whole bytes, of each plane of a planar one (R143,
R152). -/
def Mat.blockRuns (m : Mat) (r0 c0 nr nc : Nat) : List (Nat × Nat) :=
  ((List.range nr).map fun i =>
    if m.planar then (List.range (fmtWidth m.fmt)).map fun j => (m.rowAt j (r0 + i) + c0 / 8, (c0 % 8 + nc + 7) / 8)
    else [(m.elemAt (r0 + i) c0, nc * elemBytes m.fmt)]).flatten

/-! ### Units of the sensor ports (ch. 04, 05) -/

/-- The state after a unit of an ACTIVE entry with an enabled queue (R93, R110, R116): it counts in UNITS and SEQ and restarts
the wait for the next unit, and its words go into the queue. -/
def State.unitIn (s : State) (i : Nat) (u : Inst) (kind low : Nat) (data : List Word) : State :=
  let e := s.entry i
  (s.setEntry i { e with units := sat32 (e.units + 1), seq := e.seq + 1, lastUnitAt := s.time.counter }).writeUnit e.queue i
    (unitWords i kind e.seq.toNat low u data)

/-- An entry's units are written: it is ACTIVE and its queue is enabled (R110, R118). -/
def State.takesUnits (s : State) (i : Nat) : Prop :=
  i < 64 ∧ (s.entry i).state = .active ∧ (s.queue (s.entry i).queue).depthCode ≠ 0

/-! ### Device states (R366, R367) -/

/-- A change of the device state that the table of R367 has: a reset from any state, and the events it names. A warm reset
leaves DARK at once for OPTION_LOAD, and a boot without a solver lane goes on to FAULT_HALT at once. -/
def DevState.mayBecome : DevState → DevState → Bool
  | _, .dark | _, .optionLoad => true
  | .optionLoad, .keeperBoot => true
  | .keeperBoot, .standby | .keeperBoot, .faultHalt => true
  | .standby, .armed | .standby, .faultHalt => true
  | .armed, .running | .armed, .fog | .armed, .standby | .armed, .faultHalt => true
  | .running, .armed | .running, .fog | .running, .faultHalt => true
  | .fog, .armed | .fog, .faultHalt => true
  | a, b => a == b

/-! ### Resets (R389, R390) -/

/-- What a full reset with a cause leaves: fuses, boot flash and the repairs made in the LPDDR5X dies; all else starts anew, in
DARK. -/
structure FullReset (s t : State) (cause : Nat) : Prop where
  warm : t.boot.warm = false
  held : t.boot.heldDark = true ↔ s.boot.heldDark = true ∧ cause ≠ 1 ∧ cause ≠ 2
  code : t.boot.cause = s.boot.causeWith cause
  otp : t.boot.otp = s.boot.otp
  flash : t.boot.flash = s.boot.flash
  firmware : t.boot.fw = none
  closed : t.boot.linkUp = false
  device : t.dev = {}
  time : t.time = {} ∧ t.ptp = {} ∧ t.pps = {}
  lists : t.chars = ({} : State).chars ∧ t.budget = {} ∧ t.ll = {} ∧ t.iq = ({} : State).iq
  units : t.tiles = {} ∧ t.layout = {} ∧ t.cloud = {} ∧ t.ego = {} ∧ t.buoys = {} ∧ t.solver = {} ∧ t.calib = {} ∧ t.kv = {}
  protocol : t.criser = {} ∧ t.chain = {} ∧ t.pm = {}
  memory : t.mem = { cells := lpddrCells s.mem }
  faults : t.faults = { pprUsed := s.faults.pprUsed, pprHard := s.faults.pprHard }

/-- What a warm reset with a cause leaves besides: the time line and the counter run on, the clock domains stay up, LPDDR5X
keeps its contents, the fault log and the remap table stay. -/
structure WarmReset (s t : State) (cause : Nat) : Prop where
  code : t.boot.cause = s.boot.causeWith cause
  warm : t.boot.warm = true
  otp : t.boot.otp = s.boot.otp
  flash : t.boot.flash = s.boot.flash
  firmware : t.boot.fw = none
  domains : t.boot.dom = s.boot.dom
  device : t.dev = { state := .optionLoad }
  time : t.time.line = s.time.line ∧ t.time.counter = s.time.counter ∧ t.time.gen = s.time.gen ∧ t.time.source = .none
  settings : t.time.kp = 15 ∧ t.time.ki = 19 ∧ t.ptp = {} ∧ t.pps = {}
  lists : t.chars = ({} : State).chars ∧ t.budget = {} ∧ t.ll = {} ∧ t.iq = ({} : State).iq
  units : t.tiles = {} ∧ t.layout = {} ∧ t.cloud = {} ∧ t.ego = {} ∧ t.solver = {} ∧ t.calib = {} ∧ t.kv = {}
  protocol : t.criser = {} ∧ t.chain = {} ∧ t.pm = {}
  memory : t.mem.regions = [] ∧ t.mem.cells = lpddrCells s.mem
  log : t.faults = { log := s.faults.log, next := s.faults.next, overwrites := s.faults.overwrites, remap := s.faults.remap
                     pprUsed := s.faults.pprUsed, pprHard := s.faults.pprHard }
  buoys : t.buoys = { nextId := s.buoys.nextId, wrapped := s.buoys.wrapped }

/-! ### Fuses and attestation leaves (R404, R411 to R413, R417) -/

/-- No fuse of `o` is lost in `o'`. -/
def Otp.kept (o o' : Otp) : Prop :=
  o'.programmed = o.programmed ∧ o.revoked &&& o'.revoked = o.revoked ∧ o.rollback ≤ o'.rollback ∧ o.blocks ≤ o'.blocks ∧
  o'.serial = o.serial ∧ o'.part128 = o.part128 ∧ o'.keyHash = o.keyHash ∧ o'.trims = o.trims ∧ o'.repairs = o.repairs ∧
  o'.secrets = o.secrets

/-- The first LMS leaf that may still sign: leaves of a block left unused at a reset never sign (R417). -/
def State.leafBound (s : State) : Nat :=
  if s.boot.blockOpen then 1024 * (s.boot.otp.blocks - 1) + s.boot.nextLeaf else 1024 * s.boot.otp.blocks

/-- The counters of the fuses lie in their ranges, and an open block was burned. -/
def State.SecInv (s : State) : Prop :=
  s.boot.otp.rollback ≤ 64 ∧ s.boot.otp.blocks ≤ 1024 ∧ s.boot.nextLeaf ≤ 1024 ∧
  (s.boot.blockOpen = true → 1 ≤ s.boot.otp.blocks)

/-! ### Memory, rings and queues (R121, R360; the form of memory: log entry 65) -/

/-- An outbound ring holds at most its 256 words, unless a stray OUT_RD has been written (R360, R372.1). -/
def Channel.fits (c : Channel) : Prop := c.outRd < 512 ∧ (c.strayRd = true ∨ c.fill ≤ 256)

/-- Each ring of a queue keeps its last slot for a gap marker (R121): it is full only with an open one. Only an enabled queue
has pointers that an error can strike. -/
def Queue.fits (q : Queue) : Prop :=
  (∀ i : Fin 4, q.rings[i].words = [] ∨ q.rings[i].words.length < q.ringDepth ∨
    (q.rings[i].words.length = q.ringDepth ∧ q.rings[i].gapOpen = true)) ∧
  (q.ptrMismatch = true → q.depthCode ≠ 0)

/-- Memory keeps its canonical form, and no ring or queue holds more than it has room for. -/
def State.DataInv (s : State) : Prop :=
  memWf s.mem.cells = true ∧ (∀ q : Fin 64, s.iq[q].fits) ∧ ∀ i : Fin 33, s.criser.ch[i].fits

end Sys2Proof.Machine
end

