-- ==== Sys2Proof/Certificates/Slice0/Obligations.lean ====
section
/-! DEFINITION. The statements for the provers. Each docstring says what the statement claims and which rules it reads. -/
open Sys2Proof Sys2Proof.Machine

/-! ### The block as a whole -/

/-- A step with a command at the front of the queue is that command's effect, with the rest of the queue waiting (log
entry 1). -/
def Obligations.StepRunsTheFrontCommand : Prop :=
  ∀ (c : Instr) (rest : List Instr) (s : State),
    step { s with pending := c :: rest } = exec c { s with pending := rest }

/-- Every command answers a next state in every state, and of that state only the parts that `parts` names for the command
may differ from before: all the rest of the state, the queue included, is as it was. -/
def Obligations.EveryCommandKeepsItsFrame : Prop :=
  ∀ (c : Instr) (s : State), ∃ t, exec c s = .next t ∧ FrameOf (parts c) s t

/-- No step takes a fuse back, reuses an attestation leaf, or leaves the range of a fuse counter (R404, R412, R413, R417):
over every command, every reset and every idle cycle. -/
def Obligations.FusesAndLeavesNeverGoBack : Prop :=
  ∀ (s t : State), s.SecInv → step s = .next t →
    t.SecInv ∧ s.boot.otp.kept t.boot.otp ∧ s.leafBound ≤ t.leafBound

/-- No step breaks the form of memory or overfills a ring or a queue: over every command, every reset and every idle cycle the
cells of memory stay in their canonical form (rising addresses, none that reads as 0: log entry 65), each ring of an ingress queue
stays within its depth, the last slot being the gap marker's (R121), and each outbound ring of a channel holds at most 256 words
unless a stray OUT_RD has been written (R360, R372). -/
def Obligations.StepsKeepMemoryAndQueues : Prop :=
  ∀ (s t : State), s.DataInv → step s = .next t → t.DataInv

/-- The reset state meets the invariants of `FusesAndLeavesNeverGoBack` and of `StepsKeepMemoryAndQueues` (the part's fuses are the
model's choice, log entry 5, and so is what memory reads as, log entry 65). -/
def Obligations.ResetHasTheInvariants : Prop := State.reset.SecInv ∧ State.reset.DataInv

/-- Over every command the device state changes only as the table of R367 has it; FAULT_HALT in particular is left only by a
reset. A warm reset leaves DARK at once for OPTION_LOAD, which the table does not list as a change of its own (log entry 79,
DEDUCED). -/
def Obligations.DeviceStateFollowsItsTable : Prop :=
  ∀ (s t : State), step s = .next t → s.dev.state.mayBecome t.dev.state = true

/-- The reset values of R39, R41, R43, R49, R67, R77, R118, R159, R242, R274, R287, R390, R393, R419, R461 and R465: what
State.reset holds. The spec gives all of them but three of the model's: an empty queue of commands (log entry 1), no model
of the key-value cache (log entry 27) and no cell listed in memory (log entry 65). The values of log entries 4 and 5 are not
claimed here. -/
def Obligations.ResetValues : Prop :=
  let s := State.reset
  s.pending = [] ∧ s.dev.state = .dark ∧ s.boot.cause = 1 ∧ s.boot.warm = false ∧
  s.time.kp = 15 ∧ s.time.ki = 19 ∧ s.time.lockNs = 100 ∧ s.time.stepNs = 1000000 ∧ s.time.holdoverMs = 2000 ∧
  s.time.state = .free ∧ s.time.source = .none ∧ s.time.uptime = true ∧ s.ptp.clockClass = 248 ∧
  (∀ i : Fin 4, s.chars[i].state = .empty) ∧
  s.budget.mw = 75000 ∧ s.budget.cap = 20000 ∧ s.budget.leaseMs = 0 ∧ s.budget.fallback = 30000 ∧ s.budget.shedMax = 1 ∧
  (∀ q : Fin 64, s.iq[q].depthCode = 0) ∧ (∀ g : Fin 16, s.tiles.groups[g].gated = true) ∧
  (∀ p : Fin 64, s.tiles.gen[p] = BitVec.ofNat 32 (1 + p.val)) ∧
  s.ego.configured = false ∧ s.buoys.configured = false ∧ s.buoys.nextId = 1 ∧
  s.solver.trackReg = true ∧ s.solver.egoReg = true ∧ s.solver.trackEps = 16 ∧ s.solver.egoLambda = 16384 ∧
  s.calib.llCap = 96 ∧ s.calib.failN = 5 ∧ s.calib.passN = 10 ∧ s.kv.model = none ∧ s.mem.cells = [] ∧
  s.mem.regions = [] ∧ (∀ i : Fin 33, s.criser.ch[i].waitMs = 1000) ∧ s.pins.thermTripN = true ∧
  s.pins.arrayVid = 10 ∧ s.pm.running = false ∧ s.pins.bcn = 0 ∧ s.pins.heartbeat = false ∧ s.xoff = 0 ∧
  s.svcReady = false ∧ s.safeStopN = true ∧ s.fogN = true ∧ ∀ p : IfPin, s.pinRest p = some p.resetLevel

/-- One idle step is one keeper edge (log entry 1): while the CORE domain has its clock the counter counts modulo 2^64 (R30),
the time line advances by 51,200 units of 2^-16 ns, times 1 + F / 2^32 outside the uptime epoch (R31, R33), and every IN_BUSY
clears; at the last edge of an array cycle each queue writes the word that has come (R120, log entry 43), and nothing else
changes but ARRAY_VID (R465) and, in the collector's state, the line at the last array edge while it does not run. Without the
clock only the time of the always-on domain goes on. TL_SNAP_TAKE (R36): the four snapshot registers of the window take the
stamp of now; through BAR0 only while the link is up and the mailboxes are open (R352). TIME_GET_EPOCH, PTP_GET_PORT and
TIME_GET_STATUS answer what R59 lists, and change nothing but their channel. Completes: tlSnapTake, timeGetStatus,
timeGetEpoch, ptpGetPort. -/
def Obligations.EdgesAndTimeReads : Prop :=
  (∀ (s : State), s.pending = [] → ∃ t, step s = .next t ∧ t.boot = { s.boot with aon := s.boot.aon + 1 } ∧
    (s.boot.dom[0].up = false → FrameOf [.boot] s t) ∧
    (s.boot.dom[0].up = true → ∀ u, u = State.queueWrites { s with boot := t.boot } →
      (s.time.counter % 4 ≠ 3 → u = { s with boot := t.boot }) ∧
      t.time = { s.time with
        counter := (s.time.counter + 1) % 2 ^ 64
        line := s.time.line + 51200 * (2 ^ 32 + (if s.time.uptime then 0 else s.time.freq)) } ∧
      (∀ i : Fin 33, t.criser.ch[i] = { u.criser.ch[i] with inBusy := false }) ∧
      t.criser = { u.criser with ch := t.criser.ch } ∧
      (s.pm.running = false → t.pm = { u.pm with
        edgeLine := if t.time.counter % 4 = 0 then some t.time.line else u.pm.edgeLine }) ∧
      FrameOf [.time, .criser, .pins, .pm] u t)) ∧
  (∀ (s : State),
    exec (.tlSnapTake .list) s = .next { s with time := { s.time with snapList := s.now.snap } } ∧
    (s.boot.linkUp = true → s.mailOpen = true →
      exec (.tlSnapTake .bar0) s = .next { s with time := { s.time with snapBar0 := s.now.snap } }) ∧
    (s.boot.linkUp = false ∨ s.mailOpen = false → exec (.tlSnapTake .bar0) s = .next s) ∧
    s.now.snap.secLo.toNat + 2 ^ 32 * s.now.snap.secHi.toNat = s.now.stamp.w0.toNat ∧
    s.now.snap.ns.toNat = bits s.now.stamp.w1 31 0 ∧ s.now.snap.aux.toNat = 65536 * bits s.now.stamp.w1 47 32 + bits s.now.stamp.w1 63 48) ∧
  (∀ (s : State) (ch : Fin 33) (c : Cmd),
    (s.Begins ch 0x104 0 c → Tells (.timeGetEpoch ch) s ch c
      [s.time.acq.1.w0, s.time.acq.1.w1, s.time.acq.2.w0, s.time.acq.2.w1, s.time.step.1.w0, s.time.step.1.w1,
        s.time.step.2.w0, s.time.step.2.w1]) ∧
    (s.Begins ch 0x112 1 c → ∀ q, q = at_ s.ptp.ports (bits (wAt c.words 0) 1 0) {} → Tells (.ptpGetPort ch) s ch c
      [wd (q.stateNow s.time.counter).code, q.parent, wdI (q.pathDelay.getD 0), pack [(q.syncRx, 63, 32), (q.collisions, 31, 0)],
        pack [(b2n q.ptpTimescale, 17, 17), (b2n q.utcValid, 16, 16), (q.utcOffset.toNat, 15, 0)]]) ∧
    (s.Begins ch 0x100 0 c → ∀ path : Int,
      (s.time.source ≠ .ptp → path = 0) →
      (s.time.source = .ptp → ∀ i < 4, (s.ptpPort i).state = .slave → (∀ j < i, (s.ptpPort j).state ≠ .slave) →
        path = (s.ptpPort i).pathDelay.getD 0) →
      (s.time.source = .ptp → (∀ i < 4, (s.ptpPort i).state ≠ .slave) → path = 0) → Tells (.timeGetStatus ch) s ch c
      [pack [(s.time.state.code, 23, 20), (s.time.source.code, 19, 16), (s.time.flags.toNat, 15, 0)],
        wdI s.time.lastOffset, pack [(fld 32 s.time.freq, 31, 0)], wdI path,
        pack [(sat32 (s.ptp.ports.toList.foldl (fun a p => a + p.collisions) 0), 63, 32), (s.time.refused, 31, 0)],
        pack [(sat32 ((s.time.counter - s.time.lastAccepted) / cycMs), 63, 32), (s.time.accepted, 31, 0)]]))

/-! ### Memory (ch. 13) -/

/-- Cells: a byte written reads back, and no other byte changes, for every list of cells in the canonical form. A
unit's write at a place of memory stores its bytes there, and whatever the places that its check gave no byte of memory
outside them changes; places in the gather and scatter windows take nothing (R203, R204). Near SRAM lies at
0x40_0000_0000, 16 MiB a bank (R323, R325): bank, tier and row of an address there come back from the address of that
row's lowest byte. -/
def Obligations.MemoryReadsAndWrites : Prop :=
  (∀ (m : List Host.Cell) (a b : Nat) (v : Byte), memWf m = true →
    memGet (memSet m a v) b = if b = a then v else memGet m b) ∧
  ((∀ (da n k : Nat) (bs : List Byte) (s : State), memWf s.mem.cells = true → k < n → k < bs.length →
    memGet (s.writeAt [(da, n, .lpddr)] bs).mem.cells (da + k) = bs.getD k 0 ∧
    memGet (s.writeAt [(da, n, .near)] bs).mem.cells (da + k) = bs.getD k 0) ∧
  ∀ (ps : List (Nat × Nat × Place)) (bs : List Byte) (s : State), memWf s.mem.cells = true →
    ∀ a, (∀ p ∈ ps, p.2.2 = .gather ∨ p.2.2 = .scatter ∨ a < p.1 ∨ p.1 + p.2.1 ≤ a) →
      memGet (s.writeAt ps bs).mem.cells a = memGet s.mem.cells a) ∧
  (∀ (bank tier row : Nat), bank < 64 → tier < 4 → row < 4096 →
    place true (nearBase bank tier row) = .near ∧ nearOf (nearBase bank tier row) = (bank, tier, row))

/-! ### Time line, PTP and PPS (ch. 02) -/

/-- The time settings (R37, R39, R41, R54 to R56, R59): TIME_SET_SOURCE puts the source in force and, where it changes,
discards the samples that wait, a Sync without its Follow_Up and a chain exchange in progress among them; TIME_SET_SERVO the
gains and thresholds that lie in their ranges, TIME_SET_PPS the PPS settings, TIME_PPS_LABEL the next edge's label. A value out
of its range is BAD_ARG. (An output switched off while high falls at once: log entry 93; from when an input switched on is
watched for a loss: log entry 28.) TIME_STEP_FORCE (R41, R44, R45, R47, R48): the line steps by the signed value of w1 in units
of 2^-16 ns, or to the stamp given; GEN counts up, samples that wait and stamps of exchanges from before are discarded, clock
models follow, the holdover timeout runs anew, the step's stamps are kept and answered; at uptime it is the initial
acquisition, with which launches and slots move; an impossible number of nanoseconds is BAD_ARG. (A step to before second 0:
log entry 93; how a step of no whole number of 2^-16 ns moves a clock model: free, log entry 10.) PTP_SET_CLOCK and
PTP_SET_PORT (R49, R50, R59) take the values that lie in range, and values out of range are BAD_ARG; the ports start anew with
a new clock, and a port whose ENABLE changes does; that they then forget what they heard, their delay and their exchange is
presumed (log entry 12). Completes: timeSetSource, timeSetServo, timeStepForce, ptpSetClock, ptpSetPort, timeSetPps,
timePpsLabel. -/
def Obligations.TimeAndPtpSettings : Prop :=
  (∀ (s : State) (ch : Fin 33) (c : Cmd) (b : State), b = s.begun ch →
    (s.Begins ch 0x101 1 c → ∀ n, n = bits (wAt c.words 0) 3 0 →
      (n ≤ 3 → Makes (.timeSetSource ch) s ch c (b.setSource (sourceOf n))) ∧
      (3 < n → Refuses (.timeSetSource ch) s ch c 2 0)) ∧
    [0, 1, 2, 3].map sourceOf = [.none, .ptp, .ppsIn, .chainUp] ∧
    (∀ (v : State) src w, w = { v with time := { v.time with source := src } } →
      w.dropSamples = { w with
        time := { w.time with samples := [] }
        ptp := { w.ptp with ports := w.ptp.ports.map fun q => { q with sync := none } }
        chain := { w.chain with exch := w.chain.exch.map fun e => { e with stale := true } } } ∧
      (src = v.time.source → v.setSource src = v) ∧
      (src ≠ v.time.source →
        (v.time.state = .free → v.setSource src = { w with time := { w.time with state := .acquiring } }) ∧
        (v.time.state = .acquiring → src = .none → v.setSource src = { w with time := { w.time with state := .free } }) ∧
        (v.time.state = .acquiring → src ≠ .none → v.setSource src = w.dropSamples) ∧
        (v.time.state = .holdover → src = .none → v.setSource src = w) ∧
        (v.time.state = .settling ∨ v.time.state = .locked → src = .none → v.setSource src = w.dropSamples.enterHoldover) ∧
        (v.time.state = .settling ∨ v.time.state = .locked ∨ v.time.state = .holdover → src ≠ .none → v.setSource src =
          { w.dropSamples with time := { w.time with
            samples := [], disciplined := false, state := .settling, lockRun := 0, holdFrom := v.time.counter } }))) ∧
    (s.Begins ch 0x102 3 c → ∀ lock step hold ok, lock = bits (wAt c.words 1) 63 32 → step = bits (wAt c.words 1) 31 0 →
      hold = bits (wAt c.words 2) 31 0 →
      (ok = true ↔ 10 ≤ lock ∧ lock ≤ 1000000 ∧ lock ≤ step ∧ 1000 ≤ step ∧ step ≤ 1000000000) →
      (ok = true → 10 ≤ hold → hold ≤ 60000 → Makes (.timeSetServo ch) s ch c { b with time := { s.time with
        ki := bits (wAt c.words 0) 12 8, kp := bits (wAt c.words 0) 4 0, lockNs := lock, stepNs := step, holdoverMs := hold } }) ∧
      (ok = false → Refuses (.timeSetServo ch) s ch c 2 1) ∧
      (ok = true → hold < 10 ∨ 60000 < hold → Refuses (.timeSetServo ch) s ch c 2 2)) ∧
    (s.Begins ch 0x120 4 c → ∀ w width phase, w = wAt c.words 0 → width = bits (wAt c.words 1) 31 0 →
      phase = sgn 32 (bits (wAt c.words 2) 31 0) →
      (1000 ≤ width → width ≤ 500000000 → -500000000 ≤ phase → phase ≤ 500000000 → Makes (.timeSetPps ch) s ch c { b with
        pps := { s.pps with
          inEnable := bit w 8, outUptime := bit w 1, outEnable := bit w 0, outWidth := width, outPhase := phase
          inDelay := bits (wAt c.words 3) 31 0, lostFrom := if bit w 8 && !s.pps.inEnable then s.time.counter else s.pps.lostFrom
          lostSent := s.pps.lostSent && s.pps.inEnable, out := s.pps.out && bit w 0 } }) ∧
      (width < 1000 ∨ 500000000 < width → Refuses (.timeSetPps ch) s ch c 2 1) ∧
      (1000 ≤ width → width ≤ 500000000 → phase < -500000000 ∨ 500000000 < phase → Refuses (.timeSetPps ch) s ch c 2 2)) ∧
    (s.Begins ch 0x121 1 c → Makes (.timePpsLabel ch) s ch c
      { b with pps := { s.pps with label := some (wAt c.words 0).toNat } })) ∧
  (∀ (s : State) (ch : Fin 33) (c : Cmd) (b : State), s.Begins ch 0x103 3 c → b = s.begun ch →
    (bit (wAt c.words 0) 0 = false → 999999999 < bits (wAt c.words 2) 31 0 → Refuses (.timeStepForce ch) s ch c 2 2) ∧
    (∀ d u v, (bit (wAt c.words 0) 0 = true → d = (wAt c.words 1).toInt * 2 ^ 32) →
      (bit (wAt c.words 0) 0 = false → bits (wAt c.words 2) 31 0 ≤ 999999999 ∧
        d = (instOf (wAt c.words 1) (wAt c.words 2)).t * 2 ^ 32 - s.time.line) →
      (s.time.uptime = true → u = b.acquire d) →
      (s.time.uptime = false → u = { b.stepLine d with time := { (b.stepLine d).time with
        holdFrom := s.time.counter, lockRun := 0 } }) →
      v = { u with time := { u.time with step := (s.now.stamp, u.now.stamp) } } →
      Makes (.timeStepForce ch) s ch c (v.timeEvent 9 0)
        [s.now.stamp.w0, s.now.stamp.w1, u.now.stamp.w0, u.now.stamp.w1]) ∧
    (∀ (v : State) d, v.stepLine d = { v.dropSamples with
      time := { v.time with line := v.time.line + d, gen := v.time.gen + 1, samples := [] }
      ptp := { v.ptp with ports := v.ptp.ports.map fun q => { q with
        sync := none, lastSync := none, delayReq := none, stamp := q.stamp.map fun x => { x with stale := true } } }
      pm := { v.pm with edgeLine := v.pm.edgeLine.map fun x => min x (v.time.line + d - 1) }
      ll := { v.ll with entries := Vector.ofFn fun (i : Fin 64) =>
        v.ll.entries[i].stepModel (divFree v.free d (2 ^ 32)) (v.free + 1 + 2 * i.val) }
      free := v.free + 129 }) ∧
    (∀ (e : Entry) o k,
      (bits (at_ e.w 0 0) 51 50 ≠ 1 ∨ e.model.window = [] → e.stepModel o k = e) ∧
      (bits (at_ e.w 0 0) 51 50 = 1 → e.model.window ≠ [] → -2 ^ 63 ≤ e.model.offset + o → e.model.offset + o < 2 ^ 63 →
        e.stepModel o k = { e with model := { e.model with
          offset := e.model.offset + o, window := e.model.window.map fun p => (p.1, p.2 + o) } })) ∧
    (∀ (v : State) d w x, w = (v.stepLine d).shiftSlots d → x = { w with time := { w.time with
        uptime := false, state := .settling, lockRun := 0, holdFrom := v.time.counter } } →
      v.acquire d = State.timeEvent { x with time := { x.time with acq := (v.now.stamp, x.now.stamp) } } 1 0)) ∧
  (∀ (s : State) (ch : Fin 33) (c : Cmd) (b : State), b = s.begun ch →
    (∀ w0 w1 x y, s.Begins ch 0x110 3 c → w0 = wAt c.words 0 → w1 = wAt c.words 1 →
      (x = true ↔ bits w0 5 4 ≤ 1 ∧ bits w0 1 0 ≤ 2) →
      (y = true ↔ 2 ≤ bits w1 31 24 ∧ (-4 ≤ sgn 8 (bits w1 23 16) ∧ sgn 8 (bits w1 23 16) ≤ 5) ∧
        (-3 ≤ sgn 8 (bits w1 15 8) ∧ sgn 8 (bits w1 15 8) ≤ 4) ∧ (-4 ≤ sgn 8 (bits w1 7 0) ∧ sgn 8 (bits w1 7 0) ≤ 1)) →
      (x = false → Refuses (.ptpSetClock ch) s ch c 2 0) ∧
      (x = true → y = false → Refuses (.ptpSetClock ch) s ch c 2 1) ∧
      (x = true → y = true → ∀ p, p = { s.ptp with
          accuracy := BitVec.ofNat 8 (bits w0 47 40), clockClass := BitVec.ofNat 8 (bits w0 39 32)
          prio2 := BitVec.ofNat 8 (bits w0 31 24), prio1 := BitVec.ofNat 8 (bits w0 23 16)
          domain := BitVec.ofNat 8 (bits w0 15 8), transport := BitVec.ofNat 2 (bits w0 5 4), slaveOnly := bit w0 2
          role := BitVec.ofNat 2 (bits w0 1 0), announceTimeout := BitVec.ofNat 8 (bits w1 31 24)
          logDelayReq := BitVec.ofNat 8 (bits w1 23 16), logAnnounce := BitVec.ofNat 8 (bits w1 15 8)
          logSync := BitVec.ofNat 8 (bits w1 7 0), clockId := wAt c.words 2 } →
        Makes (.ptpSetClock ch) s ch c { b with ptp := { p with
          ports := p.ports.map fun q => { p.restart q with annFrom := s.time.counter } } })) ∧
    (s.Begins ch 0x111 4 c → ∀ i q r, i = bits (wAt c.words 0) 1 0 → q = s.ptpPort i →
      r = { q with
        enable := bit (wAt c.words 0) 8, egress := bits (wAt c.words 1) 63 32, ingress := bits (wAt c.words 1) 31 0
        asym := (wAt c.words 2).toInt, ipv4 := BitVec.ofNat 32 (bits (wAt c.words 3) 31 0) } →
      (r.enable = q.enable → Makes (.ptpSetPort ch) s ch c (b.setPtpPort i r)) ∧
      (r.enable ≠ q.enable → Makes (.ptpSetPort ch) s ch c
        (b.setPtpPort i { s.ptp.restart r with annFrom := s.time.counter }))) ∧
    (∀ (p : Ptp) q, p.restart q = { q with
      state := if p.role = 0 ∨ q.enable = false then .disabled else .listening, best := none, foreign := []
      parent := 0, parentPort := 0, pathDelay := none, sync := none, lastSync := none, delayReq := none
      sentAt := (none, none, none) }))

/-- The servo takes the oldest sample of the source in force (R37, R38, R41 to R43): FREE takes note of it, ACQUIRING steps to
it, and from LOCKED, SETTLING or HOLDOVER an offset within the step threshold moves F by the loop and counts as accepted, and
one beyond it is refused and leaves F; eight small ones in a row give LOCKED, one past four lock thresholds ends it. A sample
of another source is dropped. HOLDOVER is entered when the timeout has passed without an accepted offset. (An offset beyond 64
bits: log entry 93; that the acquisition counts in ACCEPTED and in the lock run: log entry 29.) PPS (R54 to R56, R479): an
enabled PPS_IN edge, not within 0.5 s of the last accepted one, is accepted, takes the label, and gives the servo one offset
where PPS_IN is the source; an early one only restarts the watch for a loss; a loss is reported by TIME_EVENT PPS_IN_LOST,
once; PPS_OUT rises on the whole second and falls after its width. (At which keeper edge PPS_OUT rises, the report once until a
new edge, and an ignored edge that ends the wait are log entry 28.) Completes: servoOffset, holdoverEntered, ppsInEdge,
ppsInLost, ppsOutRise, ppsOutFall. -/
def Obligations.ServoAndPps : Prop :=
  (∀ (s : State),
    (s.faults.keeperDead = true ∨ s.time.samples = [] → exec .servoOffset s = .next s) ∧
    (∀ p r u, s.time.samples = p :: r → s.faults.keeperDead = false → u = { s with time := { s.time with samples := r } } →
      (p.src ≠ s.time.source → Does .servoOffset s u) ∧
      (p.src = s.time.source → Does .servoOffset s (u.servo p.o))) ∧
    (∀ o n (u v w x : State), u = { s with time := { s.time with lastOffset := o } } →
      n = (fun t : Time => if o.natAbs ≤ t.lockNs * 65536 then t.lockRun + 1 else 0) →
      (s.time.state = .free → s.servo o = u) ∧
      (s.time.state = .acquiring → v = u.acquire (-o * 4294967296) → w = { v with time := { v.time with
          accepted := sat32 (v.time.accepted + 1), lastAccepted := v.time.counter, holdFrom := v.time.counter } } →
        s.servo o = { w with time := { w.time with lockRun := n w.time } }) ∧
      (s.time.state = .settling ∨ s.time.state = .locked ∨ s.time.state = .holdover →
        (s.time.stepNs * 65536 < o.natAbs → s.servo o = State.timeEvent { u with time := { u.time with
          refused := sat32 (s.time.refused + 1), lockRun := 0 } } 6 o) ∧
        (o.natAbs ≤ s.time.stepNs * 65536 → v = u.loop o → w = { v with time := { v.time with
            accepted := sat32 (v.time.accepted + 1), lastAccepted := v.time.counter, holdFrom := v.time.counter } } →
          (s.time.state = .settling → x = { w with time := { w.time with lockRun := n w.time } } →
            (x.time.lockRun < 8 → s.servo o = x) ∧
            (8 ≤ x.time.lockRun → s.servo o =
              State.timeEvent { x with time := { x.time with state := .locked, disciplined := true } } 2 0)) ∧
          (s.time.state = .locked →
            (o.natAbs ≤ 4 * s.time.lockNs * 65536 → s.servo o = w) ∧
            (4 * s.time.lockNs * 65536 < o.natAbs → s.servo o = State.timeEvent { w with time := { w.time with
              disciplined := false, state := .settling, holdFrom := w.time.counter
              lockRun := if o.natAbs ≤ w.time.lockNs * 65536 then 1 else 0 } } 3 o)) ∧
          (s.time.state = .holdover →
            (s.time.disciplined = true → s.servo o = State.timeEvent { w with time := { w.time with state := .locked } } 5 0) ∧
            (s.time.disciplined = false → s.servo o = State.timeEvent { w with time := { w.time with
              state := .settling, holdFrom := w.time.counter
              lockRun := if o.natAbs ≤ w.time.lockNs * 65536 then 1 else 0 } } 5 0))))) ∧
    (∀ o i f, i = s.time.iAcc - o / (2 ^ s.time.ki : Nat) → f = i - o / (2 ^ s.time.kp : Nat) →
      (f.natAbs ≤ 2147483 → s.loop o = { s with time := { s.time with iAcc := i, freq := f } }) ∧
      (2147483 < f.natAbs → s.loop o =
        State.timeEvent { s with time := { s.time with freq := if 0 < f then 2147483 else -2147483 } } 7 o)) ∧
    (s.time.state = .settling ∨ s.time.state = .locked →
      s.time.holdFrom + s.time.holdoverMs * cycMs ≤ s.time.counter → Does .holdoverEntered s s.enterHoldover) ∧
    (s.time.state = .free ∨ s.time.state = .acquiring ∨ s.time.state = .holdover ∨
      s.time.counter < s.time.holdFrom + s.time.holdoverMs * cycMs → exec .holdoverEntered s = .next s) ∧
    (∀ u, u = { s with time := { s.time with freq := clampF s.time.iAcc, state := .holdover } } →
      (s.time.iAcc.natAbs ≤ 2147483 → s.enterHoldover = u.timeEvent 4 0) ∧
      (2147483 < s.time.iAcc.natAbs → s.enterHoldover = (u.timeEvent 7 0).timeEvent 4 0))) ∧
  (∀ (s : State) (now : Nat), now = s.time.counter →
    (∀ phase, (s.pps.inEnable = false ∨ s.mailOpen = false → exec (.ppsInEdge phase) s = .next s) ∧
      (s.pps.inEnable = true → s.mailOpen = true → ∀ p, p = { s.pps with lostFrom := now, lostSent := false } →
        (∀ a, s.pps.lastAccepted = some a → now < a + 640000000 → Does (.ppsInEdge phase) s { s with pps := p }) ∧
        ((∀ a, s.pps.lastAccepted = some a → a + 640000000 ≤ now) →
          (s.pps.label = none → Does (.ppsInEdge phase) s { s with pps := { p with lastAccepted := some now } }) ∧
          (∀ l u, s.pps.label = some l →
            u = { s with pps := { p with lastAccepted := some now, label := some ((l + 1) % 2 ^ 64) } } →
            (s.time.source ≠ .ppsIn → Does (.ppsInEdge phase) s u) ∧
            (s.time.source = .ppsIn → Does (.ppsInEdge phase) s { u with time := { s.time with samples := s.time.samples ++
              [{ src := .ppsIn, o := s.time.now16 + phase.val * 6400 - s.pps.inDelay - l * sec16 }] } }))))) ∧
    (s.pps.inEnable = true → s.pps.lostSent = false → s.pps.lostFrom + 1920000000 ≤ now →
      Does .ppsInLost s (State.timeEvent { s with pps := { s.pps with lostSent := true } } 0x0A 0)) ∧
    (s.pps.inEnable = false ∨ s.pps.lostSent = true ∨ now < s.pps.lostFrom + 1920000000 → exec .ppsInLost s = .next s) ∧
    (∀ x, x = (s.time.line + s.pps.outPhase * 2 ^ 48) % sec48 →
      (s.pps.outEnable = true → s.pps.out = false → (s.time.uptime = false ∨ s.pps.outUptime = true) → x < s.time.rate →
        exec .ppsOutRise s = .next { s with pps := { s.pps with out := true, outRise := now } }) ∧
      (s.pps.outEnable = false ∨ s.pps.out = true ∨ (s.time.uptime = true ∧ s.pps.outUptime = false) ∨ s.time.rate ≤ x →
        exec .ppsOutRise s = .next s)) ∧
    (s.pps.out = true → s.pps.outWidth * 1280 ≤ (now - s.pps.outRise) * 1000 →
      exec .ppsOutFall s = .next { s with pps := { s.pps with out := false } }) ∧
    (s.pps.out = false ∨ (now - s.pps.outRise) * 1000 < s.pps.outWidth * 1280 → exec .ppsOutFall s = .next s))

/-- Stamps and received PTP messages (R49, R50, R52, R53, R59, R60, R430). A stamp is formed 24 keeper cycles back, with the
port's latency, and is late within 32 cycles of another of its pair; a Sync of the parent counts and, two-step, waits for its
Follow_Up; a Delay_Req at a MASTER port is answered with its receipt stamp; a Delay_Resp to the port's own request gives the
mean path delay, filtered, unless its frame was stamped late; an Announce is kept, gives the port its UTC fields, and the
algorithm decides: of two data sets each comparison is the other's reverse, and a port that has heard nothing listens on, or is
a master port. What was stamped before a step of the line gives no sample (R45). Messages that R49 discards, and those that do
not reach the port, change nothing. (The port states, the algorithm and the correction fields are those of IEEE 1588 as log
entry 12 presumes them, how the delay's divisions round is free by log entry 10, the filter's start and what SYNC_RX counts are
the choices of log entry 93.) Transmitted PTP messages (R49, R50, R53, R59): once its interval has passed, a MASTER port sends
Sync, with a Follow_Up that carries the Sync's stamp, and Announce; a port that follows a master sends Delay_Req with its
asymmetry taken off; each message takes the next sequence number of its kind, and the port's address where the transport is
UDP. ANNOUNCE_TIMEOUT announce intervals without the master make a port that waits for one forget it, and the algorithm
decides. Before that, in another state and with the ports down nothing is sent. (What is sent is recorded in `pins.sent`, log
entry 7; the intervals and states are read from IEEE 1588, log entry 12.) Completes: stampInterrupt, ptpSyncRx, ptpFollowUpRx,
ptpDelayReqRx, ptpDelayRespRx, ptpAnnounceRx, ptpDiscardedRx, ptpSyncTx, ptpDelayReqTx, ptpAnnounceTx, ptpAnnounceTimeout. -/
def Obligations.PtpMessages : Prop :=
  (∀ (s : State) (port : Fin 4) (h : PtpHdr) (i : Nat) (q : PtpPort), i = port.val → q = s.ptpPort i →
    (∀ tx ev, (s.portsUp = false → exec (.stampInterrupt port tx ev) s = .next s) ∧
      (s.portsUp = true → ∀ k late r u, k = s.stampPair i →
        (late = true ↔ s.pairAway k = true ∨ ∃ a, at_ s.ptp.pairLast k none = some a ∧ s.time.counter < a + 32) →
        r = { q with
          stamp := some { t := s.time.now16 - 24 * 51200 + (if tx then (q.egress : Int) else -q.ingress)
                          flags := s.now.flags, late := late, tx := tx }
          collisions := if ev && late then sat32 (q.collisions + 1) else q.collisions } → u = s.setPtpPort i r →
        (s.pairAway k = true → Does (.stampInterrupt port tx ev) s u) ∧
        (s.pairAway k = false → Does (.stampInterrupt port tx ev) s (State.count { u with ptp := { u.ptp with
          pairLast := put s.ptp.pairLast k (some s.time.counter) } } (29 + k) 0x85 1)))) ∧
    (s.ptpHears i h = true ↔ s.portsUp = true ∧ s.ptp.role ≠ 0 ∧ q.enable = true ∧ h.domain = s.ptp.domain ∧
      (h.udp = true ↔ s.ptp.transport = 1)) ∧
    (∀ two origin, (q.stamp = none ∨ s.ptpHears i h = false → exec (.ptpSyncRx port h two origin) s = .next s) ∧
      ∀ st, q.stamp = some st → (st.tx = true → exec (.ptpSyncRx port h two origin) s = .next s) ∧
      (st.tx = false → s.ptpHears i h = true → ∀ r u, r = { q with stamp := none, syncRx := sat32 (q.syncRx + 1) } →
        u = s.setPtpPort i r →
        (st.late = true ∨ st.stale = true ∨ q.follows = false ∨ h.srcId ≠ q.parent ∨ h.srcPort ≠ q.parentPort →
          Does (.ptpSyncRx port h two origin) s u) ∧
        (st.late = false → st.stale = false → q.follows = true → h.srcId = q.parent → h.srcPort = q.parentPort →
          (two = true → Does (.ptpSyncRx port h two origin) s (u.setPtpPort i { r with
            sync := some { seq := h.seq, t2 := st.t, corr := h.corr.toInt + q.asym } })) ∧
          (two = false → Does (.ptpSyncRx port h two origin) s
            (u.syncDone i (ptpT16 origin + (h.corr.toInt + q.asym)) st.t))))) ∧
    (∀ origin, (q.sync = none ∨ s.ptpHears i h = false → exec (.ptpFollowUpRx port h origin) s = .next s) ∧
      ∀ p, q.sync = some p →
        (h.seq ≠ p.seq ∨ h.srcId ≠ q.parent ∨ h.srcPort ≠ q.parentPort → exec (.ptpFollowUpRx port h origin) s = .next s) ∧
        (s.ptpHears i h = true → h.seq = p.seq → h.srcId = q.parent → h.srcPort = q.parentPort →
          Does (.ptpFollowUpRx port h origin) s (s.syncDone i (ptpT16 origin + h.corr.toInt + p.corr) p.t2))) ∧
    (∀ t1 t2 u, u = s.setPtpPort i { q with sync := none, lastSync := some (t1, t2) } →
      (q.pathDelay = none ∨ s.time.source ≠ .ptp → s.syncDone i t1 t2 = u) ∧
      (∀ d, q.pathDelay = some d → s.time.source = .ptp → s.syncDone i t1 t2 =
        { u with time := { s.time with samples := s.time.samples ++ [{ src := .ptp, o := t2 - t1 - d }] } })) ∧
    ((q.stamp = none ∨ s.ptpHears i h = false → exec (.ptpDelayReqRx port h) s = .next s) ∧
      ∀ st u, q.stamp = some st → u = s.setPtpPort i { q with stamp := none } →
        (st.tx = true → exec (.ptpDelayReqRx port h) s = .next s) ∧
        (st.tx = false → s.ptpHears i h = true →
          (st.late = true ∨ q.stateNow s.time.counter ≠ .master → Does (.ptpDelayReqRx port h) s u) ∧
          (st.late = false → q.stateNow s.time.counter = .master → Does (.ptpDelayReqRx port h) s { u with pins := { s.pins with
            sent := s.pins.sent ++ [.ptp i (s.ptpIp q) 9 h.seq [st.t, h.corr.toInt, h.srcId.toNat, h.srcPort.toNat]] } }))) ∧
    (∀ t4 id n y, y = DelayResp.mk t4 id n → (q.stamp = none ∨ s.ptpHears i h = false → exec (.ptpDelayRespRx port h y) s = .next s) ∧
      ∀ st r u, q.stamp = some st → r = { q with stamp := none } → u = s.setPtpPort i r →
        (st.tx = true → exec (.ptpDelayRespRx port h y) s = .next s) ∧
        (st.tx = false → s.ptpHears i h = true →
          (st.late = true ∨ q.follows = false ∨ h.srcId ≠ q.parent ∨ h.srcPort ≠ q.parentPort ∨ id ≠ s.clockId ∨
            n.toNat ≠ i + 1 ∨ q.delayReq = none ∨ q.lastSync = none → Does (.ptpDelayRespRx port h y) s u) ∧
          (∀ seq t1 t2 t3, st.late = false → q.follows = true → h.srcId = q.parent → h.srcPort = q.parentPort →
            id = s.clockId → n.toNat = i + 1 → q.delayReq = some (seq, t3) → q.lastSync = some (t1, t2) →
            (h.seq ≠ seq → Does (.ptpDelayRespRx port h y) s u) ∧
            (h.seq = seq → ∀ d, d = divFree s.free ((t2 - t1) + (ptpT16 t4 - t3 - h.corr.toInt)) 2 →
              Does (.ptpDelayRespRx port h y) s (State.setPtpPort { u with free := s.free + 2 } i { r with
                delayReq := none, pathDelay := some (filterDelay (s.free + 1) q.pathDelay d), state := .slave }))))) ∧
    (∀ k d f, filterDelay k none d = d ∧ filterDelay k (some f) d = f + divFree k (d - f) 16) ∧
    (∀ a, a.hdr = h →
      (s.ptpHears i h = false ∨ h.srcId = s.clockId ∨ q.state = .disabled → exec (.ptpAnnounceRx port a) s = .next s) ∧
      (s.ptpHears i h = true → h.srcId ≠ s.clockId → q.state ≠ .disabled → ∀ r x y,
        r = { q with ptpTimescale := a.ptpTimescale, utcValid := a.utcValid, utcOffset := a.utcOffset } →
        (255 ≤ a.steps.toNat → Does (.ptpAnnounceRx port a) s (s.setPtpPort i r)) ∧
        (a.steps.toNat < 255 → x = { r with foreign := s.hearAnnounce r a } → y = { x with best := s.choose i x } →
          ((∃ b, y.best = some b ∧ sameSender b a = true) →
            Does (.ptpAnnounceRx port a) s (s.setPtpPort i { y with annFrom := s.time.counter }).bmca) ∧
          ((∀ b, y.best = some b → sameSender b a = false) → Does (.ptpAnnounceRx port a) s (s.setPtpPort i y).bmca)))) ∧
    (∀ k, exec (.ptpDiscardedRx port k) s = .next s) ∧
    (∀ a b : PtpSet, a.compare b = (b.compare a).flip) ∧
    (∀ (x : PtpPort) (best : Nat × Announce), s.ebest = some best → x.best = none →
      (x.state = .listening → s.decide_ i x = .listen) ∧
      (x.state ≠ .listening → s.ptp.slaveOnly = false → 127 < s.ptp.clockClass.toNat →
        (s.ownSet.beats (s.heardSet best.1 best.2) = true → s.decide_ i x = .m2) ∧
        (s.ownSet.beats (s.heardSet best.1 best.2) = false → i ≠ best.1 → s.decide_ i x = .m3)))) ∧
  (∀ (s : State) (port : Fin 4) (i : Nat) (q : PtpPort) (now : Nat), i = port.val → q = s.ptpPort i → now = s.time.counter →
    (∀ last e, (s.due none e = true) ∧ (s.due (some last) e = true ↔ last + cycOfLog e ≤ now)) ∧
    (s.portsUp = true → q.stateNow now = .master → s.due q.sentAt.1 s.ptp.logSync = true → ∀ u more, u = s.setPtpPort i { q with
        state := .master, seqs := (q.seqs.1 + 1, q.seqs.2), stamp := none, sentAt := (some now, q.sentAt.2) } →
      (q.txStamp = none → more = []) → (∀ st, q.txStamp = some st → more = [.ptp i (s.ptpIp q) 8 q.seqs.1 [st.t]]) →
      Does (.ptpSyncTx port) s { u with pins := { s.pins with
        sent := s.pins.sent ++ .ptp i (s.ptpIp q) 0 q.seqs.1 [] :: more } }) ∧
    (s.portsUp = false ∨ q.stateNow now ≠ .master ∨ s.due q.sentAt.1 s.ptp.logSync = false → exec (.ptpSyncTx port) s = .next s) ∧
    (s.portsUp = true → q.follows = true → s.due q.sentAt.2.1 s.ptp.logDelayReq = true → ∀ u, u = s.setPtpPort i { q with
        seqs := (q.seqs.1, q.seqs.2.1 + 1, q.seqs.2.2), stamp := none, sentAt := (q.sentAt.1, some now, q.sentAt.2.2)
        delayReq := (q.txStamp.filter (!·.stale)).map fun st => (q.seqs.2.1, st.t) } →
      Does (.ptpDelayReqTx port) s { u with pins := { s.pins with
        sent := s.pins.sent ++ [.ptp i (s.ptpIp q) 1 q.seqs.2.1 [-q.asym]] } }) ∧
    (s.portsUp = false ∨ q.follows = false ∨ s.due q.sentAt.2.1 s.ptp.logDelayReq = false →
      exec (.ptpDelayReqTx port) s = .next s) ∧
    (s.portsUp = true → q.stateNow now = .master → s.due q.sentAt.2.2 s.ptp.logAnnounce = true → ∀ (fields : List Nat) u,
      ((∀ j < 4, (s.ptpPort j).follows = false) → fields = s.ownRank) →
      (∀ j, j < 4 → (s.ptpPort j).follows = true → (∀ k < j, (s.ptpPort k).follows = false) →
        ((s.ptpPort j).best = none → fields = s.ownRank) ∧
        ∀ b, (s.ptpPort j).best = some b → fields = [b.prio1.toNat, b.clockClass.toNat, b.accuracy.toNat, b.variance.toNat,
          b.prio2.toNat, b.gmId.toNat, b.steps.toNat + 1, s.clockId.toNat, i + 1]) →
      u = s.setPtpPort i { q with
        state := .master, seqs := (q.seqs.1, q.seqs.2.1, q.seqs.2.2 + 1), sentAt := (q.sentAt.1, q.sentAt.2.1, some now) } →
      Does (.ptpAnnounceTx port) s { u with pins := { s.pins with
        sent := s.pins.sent ++ [.ptp i (s.ptpIp q) 11 q.seqs.2.2 (fields.map Int.ofNat)] } }) ∧
    (s.portsUp = false ∨ q.stateNow now ≠ .master ∨ s.due q.sentAt.2.2 s.ptp.logAnnounce = false →
      exec (.ptpAnnounceTx port) s = .next s) ∧
    (∀ past, past = q.annFrom + s.ptp.announceTimeout.toNat * cycOfLog s.ptp.logAnnounce →
      (s.portsUp = true → q.state ∈ [.listening, .uncalibrated, .slave, .passive] → past ≤ now → Does (.ptpAnnounceTimeout port) s (s.setPtpPort i { q with
        best := none, foreign := [], annFrom := now, state := if s.ptp.slaveOnly then .listening else .master
        sync := none, lastSync := none, delayReq := none }).bmca) ∧
      (s.portsUp = false ∨ q.state ∉ [.listening, .uncalibrated, .slave, .passive] ∨ now < past → exec (.ptpAnnounceTimeout port) s = .next s)))

/-! ### Characteristics, launches and the budget (ch. 03) -/

/-- CHAR_LOAD (R66, R67): a table that the checks pass is copied, its characteristic becomes LOADED, with no slot fallen due
and its entries with no measured launch; a table that fails them is BAD_ARG, a characteristic that runs WRONG_STATE; where the
keeper's read faults (R338), the status is FAULTED (R356, log entry 31) and the characteristic is as it was. CHAR_START,
CHAR_STOP and CHAR_GET_STATUS (R67, R68, R74, R83): a LOADED characteristic becomes PENDING with the start instant given, in
RUNNING advanced by the fewest whole periods that leave it 50 µs ahead, a PENDING one that stops becomes LOADED, a RUNNING one
stops at once with MODE 1 and at its period's end with MODE 0; in another state they are WRONG_STATE, and a number of
nanoseconds outside the range of R26 is BAD_ARG (log entry 31). Periods (R67, R69, R83): in RUNNING and FOG period 0 begins at
the start instant, a later one a period after the last, and the slots of the period before that are not handled then stay to be
handled, ahead of the same entries' new slots; no later period begins while a stop under MODE 0 is outstanding, which makes the
characteristic LOADED at its period's end, after the BEACON and MARK slots that have fallen due; at other times nothing
changes. (How slots wait for the first due is log entry 30.) Completes: charLoad, charStart, charStop, charGetStatus,
charPeriodStart, charPeriodEnd, charPeriodBegun. -/
def Obligations.CharacteristicsLoadAndRun : Prop :=
  (∀ (s : State) (ch : Fin 33) (c : Cmd) (i count period va : Nat) (b : State), s.Begins ch 0x200 2 c → b = s.begun ch →
    i = bits (wAt c.words 0) 49 48 → count = bits (wAt c.words 0) 42 32 → period = bits (wAt c.words 0) 19 0 →
    va = bits (wAt c.words 1) 47 0 →
    (count < 1 ∨ 1024 < count ∨ period < 1000 ∨ 1000000 < period → Refuses (.charLoad ch) s ch c 2 0) ∧
    (1 ≤ count → count ≤ 1024 → 1000 ≤ period → period ≤ 1000000 →
      (va % 16 ≠ 0 → Refuses (.charLoad ch) s ch c 2 1) ∧
      (va % 16 = 0 → (s.char i).state = .pending ∨ (s.char i).state = .running → Refuses (.charLoad ch) s ch c 1 0xFFFF) ∧
      (va % 16 = 0 → (s.char i).state = .empty ∨ (s.char i).state = .loaded →
        (∀ u, b.keeperRead va (16 * count) .ls = (none, u) → Makes (.charLoad ch) s ch c u [] 7) ∧
        ∀ bs u ws table, b.keeperRead va (16 * count) .ls = (some bs, u) → ws = bytesWords (2 * count) bs →
          table = ((List.range count).map fun k => (wAt ws (2 * k), wAt ws (2 * k + 1))) →
          (tableOk period table = false → Refuses (.charLoad ch) s ch c 2 1) ∧
          (tableOk period table = true → ∀ x, x = { s.char i with
              state := .loaded, periodUs := period, table := table, next := 0, ahead := [], left := [] } →
            Makes (.charLoad ch) s ch c (State.setChar { u with budget := { u.budget with
              powers := u.budget.powers.filter fun m => m.1.1 != i } } i x))))) ∧
  (∀ (s : State) (ch : Fin 33) (c : Cmd) (i : Nat) (b : State), i = bits (wAt c.words 0) 1 0 → b = s.begun ch →
    (s.Begins ch 0x201 3 c →
      (1000000000 ≤ bits (wAt c.words 2) 31 0 → Refuses (.charStart ch) s ch c 2 2) ∧
      (bits (wAt c.words 2) 31 0 < 1000000000 →
        ((s.char i).state ≠ .loaded → Refuses (.charStart ch) s ch c 1 0xFFFF) ∧
        ((s.char i).state = .loaded → ∀ u, u = b.setChar i { s.char i with
            state := .pending, start := (instOf (wAt c.words 1) (wAt c.words 2)).t * 2 ^ 32, periods := 0, stopAtEnd := false } →
          (s.dev.state ≠ .running → Makes (.charStart ch) s ch c u) ∧
          (s.dev.state = .running → Makes (.charStart ch) s ch c (u.advanceStart i))))) ∧
    (∀ (v : State) i x, x = v.char i →
      (x.state ≠ .pending ∨ v.time.line + 50 * us48 ≤ x.start ∨ x.periodUs = 0 → v.advanceStart i = v) ∧
      (x.state = .pending → x.start < v.time.line + 50 * us48 → x.periodUs ≠ 0 → ∃ k : Nat,
        v.time.line + 50 * us48 ≤ x.start + k * x.period48 ∧ x.start + (k - 1 : Int) * x.period48 < v.time.line + 50 * us48 ∧
        v.advanceStart i = (v.setChar i { x with
          start := x.start + k * x.period48, advanced := sat32 (x.advanced + k) }).charEvent i 0 3 (wd k))) ∧
    (s.Begins ch 0x202 1 c →
      ((s.char i).state = .pending → Makes (.charStop ch) s ch c (b.setChar i { s.char i with state := .loaded })) ∧
      ((s.char i).state = .running →
        (bit (wAt c.words 0) 8 = true → Makes (.charStop ch) s ch c (b.stopChar i)) ∧
        (bit (wAt c.words 0) 8 = false → Makes (.charStop ch) s ch c (b.setChar i { s.char i with stopAtEnd := true }))) ∧
      ((s.char i).state = .empty ∨ (s.char i).state = .loaded → Refuses (.charStop ch) s ch c 1 0xFFFF)) ∧
    (∀ (v u : State) i, u = (v.discardUnstarted fun l => l.char == i).pulsesLow (· == i) →
      v.stopChar i = u.setChar i { u.char i with state := .loaded, stopAtEnd := false }) ∧
    (s.Begins ch 0x203 1 c → Tells (.charGetStatus ch) s ch c
      [wd (s.char i).state.code, wd (s.char i).periods, pack [((s.char i).withheld, 63, 32), ((s.char i).missed, 31, 0)],
        pack [((s.char i).overrun, 63, 32), ((s.char i).advanced, 31, 0)], wdI (s.nextStartNs (s.char i))])) ∧
  (∀ (s : State) (i : Fin 4) (on : Bool), (on = true ↔ s.keeperUp = true ∧ (s.dev.state = .running ∨ s.dev.state = .fog)) →
    ∀ c past done, c = s.char i.val →
    (past = true ↔ c.state = .running ∧ c.periodStart + c.period48 ≤ s.time.line) →
    (done = true ↔ ∀ e < c.table.length, c.waits e = true →
      s.slotReady i.val e = false ∧ eKind (c.entry e) ≠ 2 ∧ eKind (c.entry e) < 4) →
    (on = true → c.state = .pending → c.start ≤ s.time.line → exec (.charPeriodStart i) s = .next (s.setChar i.val
      { c with state := .running, periodStart := c.start, next := 0, ahead := [], left := [], periods := c.periods + 1 })) ∧
    (on = false ∨ c.state ≠ .pending ∨ s.time.line < c.start → exec (.charPeriodStart i) s = .next s) ∧
    (on = true → past = true → c.stopAtEnd = false → ∀ x, x = { c with
        periodStart := c.periodStart + c.period48, next := 0, ahead := [], left := c.left ++ c.rest, periods := c.periods + 1 } →
      exec (.charPeriodBegun i) s = .next (s.setChar i.val x) ∧
      (∀ e, (∃ t, (e, t) ∈ x.left) ↔ c.waits e = true) ∧
      (∀ e, c.left.any (·.1 == e) = true → x.slotAt e = c.slotAt e) ∧
      (∀ e < c.table.length, c.left.any (·.1 == e) = false → c.passed e = false → x.slotAt e = c.periodSlot e)) ∧
    (on = false ∨ past = false ∨ c.stopAtEnd = true → exec (.charPeriodBegun i) s = .next s) ∧
    (s.keeperUp = true → past = true → c.stopAtEnd = true → done = true → Does (.charPeriodEnd i) s (s.stopChar i.val)) ∧
    (s.keeperUp = false ∨ past = false ∨ c.stopAtEnd = false ∨ done = false → exec (.charPeriodEnd i) s = .next s))

/-- Slots that launch (R63, R64, R67, R70): a LIST or EGO slot that falls due while its entry has no launch outstanding adds
one launch, with the entry's class, target and list and the deadline of R63; an ELASTIC or BACKGROUND launch of the entry that
never started is discarded for the new one and counted as WITHHELD; where the entry's launch is outstanding in any other way
the slot counts OVERRUN and launches nothing. In FOG a LIST slot passes. A slot that is not due does nothing. (That a slot acts
as the first of all that are due, and waits for an undecided window, is log entry 30; the counter event OVERRUNS counts once in
an array cycle, log entry 36; the first array edge, log entry 94; launches of a replaced table count as the entry's, log entry
101.) The other slots (R64, R69, R74, R439): BEACON drives the pins of its mask as its action says, replaces their pending
falls, and a pulse falls at its instant; MARK, once no launch goes before it, sends CHAR_EVENT with its ARG; EMPTY does
nothing; in FOG none acts; each slot handled has fallen due, and one that is not due does nothing. A slot is handled as the
first of all that are due, but for BEACON after a window is decided on, and a MARK waits for the launches before it (log entry
30); a due OVERRUN or missed deadline counts its event once in an array cycle (log entry 36); slots but BEACON fall due at
array edges (log entry 94). Completes: slotDueList, slotDueEgo, slotDueBeacon, beaconFall, slotDueMark, slotDueEmpty. -/
def Obligations.SlotsFallDue : Prop :=
  (∀ (s : State) (i : Fin 4) (e : Fin 1024) (ego : Bool) (go : Instr) (c : Sys2Proof.Machine.Char) (l : Launch),
    go = (if ego then .slotDueEgo i e else .slotDueList i e) → c = s.char i.val → l = s.newLaunch i.val e.val ego →
    (s.slotDue i.val e.val (if ego then 3 else 1) = false → exec go s = .next s) ∧
    (s.slotDue i.val e.val (if ego then 3 else 1) = true →
      (s.dev.state = .fog → ego = false → Does go s (s.passSlot i.val e.val)) ∧
      ((s.dev.state ≠ .fog ∨ ego = true) → ∀ add, add = (fun v : State => { v with dev := { v.dev with
            launches := v.dev.launches ++ [{ l with id := v.dev.nextLaunch }], nextLaunch := v.dev.nextLaunch + 1 } }) →
        ((∀ m ∈ s.dev.launches, ¬ (m.char = i.val ∧ m.entry = e.val)) → Does go s ((add s).passSlot i.val e.val)) ∧
        (∀ m, s.dev.launches.find? (fun m => m.char == i.val && m.entry == e.val) = some m →
          (2 ≤ m.cls → m.inFlight = false → Does go s (State.passSlot (add (State.charEvent (State.dropLaunch (s.setChar i.val
            { c with withheld := sat32 (c.withheld + 1) }) m.id) i.val e.val 4 0)) i.val e.val)) ∧
          (m.cls < 2 ∨ m.inFlight = true → Does go s (State.passSlot (State.countOverrun (State.charEvent (s.setChar i.val
            { c with overrun := sat32 (c.overrun + 1) }) i.val e.val 5 0)) i.val e.val))))) ∧
    (l.id = s.dev.nextLaunch ∧ l.char = i.val ∧ l.entry = e.val ∧ l.ego = ego ∧ l.cls = eClass (c.entry e.val) ∧
      l.telemetry = eTelemetry (c.entry e.val) ∧ l.slotAt = c.slotAt e.val ∧ l.issued = false ∧ l.runs = [] ∧
      (ego = false → l.target.toNat = eTarget (c.entry e.val)) ∧ (ego = true → l.target = 0x21) ∧
      l.listVa = (if ego then 0 else bits (c.entry e.val).2 47 0) ∧ l.power = (if ego then 0 else bits (c.entry e.val).2 63 52) ∧
      l.shedStep = (if ego then 0 else bits (c.entry e.val).2 51 48) ∧
      l.deadline = some (c.slotAt e.val + (if eDeadline (c.entry e.val) = 0
        then c.period48 else eDeadline (c.entry e.val) * us48)))) ∧
  (∀ (s : State) (i : Fin 4) (e : Fin 1024) (c : Sys2Proof.Machine.Char) (w : Word), c = s.char i.val → w = (c.entry e.val).2 →
    (s.slotDue i.val e.val 2 = false → exec (.slotDueBeacon i e) s = .next s) ∧
    (s.slotDue i.val e.val 2 = true →
      (s.dev.state = .fog → Does (.slotDueBeacon i e) s (s.passSlot i.val e.val)) ∧
      (s.dev.state ≠ .fog → ∀ fall, fall = (if bits w 9 8 ≤ 1 then none else some (c.slotAt e.val + bits w 47 16 * tick48, i.val)) →
        Does (.slotDueBeacon i e) s
          ((s.drivePins (BitVec.ofNat 8 (bits w 7 0)) (decide (bits w 9 8 ≠ 0)) fall).passSlot i.val e.val))) ∧
    (∀ (v : State) mask high fall (p : Fin 8),
      (v.drivePins mask high fall).pins.bcn.getLsbD p.val = (if mask.getLsbD p.val then high else v.pins.bcn.getLsbD p.val) ∧
      (v.drivePins mask high fall).pins.falls[p] = (if mask.getLsbD p.val then fall else v.pins.falls[p])) ∧
    (∀ free, (free = true ↔ s.slotDue i.val e.val 4 = true ∧
        ∀ l ∈ s.dev.launches, s.mayIssue l = true → ¬ l.slotKey < s.slotKey i.val e.val) →
      (free = false → exec (.slotDueMark i e) s = .next s) ∧
      (free = true → s.dev.state = .fog → Does (.slotDueMark i e) s (s.passSlot i.val e.val)) ∧
      (free = true → s.dev.state ≠ .fog → Does (.slotDueMark i e) s
        ((s.event 0x2F0 (pack [(e.val, 25, 16), (i.val, 9, 8), (1, 7, 0)]) w).passSlot i.val e.val))) ∧
    (s.slotDue i.val e.val 0 = true → exec (.slotDueEmpty i e) s = .next (s.passSlot i.val e.val)) ∧
    (s.slotDue i.val e.val 0 = false → exec (.slotDueEmpty i e) s = .next s) ∧
    (∀ (v : State) cnt, cnt = v.time.counter / 4 →
      (v.pm.overrunAt = some cnt → v.countOverrun = v) ∧
      (v.pm.overrunAt ≠ some cnt → v.countOverrun = State.count { v with pm := { v.pm with overrunAt := some cnt } } 31 0x92 1) ∧
      (v.pm.missedAt = some cnt → v.countMissed = v) ∧
      (v.pm.missedAt ≠ some cnt → v.countMissed = State.count { v with pm := { v.pm with missedAt := some cnt } } 31 0x93 1)) ∧
    (∀ j k, s.slotReady j k = true → eKind ((s.char j).entry k) ≠ 2 → s.pairAway 0 = false ∧ (s.char j).slotAt k ≤ s.lineAtArray) ∧
    (∀ p : Fin 8,
      (∀ at' k, s.pins.falls[p] = some (at', k) → at' ≤ s.time.line →
        Does (.beaconFall p) s (s.drivePins (BitVec.ofNat 8 (2 ^ p.val)) false none)) ∧
      (∀ at' k, s.pins.falls[p] = some (at', k) → s.time.line < at' → exec (.beaconFall p) s = .next s) ∧
      (s.pins.falls[p] = none → exec (.beaconFall p) s = .next s)))

/-- LAUNCH_ISSUE and LAUNCH_START (R65, R69, R137, R145, R160, R435): in an array cycle in which none was issued, and with no
due slot before it and no window undecided, the first launch in the order of R69 among those that may be issued goes to its
target, and one whose target has no unit left ends FAULTED; a free sequencer in service takes the launch that is next there,
which then runs on it beside the others that run, the first time with the defaults of its class's state set; a list for the
solver waits in RUNNING while a quiet point is to begin (R279), and an EGO launch does not start with no keeper pair left
(R438). Otherwise nothing changes. (One launch in an array cycle and none with a window undecided: log entry 30; which launch a
sequencer takes next: 35; the launches that run beside one another: 46.) PREEMPTION and DEADLINE_MISSED (R65, R71, R78, R84,
R219): a list gives way at a command boundary to a launch of a higher class that waits or stands preempted there, and at HOT an
ELASTIC or BACKGROUND list of a tile group to none, but not while a MOVE of it waits for remote accesses (log entry 34); a
launch past its deadline is counted once, and an EGO launch then ends. (ENTRY and INDEX of the event of a launch of LIST_SUBMIT
are free, log entry 101; the counter event, log entry 36.) Completes: launchIssue, launchStart, preemption, deadlineMissed. -/
def Obligations.LaunchesRun : Prop :=
  (∀ (s : State),
    (firstOf (s.dev.launches.filter s.mayIssue) = none → exec .launchIssue s = .next s) ∧
    (∀ l, firstOf (s.dev.launches.filter s.mayIssue) = some l →
      (s.windowPending = true ∨ s.dev.issuedIn = some (s.time.counter / 4) ∨ (∃ k ∈ s.dueKeys, k < l.slotKey) →
        exec .launchIssue s = .next s) ∧
      (s.windowPending = false → s.dev.issuedIn ≠ some (s.time.counter / 4) → (∀ k ∈ s.dueKeys, ¬ k < l.slotKey) →
        ∀ m u, m = { l with issued := true, issueSeq := s.dev.nextLaunch, runs := s.runsOf l } →
          u = State.count (State.setLaunch { s with dev := { s.dev with
            issuedIn := some (s.time.counter / 4), nextLaunch := s.dev.nextLaunch + 1 } } m) 31 0x90 1 →
          (m.runs.all (·.status = .done) = false → Does .launchIssue s u) ∧
          (m.runs.all (·.status = .done) = true → Does .launchIssue s (u.endLaunch m true)))) ∧
    (∀ target g t k, t = BitVec.toNat target → k = unitGroup target g →
      (s.runningAt t k ≠ none ∨ s.inService t k = false ∨ (k < 16 ∧ (at_ s.tiles.groups k {}).gated = true) ∨ s.nextAt t k = none →
        exec (.launchStart target g) s = .next s) ∧
      (∀ l m u, s.runningAt t k = none → s.inService t k = true → (k < 16 → (at_ s.tiles.groups k {}).gated = false) →
        s.nextAt t k = some l →
        m = { l with runs := l.runs.map fun r => if r.group = k then { r with status := .running, started := true } else r } →
        u = (s.setLaunch m).startBeside l.id →
        ((t = 0x21 ∧ l.ego = false ∧ s.dev.state = .running ∧ s.calib.quiet = true) ∨ (l.ego = true ∧ s.keeperUp = false) →
          exec (.launchStart target g) s = .next s) ∧
        (¬ (t = 0x21 ∧ l.ego = false ∧ s.dev.state = .running ∧ s.calib.quiet = true) → (l.ego = true → s.keeperUp = true) →
        (l.hasRun t k (· = .waiting) = false → Does (.launchStart target g) s u) ∧
        (l.hasRun t k (· = .waiting) = true →
          (k < 16 → ∀ x, x = at_ s.tiles.groups k {} → Does (.launchStart target g) s (State.count { u with
            tiles := { u.tiles with groups := put u.tiles.groups k { x with sets := put x.sets l.cls {} } } } k 0x25 1)) ∧
          (16 ≤ k → l.ego = true → Does (.launchStart target g) s (u.count 16 0x36 1)) ∧
          (16 ≤ k → l.ego = false → Does (.launchStart target g) s u)))))) ∧
  (∀ (s : State),
    (∀ target g t k, t = BitVec.toNat target → k = unitGroup target g →
      (s.runningAt t k = none → exec (.preemption target g) s = .next s) ∧
      (∀ l yields u, s.runningAt t k = some l →
        (yields = true ↔ l.ego = false ∧ (t = 0x22 → s.layout.move = none) ∧
          ((∃ m ∈ s.dev.launches, m.cls < l.cls ∧ ((m.hasRun t k (· = .waiting) = true ∧ m.withheld = false) ∨
              m.hasRun t k (· = .preempted) = true)) ∨ (k < 16 ∧ s.budget.thermal = .hot ∧ 2 ≤ l.cls))) →
        u = s.setLaunch { l with runs := l.runs.map fun r => if r.group = k then { r with status := .preempted } else r } →
        (yields = false → exec (.preemption target g) s = .next s) ∧
        (yields = true → k < 16 → Does (.preemption target g) s (u.count k 0x24 1)) ∧
        (yields = true → 16 ≤ k → Does (.preemption target g) s u))) ∧
    (∀ id, ((∀ l d, s.dev.launches.find? (fun l => l.id == id) = some l → l.deadline = some d →
        l.late = true ∨ s.time.line ≤ d) → exec (.deadlineMissed id) s = .next s) ∧
      ∀ l d u v w, s.dev.launches.find? (fun l => l.id == id) = some l → l.deadline = some d → d < s.time.line → l.late = false →
        u = s.setLaunch { l with late := true } →
        v = State.countMissed (State.charEvent (if l.char < 4
          then u.setChar l.char { s.char l.char with missed := sat32 ((s.char l.char).missed + 1) } else u) l.char l.entry 2 0) →
        w = (if l.target = 0x21 then v.count 16 0x35 1 else v) →
        (l.ego = false → Does (.deadlineMissed id) s w) ∧ (l.ego = true → Does (.deadlineMissed id) s (w.dropLaunch id))))

/-- LIST_SUBMIT (R368): the list becomes one launch of its own, due at the first array edge after the command begins, when the
command completes, and with its deadline counted from there; or 16 are outstanding: then NO_RESOURCE; an entry that R368 does
not allow is BAD_ARG. (Which keeper edges are array edges is the choice of log entry 94; that a launch submitted between two
windows is withheld by the thermal level alone is log entry 32.) The budget messages (R77, R83): BUDGET_SET takes values in
their ranges and starts the lease anew, and values out of range are BAD_ARG; BUDGET_SET_SHED takes the limit S_MAX;
BUDGET_GET_STATUS answers five words and changes no setting (how BUCKET_UJ rounds is free, log entry 10). Completes:
listSubmit, budgetSet, budgetSetShed, budgetGetStatus. -/
def Obligations.ListAndBudgetMessages : Prop :=
  (∀ (s : State) (ch : Fin 33) (c : Cmd) (e : Word × Word) (b : State), s.Begins ch 0x010 2 c → b = s.begun ch →
    e = (wAt c.words 0, wAt c.words 1) →
    (eKind e ≠ 1 ∨ targetOk (eTarget e) = false ∨ eClass e = 0 → Refuses (.listSubmit ch) s ch c 2 0) ∧
    (eKind e = 1 → targetOk (eTarget e) = true → eClass e ≠ 0 →
      (bits e.2 47 0 % 32 ≠ 0 → Refuses (.listSubmit ch) s ch c 2 1) ∧
      (bits e.2 47 0 % 32 = 0 →
        (16 ≤ (s.dev.launches.filter (·.char == 4)).length → Refuses (.listSubmit ch) s ch c 3 0xFFFF) ∧
        ((s.dev.launches.filter (·.char == 4)).length < 16 → ∀ (l : Launch) edge at', edge = s.time.counter + s.toArrayEdge →
          at' = s.time.line + s.toArrayEdge * s.time.rate →
          l = { id := s.dev.nextLaunch, char := 4, entry := 0, ego := false, cls := eClass e, telemetry := eTelemetry e
                target := BitVec.ofNat 8 (eTarget e), power := bits e.2 63 52, shedStep := bits e.2 51 48
                listVa := bits e.2 47 0, slotAt := at', dueAt := edge
                deadline := if eDeadline e = 0 then none else some (at' + eDeadline e * us48)
                withheld := (eClass e = 3 && s.budget.thermal != .normal) || (eClass e = 2 && s.budget.thermal = .hot)
                tag := pack [(c.seq.toNat, 31, 16), (c.tag.toNat, 15, 0)], order := s.dev.nextLaunch } →
          Makes (.listSubmit ch) s ch c { b with dev := { s.dev with
            launches := s.dev.launches ++ [l], nextLaunch := s.dev.nextLaunch + 1 } } [] 0 (.counter edge))))) ∧
  (∀ (s : State) (ch : Fin 33) (c : Cmd) (b : State), b = s.begun ch →
    (∀ p cap lease fb ok, s.Begins ch 0x210 3 c → p = bits (wAt c.words 0) 31 0 → cap = bits (wAt c.words 1) 31 0 →
      lease = bits (wAt c.words 2) 63 32 → fb = bits (wAt c.words 2) 31 0 →
      (ok = true ↔ (lease = 0 ∨ (10 ≤ lease ∧ lease ≤ 60000)) ∧ 3000 ≤ fb ∧ fb ≤ 110000) →
      (p < 3000 ∨ 110000 < p → Refuses (.budgetSet ch) s ch c 2 0) ∧
      (3000 ≤ p → p ≤ 110000 → 1000000 < cap → Refuses (.budgetSet ch) s ch c 2 1) ∧
      (3000 ≤ p → p ≤ 110000 → cap ≤ 1000000 → ok = false → Refuses (.budgetSet ch) s ch c 2 2) ∧
      (3000 ≤ p → p ≤ 110000 → cap ≤ 1000000 → ok = true → Makes (.budgetSet ch) s ch c { b with budget := { s.budget with
        mw := p, cap := cap, leaseMs := lease, fallback := fb, leaseFrom := s.time.counter, leaseExpired := false } })) ∧
    (s.Begins ch 0x211 1 c → Makes (.budgetSetShed ch) s ch c
      { b with budget := { s.budget with shedMax := bits (wAt c.words 0) 2 0 } }) ∧
    (s.Begins ch 0x212 0 c → Makes (.budgetGetStatus ch) s ch c { b with free := b.free + 1 }
      [pack [(s.budget.maxTj.toNat, 31, 16), ((s.tiles.groups.toList.filter (·.gated)).length, 12, 8),
          (s.budget.thermal.code, 5, 4), (s.budget.shed, 2, 0)],
        pack [(s.budget.mw, 31, 0)], wdI (divFree b.free s.budget.bucket 1280000), pack [(s.budget.lastUJ, 31, 0)],
        pack [(s.budget.withheldElastic, 63, 32), (s.budget.withheldBackground, 31, 0)]]))

/-- Events of the governor (R77, R78, R81, R84): the lease that expires puts the fallback budget in force, the thermal levels
are entered at their temperatures (in units of 0.125 °C), and a gated group with a list to run wakes, outside FOG also one with
a MANDATORY or FOREGROUND slot ahead; otherwise nothing changes. (That the event of the level in force is sent at a fall from
HOT is log entry 33; that the governor works in every state in which firmware runs, log entry 32.) BUDGET_WINDOW (R76 to R81,
R430): once the time line has entered another millisecond, and while the pair that governs is not out, the window closes, the
governor decides on the next, and idle groups are gated: the bucket takes what the window gave and lost, within plus and minus
C, the measured energy is kept, the level S stays within S_MAX, no MANDATORY or FOREGROUND launch is withheld, and at WARN
every BACKGROUND launch that has not started is. At other times nothing changes. (The governor works in every state in which
firmware runs, log entry 32; the mean of a measured power is exact and an unmeasured one free, log entry 10.) Completes:
budgetWindow, groupWake, leaseExpired, thermalWarn, thermalHot, thermalNormal. -/
def Obligations.GovernorActs : Prop :=
  (∀ (s : State) (b : Budget), b = s.budget →
    (s.governs = true → b.leaseMs ≠ 0 → b.leaseExpired = false → b.leaseFrom + b.leaseMs * cycMs ≤ s.time.counter →
      Does .leaseExpired s (State.budgetEvent { s with budget := { b with mw := b.fallback, leaseExpired := true } } 0x11)) ∧
    (s.governs = false ∨ b.leaseMs = 0 ∨ b.leaseExpired = true ∨ s.time.counter < b.leaseFrom + b.leaseMs * cycMs →
      exec .leaseExpired s = .next s) ∧
    (∀ (tj : BitVec 16) x, x = tj.toInt →
      (s.governs = true → (b.thermal = .normal ∧ 760 ≤ x ∧ x < 840) ∨ (b.thermal = .hot ∧ 736 < x ∧ x ≤ 816) →
        Does (.thermalWarn tj) s (State.budgetEvent { s with budget := { b with thermal := .warn, maxTj := tj } } 0x12)) ∧
      (s.governs = false ∨ ¬ ((b.thermal = .normal ∧ 760 ≤ x ∧ x < 840) ∨ (b.thermal = .hot ∧ 736 < x ∧ x ≤ 816)) →
        exec (.thermalWarn tj) s = .next s) ∧
      (s.governs = true → b.thermal ≠ .hot → 840 ≤ x →
        Does (.thermalHot tj) s (State.budgetEvent { s with budget := { b with thermal := .hot, maxTj := tj } } 0x13)) ∧
      (s.governs = false ∨ b.thermal = .hot ∨ x < 840 → exec (.thermalHot tj) s = .next s) ∧
      (s.governs = true → b.thermal ≠ .normal → x ≤ 736 →
        Does (.thermalNormal tj) s (State.budgetEvent { s with budget := { b with thermal := .normal, maxTj := tj } } 0x14)) ∧
      (s.governs = false ∨ b.thermal = .normal ∨ 736 < x → exec (.thermalNormal tj) s = .next s)) ∧
    (∀ (g : Fin 16) wakes x, x = s.tiles.groups[g] →
      (wakes = true ↔ x.gated = true ∧ s.governs = true ∧ ((∃ l ∈ s.dev.launches, s.keepsGroup g.val l = true) ∨
        (s.dev.state ≠ .fog ∧ s.slotAhead g.val ((b.windowMs + 2) * ms48) = true))) →
      (wakes = true → exec (.groupWake g) s = .next { s with tiles := { s.tiles with
        groups := put s.tiles.groups g.val { x with gated := false } } }) ∧
      (wakes = false → exec (.groupWake g) s = .next s))) ∧
  (∀ (s : State) (m : WindowMeasure),
    (s.governs = false ∨ s.pairAway 0 = true ∨ s.time.line / ms48 = s.budget.windowMs → exec (.budgetWindow m) s = .next s) ∧
    (s.governs = true → s.pairAway 0 = false → s.time.line / ms48 ≠ s.budget.windowMs →
      ∀ t, t = ((s.closeWindow m).decideWindow m).gateWindow → Does (.budgetWindow m) s t ∧
      t.budget.bucket = max (min (s.budget.bucket + s.budget.mw * ((s.time.counter : Int) - s.budget.windowAt) - m.usedUJ * 1280000)
        (s.budget.cap * 1280000)) (-(s.budget.cap * 1280000)) ∧
      t.budget.lastUJ = sat32 m.usedUJ ∧ t.budget.maxTj = m.maxTj ∧ t.budget.windowAt = s.time.counter ∧
      t.budget.windowMs = s.time.line / ms48 ∧ t.budget.mw = s.budget.mw ∧ t.budget.thermal = s.budget.thermal ∧
      t.dev.launches.length = s.dev.launches.length ∧
      t.budget.shed ≤ s.budget.shedMax ∧
      ∀ (k : Nat) (l l' : Launch), s.dev.launches[k]? = some l → t.dev.launches[k]? = some l' →
        (l.cls < 2 → l' = l) ∧ (l.cls = 3 → l.inFlight = false → s.budget.thermal ≠ .normal →
          l'.withheld = true)))

/-! ### Sensor ports and ingress queues (ch. 04, 05) -/

/-- Units of the ports (R86, R87, R89, R93, R94, R102, R104, R110). A unit of an ACTIVE entry with an enabled queue counts in
UNITS and SEQ and goes into the queue, one of an ABSENT entry that needs no model or has a valid one makes it ACTIVE first, and
any other is discarded and counted. A strobe edge goes to the first user of its input in index order that takes it: an STB
entry whose edge is on makes a unit of it, an SPI entry starts a read on a rise, a camera leaves it held for its frames; one
that nobody takes is held, unless the input has no user, or a single STB entry. An SPI read ends in one unit of its bytes, with
the pin's time or with that of the entry's model as it stood before the unit's pair; a CAN frame makes a unit of the first
entry that accepts it; a camera frame that ends makes its unit. (Log entries: who takes, holds or drops an edge 38; the
start-of-frame stamp of a CAN frame 95; bytes that a timestamp field lacks are free.) A camera frame (R88 to R90, R95, R96,
R339, R482). FRAME_START, after the unit of a frame that has not ended, opens one in the next buffer of the entry's ring: with
the capture's time, or, for an entry with a strobe input, with the midpoint of the last pulse held before the stamp if that is
no older than PERIOD_NS; edges before the stamp then go but for a rise whose fall is to come. A long packet of a written data
type goes to the frame buffer behind what is there, cut at the buffer's end, under the regions with which the frame began; a
write that faults ends the frame's writes. Other types and bad headers are counted, line starts and ends change nothing; where
the ports do not deliver, nothing changes. (Log entries: a midpoint's last half unit and its rounding 10; its flags, NO_STROBE
of an entry with LINK_EN clear, and a long packet outside a frame, dropped uncounted, 95; what a line is, and the pieces before
a fault, 39.) Completes: stbEdge, spiReadDone, csiFrameStart, csiLongPacket, csiFrameEnd, csiOtherPacket, canFrameRx. -/
def Obligations.PortsGiveUnitsAndFrames : Prop :=
  (∀ (s : State) (i : Nat), i < 64 → ∀ e, e = s.entry i →
    (∀ u kind low data valid,
      (s.takesUnits i → s.deliver i u kind low data valid = s.unitIn i u kind low data) ∧
      (e.state = .absent → e.enabled = true → (e.clockSrc = 0 ∨ valid = true) →
        s.deliver i u kind low data valid = (s.setSensor i .active 1 0 0).deliver i u kind low data valid ∧
        ((s.setSensor i .active 1 0 0).entry i).state = .active) ∧
      (¬ s.takesUnits i → ¬ (e.state = .absent ∧ e.enabled = true ∧ (e.clockSrc = 0 ∨ valid = true)) →
        s.deliver i u kind low data valid =
          s.setEntry i { e with seq := e.seq + 1, lastUnitAt := s.time.counter, discarded := sat32 (e.discarded + 1) })) ∧
    (∀ (pin : Fin 16) (rising : Bool) (phase : Fin 8),
      let row := Instr.stbEdge pin rising phase
      let off := fun k => ((s.entry k).cls = 4 ∧ bit (s.entry k).w4 (if rising then 0 else 1) = false) ∨
        (s.entry k).cls = 1 ∨ (s.entry k).cls = 2
      (∀ pre post, s.stbUsers pin.val = pre ++ i :: post → (∀ k ∈ pre, off k) → ¬ off i →
        (e.cls = 4 → Does row s (s.deliver i { s.capture phase with t := (s.capture phase).t - e.latency } 4
          (b2n (!rising) * 65536) [] true)) ∧
        (e.cls = 3 → Does row s (if rising then s.spiStart i (s.capture phase) else s)) ∧
        (e.cls = 0 → Does row s (s.holdEdge pin.val { rising := rising, at_ := s.capture phase }))) ∧
      ((∀ k ∈ s.stbUsers pin.val, off k) →
        (s.stbUsers pin.val = [] ∨ (s.stbUsers pin.val = [i] ∧ e.cls = 4) → exec row s = .next s) ∧
        (s.stbUsers pin.val ≠ [] → (∀ k, s.stbUsers pin.val = [k] → (s.entry k).cls ≠ 4) →
          Does row s (s.holdEdge pin.val { rising := rising, at_ := s.capture phase })))) ∧
    (∀ (port : Fin 4) bs, s.ll.spi[port] = none → exec (.spiReadDone port bs) s = .next s) ∧
    (∀ (port : Fin 4) (at' : Inst) (missed : Bool) (bs : List Byte), s.ll.spi[port] = some (i, at', missed) →
      ∀ n raw h v, n = bits e.w4 46 40 →
      raw = leNat (grab (s.free + n) (grab s.free bs 0 n) (bits e.w5 7 0) (if bits e.w5 11 8 = 0 then 8 else 4)) →
      h = { at' with t := at'.t - e.latency } →
      v = { s with ll := { s.ll with spi := put s.ll.spi port.val none }, free := s.free + (n + 8) } →
      (e.clockSrc = 0 → Does (.spiReadDone port bs) s
        (v.deliver i h 2 (n * 65536 + b2n missed * 32) (byteForm 0 (n + 1) (grab s.free bs 0 n)) e.valid)) ∧
      (∀ (ts : Nat) x, e.clockSrc ≠ 0 → (ts, x) = (if bits e.w5 11 8 = 0 then (raw * 65536, v) else
          ((v.extend i raw).1 * (if bits e.w5 11 8 = 2 then 65536000 else bits e.w5 63 32), (v.extend i raw).2)) →
        Does (.spiReadDone port bs) s ((x.pair i ts h.t).2.deliver i { t := e.model.map ts, flags := mappedFlags at'.flags } 2
          (n * 65536 + b2n (!(x.pair i ts h.t).1) * 64 + b2n missed * 32) (byteForm 0 (n + 1) (grab s.free bs 0 n)) e.valid))) ∧
    (∀ (c : Fin 2) (f : CanFrame),
      (s.delivers 2 = true ∧ (s.canPort c.val).busOff = false ∧ f.rtr = false →
        ((s.entriesFor 2 c.val).find? (fun j => (s.entry j).takesCan f) = some i →
          Does (.canFrameRx c f) s (s.deliver i { s.now with t := s.now.t - e.latency } 3 (min f.data.length 64 * 65536)
            (canPayloads f) true)) ∧
        ((s.entriesFor 2 c.val).find? (fun j => (s.entry j).takesCan f) = none → Does (.canFrameRx c f) s
          (s.setCan c.val { s.canPort c.val with discarded := sat32 ((s.canPort c.val).discarded + 1) }))) ∧
      (¬ (s.delivers 2 = true ∧ (s.canPort c.val).busOff = false ∧ f.rtr = false) → exec (.canFrameRx c f) s = .next s)) ∧
    (∀ (port : Fin 12) (vc : Fin 4) f, s.delivers 0 = true → s.csiEntry port.val vc.val = some i → e.frame = some f →
      Does (.csiFrameEnd port vc) s ((s.setEntry i { e with frame := none }).deliver i f.unit 0 (f.low false)
        [pack [(bits e.w4 47 0 + f.buf * bits e.w5 31 0, 47, 0)], pack [(1, 55, 48), (f.lines, 47, 32), (f.bytes, 31, 0)]] true))) ∧
  (∀ (s : State) (port : Fin 12) (vc : Fin 4),
    (s.delivers 0 = false → ∀ phase dt bs crcOk k, exec (.csiFrameStart port vc phase) s = .next s ∧
      exec (.csiLongPacket port vc dt bs crcOk) s = .next s ∧ exec (.csiFrameEnd port vc) s = .next s ∧
      exec (.csiOtherPacket port k) s = .next s) ∧
    (∀ i phase v (e : Entry) buf, s.delivers 0 = true → s.csiEntry port.val vc.val = some i →
      v = (match (s.entry i).frame with | some f => s.frameUnit i f true | none => s) → e = v.entry i →
      buf = e.nextBuf % (bits e.w4 63 60 + 1) →
      let begun := fun (v : State) (u : Inst) (none_ : Bool) => v.setEntry i { e with
        frame := some { unit := u, buf := buf, noStrobe := none_, regions := v.mem.regions }
        nextBuf := (buf + 1) % (bits e.w4 63 60 + 1) }
      let plain : Inst := { v.capture phase with t := (v.capture phase).t - e.latency }
      let v' := { v with free := v.free + 1 }
      let held := at_ v.ll.stb e.linkStb []
      let left := { v' with ll := { v'.ll with stb := put v'.ll.stb e.linkStb (leftEdges (v.capture phase).t held) } }
      (e.linkEn = false → Does (.csiFrameStart port vc phase) s (begun v plain false)) ∧
      (e.linkEn = true → v.pairsOn e.linkStb i = false → Does (.csiFrameStart port vc phase) s (begun v' plain true)) ∧
      (e.linkEn = true → v.pairsOn e.linkStb i = true →
        (∀ a b, lastPulse (v.capture phase).t none none held = some (a, b) →
          (v.capture phase).t - b.at_.t ≤ e.periodNs * 65536 → Does (.csiFrameStart port vc phase) s
            (begun left { t := divFree v.free (a.at_.t + b.at_.t) 2, flags := b.at_.flags } false)) ∧
        ((∀ a b, lastPulse (v.capture phase).t none none held = some (a, b) →
            e.periodNs * 65536 < (v.capture phase).t - b.at_.t) →
          Does (.csiFrameStart port vc phase) s (begun left plain true)))) ∧
    (∀ (t : Int) (pre post : List Edge) (a b : Edge), a.rising = true → b.rising = false → a.at_.t < t → b.at_.t < t →
      (∀ x ∈ post, t ≤ x.at_.t) → lastPulse t none none (pre ++ a :: b :: post) = some (a, b)) ∧
    (∀ (t : Int) (pre post : List Edge) (a : Edge), (∀ x ∈ pre, x.at_.t < t) → a.at_.t < t → (∀ x ∈ post, t ≤ x.at_.t) →
      leftEdges t (pre ++ a :: post) = if a.rising then a :: post else post) ∧
    (∀ i dt bs crcOk, s.csiEntry port.val vc.val = some i → (s.entry i).frame = none → csiWritten (BitVec.toNat dt) = true →
      exec (.csiLongPacket port vc dt bs crcOk) s = .next s ∧ exec (.csiFrameEnd port vc) s = .next s) ∧
    (∀ i f (dt : BitVec 6) bs crcOk (e : Entry) data f', s.delivers 0 = true → csiWritten dt.toNat = true →
      s.csiEntry port.val vc.val = some i → e = s.entry i → e.frame = some f →
      data = bs.take (bits e.w5 31 0 - f.bytes) →
      f' = { f with crcErr := f.crcErr || !crcOk, trunc := f.trunc || (!f.stopped && decide (bits e.w5 31 0 - f.bytes < bs.length)) } →
      (f.stopped = true ∨ data = [] → Does (.csiLongPacket port vc dt bs crcOk) s (s.setEntry i { e with frame := some f' })) ∧
      (f.stopped = false → data ≠ [] → ∀ r v,
        (withRegions f.regions (writeM (bits e.w4 47 0 + f.buf * bits e.w5 31 0 + f.bytes) data)).go s.outsideLaunch = (r, v) →
        (r = .ok () → Does (.csiLongPacket port vc dt bs crcOk) s ((s.keepIdle v).setEntry i { e with frame := some { f' with
          bytes := f.bytes + data.length, lines := f.lines + 1, dt := f.dt <|> some dt } })) ∧
        (r ≠ .ok () → Does (.csiLongPacket port vc dt bs crcOk) s (((s.keepIdle v).setEntry i { e with
          frame := some { f' with trunc := true, stopped := true } }).log 0x10 0 port.val 0 0 0)))) ∧
    (s.delivers 0 = true → ∀ dt bs crcOk, csiWritten dt.toNat = false →
      Does (.csiLongPacket port vc dt bs crcOk) s (s.csiDrop port.val)) ∧
    (exec (.csiOtherPacket port .lineStart) s = .next s ∧ exec (.csiOtherPacket port .lineEnd) s = .next s ∧
      (s.delivers 0 = true → exec (.csiOtherPacket port .otherType) s = .next (s.csiDrop port.val) ∧
        exec (.csiOtherPacket port .badHeader) s = .next (s.csiDrop port.val))))

/-- Ethernet and CAN ports (R86, R97, R98, R102, R103, R114): an ARP request for the port's address is answered, a datagram
that matches no template or is too short for its template is counted and discarded, one that matches and is long enough is
parsed with the stamp of its delimiter; a frame for another address, a broadcast that is no such request, a frame that carries
no datagram for the parser and one of PTP change nothing there; links and bus-off follow their events; the SYNC frame is queued
at its time and transmitted once. (The frame stands without its check sequence, what stamps a frame that no delimiter has
stamped, and what counts as discarded are log entry 41; ARP in every state with the ports up, and a datagram too short for a
template's CHECK field, which matches it not, log entry 95; SYNC while the port delivers, log entry 40.) Sensor states and
light-list messages (R10, R105, R106, R110, R113, R234, R235): an entry that passes the checks is stored, its reserved bits as
0, and is ABSENT with all counts 0 and no model, no unit in progress and no read of an SPI port; one that does not is BAD_ARG
with the first word that fails. LL_MASK masks an ACTIVE entry with cause 5, LL_UNMASK takes a MASKED one back and forgets the
buoy table's record of it; an entry without a unit for MISS periods becomes ABSENT. LL_GET_ENTRY answers the six words stored,
LL_GET_STATUS what R113 lists. (How LAST_R_NS rounds is log entry 10's; that PERIOD_NS 0 never makes an entry ABSENT, log entry
95's.) Completes: ethFrameRx, ethLinkDown, ethLinkUp, canBusOff, canBusOffRecovery, canSync, canSyncTransmit, sensorAbsent,
llSetEntry, llGetEntry, llGetStatus, llMask, llUnmask. -/
def Obligations.NetworkPortsAndLightLists : Prop :=
  (∀ (s : State),
    (∀ (port : Fin 4) bs, s.portsUp = true → 60 ≤ bs.length → bs.length ≤ 9212 → ∀ q f, q = at_ s.ll.eth port.val {} → f = untag bs →
      (be f 0 6 = 0xFFFFFFFFFFFF ∨ be f 0 6 = q.mac.toNat) →
      (∀ r, arpReply q.mac q.ipv4 f = some r →
        exec (.ethFrameRx port bs) s = .next { s with pins := { s.pins with sent := s.pins.sent ++ [.eth port.val r] } }) ∧
      (∀ src dport p find, arpReply q.mac q.ipv4 f = none → be f 0 6 ≠ 0xFFFFFFFFFFFF → s.delivers 1 = true →
        udpOf f = some (src, dport, p) → dport ≠ 319 → dport ≠ 320 →
        find = ((s.entriesFor 1 port.val).find? fun i => (s.template (s.entry i).template).matches_ src dport p) →
        (find = none → exec (.ethFrameRx port bs) s = .next (s.ethDrop port.val)) ∧
        (∀ i tpl, find = some i → tpl = s.template (s.entry i).template →
          (p.length < tpl.need → exec (.ethFrameRx port bs) s = .next (s.ethDrop port.val)) ∧
          (tpl.need ≤ p.length →
            (∀ st, (s.ptpPort port.val).stamp = some st → st.tx = false →
              Does (.ethFrameRx port bs) s (s.parse i tpl p { t := st.t, flags := st.flags })) ∧
            ((∀ st, (s.ptpPort port.val).stamp = some st → st.tx = true) → Does (.ethFrameRx port bs) s (s.parse i tpl p
              { t := s.time.now16 - 24 * 51200 - (s.ptpPort port.val).ingress, flags := s.now.flags })))))) ∧
    (∀ (port : Fin 4) bs, s.portsUp = false ∨ bs.length < 60 ∨ 9212 < bs.length → exec (.ethFrameRx port bs) s = .next s) ∧
    (∀ (port : Fin 4) bs q f, q = at_ s.ll.eth port.val {} → f = untag bs →
      (be f 0 6 ≠ 0xFFFFFFFFFFFF → be f 0 6 ≠ q.mac.toNat → exec (.ethFrameRx port bs) s = .next s) ∧
      (arpReply q.mac q.ipv4 f = none → be f 0 6 = 0xFFFFFFFFFFFF ∨ s.delivers 1 = false ∨ udpOf f = none ∨
        (∃ src dport p, udpOf f = some (src, dport, p) ∧ (dport = 319 ∨ dport = 320)) → exec (.ethFrameRx port bs) s = .next s)) ∧
    (∀ port : Fin 4, ((at_ s.ll.eth port.val {}).up = true → Does (.ethLinkDown port) s (State.llEvent { s with
        ll := { s.ll with eth := put s.ll.eth port.val { (at_ s.ll.eth port.val {}) with up := false } } } port.val 0 7 0)) ∧
      ((at_ s.ll.eth port.val {}).up = false → s.portsUp = true → Does (.ethLinkUp port) s (State.llEvent { s with
        ll := { s.ll with eth := put s.ll.eth port.val { (at_ s.ll.eth port.val {}) with up := true } } } port.val 0 8 0)) ∧
      ((at_ s.ll.eth port.val {}).up = false → exec (.ethLinkDown port) s = .next s) ∧
      ((at_ s.ll.eth port.val {}).up = true ∨ s.portsUp = false → exec (.ethLinkUp port) s = .next s)) ∧
    (∀ (c : Fin 2) p, p = s.canPort c.val →
      (s.portsUp = true → Does (.canBusOff c) s ((s.setCan c.val { p with busOff := true }).llEvent c.val 0 5 0)) ∧
      (s.portsUp = false → exec (.canBusOff c) s = .next s) ∧
      exec (.canBusOffRecovery c) s = .next (s.setCan c.val { p with busOff := false }) ∧
      (∀ mark, mark = s.syncMark (bits p.sync 63 48) →
        (s.delivers 2 = true ∧ bits p.sync 63 48 ≠ 0 ∧ mark ≠ p.crossed →
          exec (.canSync c) s = .next (s.setCan c.val { p with queued := true, crossed := mark })) ∧
        (s.delivers 2 = false ∨ bits p.sync 63 48 = 0 ∨ mark = p.crossed → exec (.canSync c) s = .next s)) ∧
      (p.queued = true ∧ p.busOff = false ∧ s.delivers 2 = true → exec (.canSyncTransmit c) s = .next
        { s.setCan c.val { p with queued := false } with pins := { s.pins with sent := s.pins.sent ++ [.can c.val (bit p.sync 29)
          (BitVec.ofNat 29 (if bit p.sync 29 then bits p.sync 28 0 else bits p.sync 10 0))
          (leBytes (bits p.sync 47 40) p.syncData.toNat)] } }) ∧
      (p.queued = false ∨ p.busOff = true ∨ s.delivers 2 = false → exec (.canSyncTransmit c) s = .next s))) ∧
  (∀ (s : State) (ch : Fin 33) (c : Cmd) (i : Nat) (e : Entry), i = bits (wAt c.words 0) 5 0 → e = s.entry i →
    (s.Begins ch 0x300 7 c →
      ((∀ p ∈ entryChecks s (fun k => wAt c.words (k + 1)), p.2 = true) → ∀ b u t, b = s.begun ch →
        u = (b.abandon i).setEntry i { w := entryWords fun k => wAt c.words (k + 1) } → t = (u.forgetSensor i).dropUnused →
        Makes (.llSetEntry ch) s ch c t ∧
        t.entry i = { w := entryWords fun k => wAt c.words (k + 1) } ∧ (∀ j, j ≠ i → t.entry j = s.entry j) ∧
        (∀ p : Fin 4, t.ll.spi[p] = match s.ll.spi[p] with
          | some (j, x, m) => if j = i then none else some (j, x, m)
          | none => none) ∧
        (∀ p : Fin 16, t.ll.stb[p] = if t.stbUsers p.val = [] then [] else s.ll.stb[p]) ∧
        at_ t.buoys.e i 0 = 65536 ∧ at_ t.buoys.count i 0 = 0) ∧
      (∀ pre w post, entryChecks s (fun k => wAt c.words (k + 1)) = pre ++ (w, false) :: post →
        (∀ p ∈ pre ++ post, p.2 = false → w ≤ p.1) → Refuses (.llSetEntry ch) s ch c 2 w)) ∧
    (s.Begins ch 0x301 1 c → Tells (.llGetEntry ch) s ch c e.w.toList) ∧
    (s.Begins ch 0x302 1 c → Makes (.llGetStatus ch) s ch c { s.begun ch with free := s.free + 1 }
      [pack [(b2n e.valid, 16, 16), (if e.state = .masked then e.cause else 0, 10, 8), (e.state.code, 1, 0)],
        wdI e.model.offset, pack [(fld 32 e.model.rate, 31, 0)], wdI e.model.sRef,
        pack [(e.units, 63, 32), (e.discarded, 31, 0)],
        pack [(e.misfits, 63, 32), (fld 32 (max (-2147483648) (min 2147483647 (divFree s.free e.lastR 65536))), 31, 0)]]) ∧
    (s.Begins ch 0x303 1 c →
      (e.state = .active → Makes (.llMask ch) s ch c ((s.begun ch).setSensor i .masked 3 5 0)) ∧
      (e.state ≠ .active → Refuses (.llMask ch) s ch c 1 0xFFFF)) ∧
    (s.Begins ch 0x304 1 c →
      (e.state = .masked → Makes (.llUnmask ch) s ch c (((s.begun ch).setSensor i
        (if e.clockSrc = 0 ∨ e.valid = true then .active else .absent) 4 0 0).forgetSensor i)) ∧
      (e.state ≠ .masked → Refuses (.llUnmask ch) s ch c 1 0xFFFF)) ∧
    (∀ (v : State) st ev cause x, (v.setSensor i st ev cause x).entry i = { (if (v.entry i).state = .active ∧ st ≠ .active
          then (v.abandon i).entry i else v.entry i) with
        state := st, cause := if st = .masked then cause else 0, goodRun := 0 } ∧
      ∀ j, j ≠ i → (v.setSensor i st ev cause x).entry j = v.entry j) ∧
    (∀ k : Fin 64, (s.entry k.val).periodNs ≠ 0 → (s.entry k.val).enabled = true →
      bits (s.entry k.val).w1 31 24 * (s.entry k.val).periodNs * 1280 ≤ (s.time.counter - (s.entry k.val).lastUnitAt) * 1000 →
      ((s.entry k.val).state = .active →
        Does (.sensorAbsent k) s ((s.setEntry k.val (s.entry k.val).clear).setSensor k.val .absent 2 0 0)) ∧
      ((s.entry k.val).state = .masked → (s.entry k.val).cause = 1 →
        Does (.sensorAbsent k) s (s.setSensor k.val .absent 2 0 0)) ∧
      ((s.entry k.val).state = .absent ∨ ((s.entry k.val).state = .masked ∧ (s.entry k.val).cause ≠ 1) →
        exec (.sensorAbsent k) s = .next s)) ∧
    (∀ k : Fin 64, (s.entry k.val).periodNs = 0 ∨ (s.entry k.val).enabled = false ∨
        (s.time.counter - (s.entry k.val).lastUnitAt) * 1000 < bits (s.entry k.val).w1 31 24 * (s.entry k.val).periodNs * 1280 →
      exec (.sensorAbsent k) s = .next s))

/-- Port settings and templates (R100, R103, R113): a template in range is stored, with the fire times that the keeper reads at
FIRE_VA where that is not 0, and FAULTED without a change where that read faults; an Ethernet port takes its addresses, a
multicast address being BAD_ARG; a CAN port takes timings that its clock can make, and a SYNC that waits is dropped; a field
out of its range is BAD_ARG with the first payload word that holds one. (What timing an 80 MHz clock can make is log entry 40.)
Queue messages (R118, R125, R129): the pool is divided when the depth codes are legal and fit 131,072 words, every queue being
emptied with the settings of R118, and is refused otherwise; a queue takes its watermarks, mode and levels and is emptied; the
status answers what R129 lists, after its comparison of the pointers. (That both keep the queue's counts, and that IQ_SET_POOL
disarms a drop, is log entry 43.) Completes: llSetTemplate, llSetEthPort, llSetCanPort, iqSetPool, iqSetQueue, iqGetStatus. -/
def Obligations.PortAndQueueSettings : Prop :=
  (∀ (s : State) (ch : Fin 33) (c : Cmd) (b : State), b = s.begun ch →
    (s.Begins ch 0x310 8 c → ∀ ok3 ok4 : Bool,
      (ok3 = true ↔ bits (wAt c.words 3) 47 44 ≤ 4 ∧ 1 ≤ bits (wAt c.words 3) 39 32 ∧ bits (wAt c.words 3) 39 32 ≤ 32) →
      (ok4 = true ↔ bits (wAt c.words 4) 63 54 ≠ 0 ∧ 1 ≤ bits (wAt c.words 4) 15 8 ∧ bits (wAt c.words 4) 15 8 ≤ 128) →
      (ok3 = false → Refuses (.llSetTemplate ch) s ch c 2 3) ∧
      (ok3 = true → ok4 = false → Refuses (.llSetTemplate ch) s ch c 2 4) ∧
      (ok3 = true → ok4 = true → bits (wAt c.words 5) 55 54 = 3 → Refuses (.llSetTemplate ch) s ch c 2 5) ∧
      (ok3 = true → ok4 = true → bits (wAt c.words 5) 55 54 ≠ 3 → ∀ va stored, va = bits (wAt c.words 7) 47 0 →
        stored = (fun (v : State) (fire : List (BitVec 16)) => { v with ll := { v.ll with
          templates := put v.ll.templates (bits (wAt c.words 0) 3 0)
            { w := Vector.ofFn (fun (k : Fin 7) => wAt c.words (k.val + 1)), fire := fire } } }) →
        (va = 0 → Makes (.llSetTemplate ch) s ch c (stored b [])) ∧
        (va ≠ 0 → (∀ bs u, b.keeperRead va 256 = (some bs, u) → Makes (.llSetTemplate ch) s ch c
            (stored u ((List.range 128).map fun k => BitVec.ofNat 16 (leNat (sliceB bs (2 * k) 2))))) ∧
          (∀ u, b.keeperRead va 256 = (none, u) → Makes (.llSetTemplate ch) s ch c u [] 7)))) ∧
    (s.Begins ch 0x320 3 c → ∀ i, i = bits (wAt c.words 0) 1 0 →
      (bit (wAt c.words 1) 40 = false → Makes (.llSetEthPort ch) s ch c { b with ll := { b.ll with
        eth := put b.ll.eth i { (at_ s.ll.eth i {}) with
          mac := BitVec.ofNat 48 (bits (wAt c.words 1) 47 0), ipv4 := BitVec.ofNat 32 (bits (wAt c.words 2) 31 0) } } }) ∧
      (bit (wAt c.words 1) 40 = true → Refuses (.llSetEthPort ch) s ch c 2 1)) ∧
    (s.Begins ch 0x321 4 c → ∀ i w1 w2, i = bits (wAt c.words 0) 0 0 → w1 = wAt c.words 1 → w2 = wAt c.words 2 →
      ∀ ok1 ok2 : Bool,
      (ok1 = true ↔ 125 ≤ bits w1 63 48 ∧ bits w1 63 48 ≤ 1000 ∧ 1000 ≤ bits w1 47 32 ∧ bits w1 47 32 ≤ 8000 ∧
        500 ≤ bits w1 31 22 ∧ bits w1 31 22 ≤ 900 ∧ 500 ≤ bits w1 21 12 ∧ bits w1 21 12 ≤ 900 ∧
        canTiming (bits w1 63 48) (bits w1 31 22) = true ∧ canTiming (bits w1 47 32) (bits w1 21 12) = true) →
      (ok2 = true ↔ (bits w2 63 48 = 0 ∨ (100 ≤ bits w2 63 48 ∧ bits w2 63 48 ≤ 50000)) ∧ bits w2 47 40 ≤ 8) →
      (ok1 = false → Refuses (.llSetCanPort ch) s ch c 2 1) ∧
      (ok1 = true → ok2 = false → Refuses (.llSetCanPort ch) s ch c 2 2) ∧
      (ok1 = true → ok2 = true → Makes (.llSetCanPort ch) s ch c (b.setCan i { s.canPort i with
        timing := w1, sync := w2, syncData := wAt c.words 3, queued := false
        crossed := if bits w2 63 48 = 0 then 0 else s.syncMark (bits w2 63 48) })))) ∧
  (∀ (s : State) (ch : Fin 33) (c : Cmd) (b : State), b = s.begun ch →
    (s.Begins ch 0x330 4 c → ∀ code, code = (fun q => bits (wAt c.words (q / 16)) (4 * (q % 16) + 3) (4 * (q % 16))) →
      ∀ q < 64, 11 < code q → (∀ r < q, code r ≤ 11) → Refuses (.iqSetPool ch) s ch c 2 (q / 16)) ∧
    (s.Begins ch 0x330 4 c → ∀ code, code = (fun q => bits (wAt c.words (q / 16)) (4 * (q % 16) + 3) (4 * (q % 16))) →
      (∀ q < 64, code q ≤ 11) → ∀ total, total = (List.range 64).foldl (fun a q => a + codeWords (code q)) 0 →
      (131072 < total → Refuses (.iqSetPool ch) s ch c 3 0xFFFF) ∧
      (total ≤ 131072 → Makes (.iqSetPool ch) s ch c { b with iq := Vector.ofFn fun (q : Fin 64) =>
        { depthCode := code q.val, high := (if code q.val = 0 then 0 else 64 * 2 ^ (code q.val - 1)) - 1
          wordLo := s.iq[q].wordLo, wordHi := s.iq[q].wordHi, discarded := s.iq[q].discarded, dropped := s.iq[q].dropped
          gaps := s.iq[q].gaps, integrity := s.iq[q].integrity, xoffCount := s.iq[q].xoffCount
          fullDropped := s.iq[q].fullDropped } })) ∧
    (s.Begins ch 0x331 4 c → ∀ q x w0 w1, q = bits (wAt c.words 0) 5 0 → x = s.queue q → w0 = wAt c.words 0 → w1 = wAt c.words 1 →
      (x.depthCode ≠ 0 → 1 ≤ bits w1 63 32 → bits w1 63 32 ≤ x.depth - 1 → bits w1 31 0 < bits w1 63 32 →
        Makes (.iqSetQueue ch) s ch c (b.setQueue q { x with
          xoffEn := bit w0 15, xoffPin := bits w0 14 12, priority := bit w0 8, high := bits w1 63 32, low := bits w1 31 0
          levels := (wAt c.words 2, wAt c.words 3), rings := Vector.replicate 4 {}, armed := false, flag := false, peak := 0
          ptrMismatch := false, coming := [], dropping := false })) ∧
      (x.depthCode = 0 → Refuses (.iqSetQueue ch) s ch c 2 0) ∧
      (x.depthCode ≠ 0 → bits w1 63 32 < 1 ∨ x.depth - 1 < bits w1 63 32 ∨ bits w1 63 32 ≤ bits w1 31 0 →
        Refuses (.iqSetQueue ch) s ch c 2 1)) ∧
    (s.Begins ch 0x332 1 c → ∀ q x u, q = bits (wAt c.words 0) 5 0 → u = (b.checkPtr q).2 → x = u.queue q →
      ((s.queue q).ptrMismatch = false → u = b) ∧
      Makes (.iqGetStatus ch) s ch c u
        [pack [(x.depth, 63, 32), (bits (wd x.statusReg.toNat) 19 0, 19, 0)], pack [(x.dropped, 63, 32), (x.gaps, 31, 0)],
          pack [(x.integrity, 63, 32), (x.peak, 16, 0)], pack [(x.xoffCount, 31, 0)]]))

/-- One word of a unit (R119 to R122, R124, R125): a queue with room, no drop armed and matching pointers takes it behind the
words of its ring, and no other queue changes; one without room, and any word after a dropped one of its unit, drops it into
its gap marker; an armed drop discards it up to a DATA_START. The words of a unit come for a queue in order and enter it one in
an array cycle. IQ_POP, DROP_TO_START and the read of IQ_DISCARDED (R119, R120, R123 to R125, R127). A pop takes the oldest
word of the lowest-numbered ring that holds one into the word registers, and then the array cycle's write is made; a word with
an uncorrectable error is not popped and is counted and reported; while a drop is armed a pop gives NOT_VALID; in an array
cycle in which the queue has served a read a pop does nothing. A pop of a queue whose pointer an error has struck finds the
mismatch, which resets the queue to one GAP word of unknown count, takes 4 array cycles and is reported, and pops that word. A
drop discards words in read order, counting them, up to a DATA_START, and where it finds none it is armed; the second of two is
without effect. The read of IQ_DISCARDED clears it. (One pop per command, GAPS counting the INTEGRITY word, which stands in
ring 0, and the comparison of DROP_TO_START are log entry 43; the operand that strikes a pointer and address 0 of a pool error,
log entry 42.) Completes: iqPop, dropToStart, iqDiscardedRead. -/
def Obligations.QueuesHoldWords : Prop :=
  (∀ (s : State) (q : Fin 64) (level entry : Nat) (w : Word) (x : Queue), x = s.queue q.val →
    (level < 4 → x.ptrMismatch = false → x.armed = false → (at_ x.rings level {}).words.length + 2 ≤ x.ringDepth →
      ((s.writeWord q.val level entry false w).1 = false) ∧
      (at_ ((s.writeWord q.val level entry false w).2.queue q.val).rings level {}).words = (at_ x.rings level {}).words ++ [w] ∧
      (∀ j, j ≠ level → at_ ((s.writeWord q.val level entry false w).2.queue q.val).rings j {} = at_ x.rings j {}) ∧
      ∀ p, p ≠ q.val → (s.writeWord q.val level entry false w).2.queue p = s.queue p) ∧
    (∀ dropping, x.ptrMismatch = false → x.armed = false → dropping = true ∨ x.ringDepth < (at_ x.rings level {}).words.length + 2 →
      s.writeWord q.val level entry dropping w = (true, s.dropWord q.val level entry)) ∧
    (∀ (v : State) y rg_ u, y = v.queue q.val → rg_ = at_ y.rings level {} → u = v.count 32 0x9A 1 →
      (rg_.gapOpen = true → v.dropWord q.val level entry = u.setQueue q.val { y with
        dropped := sat32 (y.dropped + 1), fullDropped := sat32 (y.fullDropped + 1)
        rings := put y.rings level { rg_ with words := rg_.words.dropLast ++ [gapMore (rg_.words.getLastD 0)] } }) ∧
      (rg_.gapOpen = false → v.dropWord q.val level entry = (u.setQueue q.val { y with
        dropped := sat32 (y.dropped + 1), fullDropped := sat32 (y.fullDropped + 1) }).putGap q.val level entry 1)) ∧
    (∀ dropping, x.ptrMismatch = false → x.armed = true → tagOf w ≠ 2 →
      s.writeWord q.val level entry dropping w = (dropping, s.setQueue q.val { x with discarded := sat32 (x.discarded + 1) })) ∧
    (∀ ws, s.writeUnit q.val entry ws = s.setQueue q.val { x with
      coming := x.coming ++ ws.zipIdx.map fun w => { entry := entry, first := w.2 == 0, word := w.1 } }) ∧
    (x.coming = [] ∨ s.cycle < x.wroteTo → s.writeDue q.val = s) ∧
    (∀ a rest u, x.coming = a :: rest → x.wroteTo ≤ s.cycle → u = s.setQueue q.val { x with coming := rest, wroteTo := s.cycle + 1 } →
      (x.depthCode = 0 → s.writeDue q.val = u) ∧
      (x.depthCode ≠ 0 → ∀ v, v = u.writeWord q.val (x.level a.entry) a.entry (x.dropping && !a.first) a.word →
        s.writeDue q.val = v.2.setQueue q.val { v.2.queue q.val with dropping := v.1 }))) ∧
  (∀ (s : State) (q : Fin 64) (x : Queue) (served : State → State), x = s.queue q.val →
    (∀ v, served v = (v.markRead q.val).writeDue q.val) →
    (s.readFree q.val = false → exec (.iqPop ⟨q, none⟩) s = .next s) ∧
    (∀ (v : State) y, y = v.queue q.val → v.readFree q.val = decide (y.readTo ≤ v.cycle) ∧
      v.markRead q.val = v.setQueue q.val { y with readTo := max y.readTo v.cycle + 1 }) ∧
    (∀ i r w ws, x.ptrMismatch = false → x.armed = false → x.first = some i → r = at_ x.rings i {} → r.words = w :: ws →
      (s.readFree q.val = true → r.ue.contains 0 = false → Does (.iqPop ⟨q, none⟩) s (served (((s.setQueue q.val
        ({ x with rings := put x.rings i r.tail } : Queue).mark).count 32 0x99 1).setQueue q.val
          { ({ x with rings := put x.rings i r.tail } : Queue).mark with
            wordLo := rg (bits w 31 0), wordHi := rg (bits w 63 60 * 268435456 + bits w 59 32) }))) ∧
      (s.readFree q.val = true → r.ue.contains 0 = true → Does (.iqPop ⟨q, none⟩) s (served s.meetPoolUe)) ∧
      (r.ue.contains 0 = true → Does (.dropToStart q) s s.meetPoolUe)) ∧
    (∀ i r w ws, x.ptrMismatch = false → x.armed = false → x.first = some i → r = at_ x.rings i {} → r.words = w :: ws →
      r.ue.contains 0 = false →
      (tagOf w = 2 → exec (.dropToStart q) s = .next s) ∧
      (tagOf w ≠ 2 → ∀ k, x.dropTo (k + 1) =
        Queue.dropTo k ({ x with rings := put x.rings i r.tail, discarded := sat32 (x.discarded + 1) } : Queue).mark)) ∧
    (x.ptrMismatch = false → x.armed = false → ∀ y,
      (x.dropTo (x.occupancy + 1) = (true, y) → exec (.dropToStart q) s = .next (s.setQueue q.val y)) ∧
      (x.dropTo (x.occupancy + 1) = (false, y) → Does (.dropToStart q) s (s.setQueue q.val y).meetPoolUe)) ∧
    (x.ptrMismatch = false → x.armed = false → x.first = none →
      exec (.dropToStart q) s = .next (s.setQueue q.val { x with armed := true })) ∧
    (x.ptrMismatch = false → x.armed = true → exec (.dropToStart q) s = .next s ∧
      (s.readFree q.val = true →
        Does (.iqPop ⟨q, none⟩) s (served (s.setQueue q.val { x with wordLo := 0, wordHi := 0 })))) ∧
    (x.depthCode ≠ 0 → ∀ y g, g = gapWord 1 0 0xFFFFFFFF → y = (({ x with
        rings := put (Vector.replicate 4 ({} : Ring)) 0 { words := [g] }, armed := false, ptrMismatch := false
        integrity := sat32 (x.integrity + 1), gaps := sat32 (x.gaps + 1), flag := false
        wroteTo := s.cycle + 4, readTo := s.cycle + 4 } : Queue)).mark →
      ((s.corruptPtr (some q)).checkPtr q.val) = (true, ((((s.setQueue q.val y).count 32 0x9B 1).log 0x0C 0 q.val 0 0 q.val).iqEvent
        q.val 1 0)) ∧
      (s.readFree q.val = true → Gives (.iqPop ⟨q, some q⟩) s fun t => (t.queue q.val).wordLo = rg (bits g 31 0) ∧
        (t.queue q.val).wordHi = rg (bits g 63 60 * 268435456 + bits g 59 32) ∧ (t.queue q.val).occupancy = 0 ∧
        (t.queue q.val).integrity = sat32 (x.integrity + 1) ∧ ∀ p, p ≠ q.val → t.queue p = s.queue p)) ∧
    exec (.iqDiscardedRead q) s = .next { s.setQueue q.val { x with discarded := 0 } with
      pins := { s.pins with lastRead := some (.reg (rg x.discarded)) } })

/-- A read of an empty queue (R123): the word registers take a word whose tag is NOT_VALID (0) and whose payload is 0, and no
pointer moves, whatever the array cycle's write then does (R120). (Where an error has struck a pointer of the queue, R125 acts
on the read instead; one that strikes a pointer of another queue meanwhile is marked there, log entry 42.) Completes: iqPop. -/
def Obligations.EmptyQueueReadsNotValid : Prop :=
  ∀ (s : State) (q : Fin 64) (corrupt : Option (Fin 64)) (t : State), (s.queue q.val).ptrMismatch = false →
    (∀ i < 4, (at_ (s.queue q.val).rings i {}).words = []) → corrupt ≠ some q → s.readFree q.val = true →
    t = ((s.corruptPtr corrupt).setQueue q.val { s.queue q.val with wordLo := 0, wordHi := 0 }).markRead q.val →
    exec (.iqPop ⟨q, corrupt⟩) s = .next (t.writeDue q.val) ∧ (t.queue q.val).rings = (s.queue q.val).rings ∧
    ((s.queue q.val).coming = [] → t.writeDue q.val = t) ∧
    s.corruptPtr none = s ∧ bits (0 : Word) 63 60 = 0 ∧ bits (0 : Word) 59 0 = 0

/-! ### Tensor tiles (ch. 06) -/

/-- The list commands of a tile group that compute nothing (R137, R139, R142, R145, R150): a NOP goes on 32 bytes behind;
SET_SHAPE, SET_SCALE and SET_MISC change the state set of the launch's class at that group, and no other; SET_MISC with SEED_EN
loads the rounding generators of the group's positions in service with SEED XOR the position, 1 in place of 0 (log entry 45);
BARRIER on one group goes on at once. BARRIER on all groups (R139): where every other sequencer of the launch has reached this
barrier, or has ended its list, the sequencer goes on; where one has not, it stays at the barrier, and waits, the barrier being
in progress (R339). Completes: tileNop, barrier, setShape, setScale, setMisc. -/
def Obligations.TileStateCommandsAndBarriers : Prop :=
  ((∀ (s t : State) (g : Fin 16) (op : Nat) (l : Launch) (ws : List Word), s.Runs t g.val g.val 32 op l ws → l.cls < 4 →
    ∀ goes x, goes = (fun i (u : State) => Goes i s l g.val 32 (u.count g.val 0x20 1)) → x = t.tileSet g.val l.cls →
    (tileNopOp op = true → goes (.tileNop g) t) ∧
    (op = 2 → l.target ≠ 0x10 → goes (.barrier g) t) ∧
    (op = 8 → ∀ m n k, m = bits (wAt ws 1) 16 0 → n = bits (wAt ws 1) 48 32 → k = bits (wAt ws 2) 16 0 →
      goes (.setShape g) (t.setTileSet g.val l.cls { x with
        m := m, n := n, k := k, badShape := x.badShape || decide (65536 < m ∨ 65536 < n ∨ 65536 < k) })) ∧
    (op = 9 → goes (.setScale g) (t.setTileSet g.val l.cls { x with sa := (wAt ws 1).toNat, sb := (wAt ws 2).toNat })) ∧
    (op = 10 → ∀ u, u = t.setTileSet g.val l.cls { x with
        gsA := bits (wAt ws 1) 31 5 * 32, gsB := bits (wAt ws 1) 63 37 * 32, gsC := bits (wAt ws 2) 31 5 * 32
        bpZ := bits (wAt ws 3) 20 16, bpY := bits (wAt ws 3) 12 8, bpX := bits (wAt ws 3) 4 0 } →
      (bit (wAt ws 3) 63 = false → goes (.setMisc g) u) ∧
      (bit (wAt ws 3) 63 = true → ∀ seed, seed = (fun (p : Nat) => BitVec.ofNat 32 (bits (wAt ws 2) 63 32) ^^^ BitVec.ofNat 32 p) →
        ∀ gen, gen = Vector.ofFn (fun (p : Fin 64) =>
          if p.val / 4 = g.val ∧ t.faults.tileIn.getLsbD p.val = true then (if seed p.val = 0 then 1 else seed p.val)
          else t.tiles.gen[p]) →
        goes (.setMisc g) { u with tiles := { u.tiles with gen := gen } }))) ∧
  ∀ (v : State) (g h : Fin 16) (c k : Fin 4) (x : TileSet), (v.setTileSet g.val c.val x).tileSet h.val k.val =
    if h = g ∧ k = c then x else v.tileSet h.val k.val) ∧
  (∀ (s t : State) (g : Fin 16) (l : Launch) (ws : List Word) (r : Run), s.Runs t g.val g.val 32 2 l ws → l.target = 0x10 →
    l.runs.find? (·.group = g.val) = some r → (∀ q ∈ l.runs, q.group = g.val → q = r) → ∀ reached, reached = (fun waits =>
      { l with runs := l.runs.map fun q => if q.group = g.val then
        { q with barriers := (if r.atBarrier then r.barriers else r.barriers + 1), atBarrier := waits } else q }) →
    ∀ k, k = (if r.atBarrier then r.barriers else r.barriers + 1) →
    ((∀ q ∈ l.runs, q.group ≠ g.val → q.status = .done ∨ k ≤ q.barriers) →
      Goes (.barrier g) s l g.val 32 ((t.setLaunch (reached false)).count g.val 0x20 1)) ∧
    ((∃ q ∈ l.runs, q.group ≠ g.val ∧ q.status ≠ .done ∧ q.barriers < k) →
      Holds (.barrier g) s l g.val g.val ws (t.setLaunch (reached true))))

/-- Lists are fetched and end (R135, R137, R140, R142, R162, R183, R248, R306, R339, R369). At END of a list, on a tile group
and on the engines, the unit's run of the launch is done; when it was the last, the launch completes and is gone, and a
submitted one is reported by LIST_DONE. A unit at which no list runs does nothing, and a fetch that faults ends the run with a
task fault. Completes: tileEnd, xeEnd, vxEnd, svEnd, kvEnd. -/
def Obligations.EndCompletesTheRun : Prop :=
  (∀ (s t : State) (target group size : Nat) (i : Instr) (l : Launch) (ws : List Word),
    ((∃ g : Fin 16, target = g.val ∧ group = g.val ∧ size = 32 ∧ i = .tileEnd g) ∨
      (target = 0x22 ∧ group = 16 ∧ size = 128 ∧ i = .xeEnd ∧ s.moveWaits = false) ∨
      (target = 0x20 ∧ group = 16 ∧ size = 128 ∧ i = .vxEnd) ∨
      (target = 0x21 ∧ group = 16 ∧ size = 128 ∧ i = .svEnd) ∨ (target = 0x23 ∧ group = 16 ∧ size = 128 ∧ i = .kvEnd)) →
    s.Runs t target group size 1 l ws → s.launchOf l.id = some l →
    ∀ u ended, u = s.leaves (if target < 16 then t.count group 0x20 1 else t) →
      ended = { l with runs := l.runs.map fun r => if r.group = group then { r with status := .done } else r } →
    ((∀ r ∈ l.runs, r.group = group ∨ r.status = .done) → Does i s (u.endLaunch ended (l.runs.any (·.faulted))) ∧
      Gives i s fun v => v.dev.launches = s.dev.launches.filter fun m => m.id ≠ l.id) ∧
    ((∃ r ∈ l.runs, r.group ≠ group ∧ r.status ≠ .done) → Does i s (u.setLaunch ended) ∧
      Gives i s fun v => v.dev.launches = s.dev.launches.map fun m => if m.id = l.id then ended else m)) ∧
  ∀ (s : State) (i : Instr) (target group size : Nat), listRow i = some (target, group, size) →
    (s.runningAt target group = none → exec i s = .next s) ∧
    (∀ l t e, s.runningAt target group = some l → l.ego = false → l.heldAt target group = none →
      (target = 0x22 → s.moveWaits = false) → (readWords (l.pcOf target group) (size / 8) .ls).go s = (.error e, t) →
      Does i s (t.taskFault l.target.toNat group (l.pcOf target group) 0))

/-- REG_WRITE and REG_READ (R120, R140, R145, R324): the access goes to the address of w1, as memory or as a register, and the
list goes on; an access that faults ends the launch's run with a task fault. In the register windows a read answers what the
register holds, and a write acts on the register; one that would pop a queue in an array cycle in which it has served a read
waits. (That REG_READ has read its register where its store faults, and 4-byte accesses to memory, are log entry 45.) MATMUL
and VECTOR (R138, R140, R143, R144, R148, R149, R150, R154, R155, R160, R161): while a position of the group waits for its
spare the command waits; otherwise its blocks, or bands of 8 rows, are dealt to the positions in service in turn, the list goes
on with what they wrote, and where an access of theirs faults the run ends with a task fault. One with an empty shape writes
nothing and goes on. A block writes, for each of its elements, the sum of the products of a row of A and a column of B, scaled
and with the present C added, converted to the format of C; a band the result of the operation on its FP32 inputs, converted to
the format of Z. Integer products are summed in 32 bits with saturation, floating ones in blocks of 32. A result that shares a
place with a source, or that an undefined descriptor forms, has free codes (log entry 44). (The blocks before a faulting one
stay written, and the faulting one writes nothing: log entry 17.) Completes: regWrite, regRead, matmul, vector. -/
def Obligations.TileCommandsAccessMemory : Prop :=
  (∀ (s t : State) (g : Fin 16) (l : Launch) (ws : List Word) (va da : Nat), va = bits (wAt ws 1) 47 2 * 4 →
    ∀ goes breaks, goes = (fun i (u : State) => Goes i s l g.val 32 (u.count g.val 0x20 1)) →
      breaks = (fun i (u : State) => Breaks i s l g.val (l.pcOf g.val g.val) 0 (u.count g.val 0x20 1)) →
    (s.Runs t g.val g.val 32 4 l ws → ∀ v, v = rg (bits (wAt ws 2) 31 0) →
      (∀ e, t.translate va .wr = .error e → breaks (.regWrite g) t) ∧
      (t.translate va .wr = .ok da →
        (place t.boot.otp.part128 da = .regs →
          (t.popWaits va v = true → exec (.regWrite g) s = .next s) ∧
          (t.popWaits va v = false →
            (∀ u, (regWriteAt (da - 0x5000000000) v).go t = (.ok (), u) → goes (.regWrite g) u) ∧
            ∀ e u, (regWriteAt (da - 0x5000000000) v).go t = (.error e, u) → breaks (.regWrite g) u)) ∧
        (place t.boot.otp.part128 da ≠ .regs →
          (∀ u, (writeM va (leBytes 4 v.toNat)).go t = (.ok (), u) → goes (.regWrite g) u) ∧
          ∀ e u, (writeM va (leBytes 4 v.toNat)).go t = (.error e, u) → breaks (.regWrite g) u))) ∧
    (s.Runs t g.val g.val 32 5 l ws → ∀ dst, dst = bits (wAt ws 2) 47 2 * 4 →
      let store := fun (x : Reg) (u : State) =>
        (∀ w, (writeM dst (leBytes 4 x.toNat)).go u = (.ok (), w) → goes (.regRead g) w) ∧
        ∀ e w, (writeM dst (leBytes 4 x.toNat)).go u = (.error e, w) → breaks (.regRead g) w
      (∀ e, t.translate va .rd = .error e → breaks (.regRead g) t) ∧
      (t.translate va .rd = .ok da →
        (place t.boot.otp.part128 da = .regs → store (regReadAt (da - 0x5000000000) t).1 (regReadAt (da - 0x5000000000) t).2) ∧
        (place t.boot.otp.part128 da ≠ .regs →
          (∀ bs u, (readM va 4).go t = (.ok bs, u) → store (BitVec.ofNat 32 (leNat bs)) u) ∧
          ∀ e u, (readM va 4).go t = (.error e, u) → breaks (.regRead g) u)))) ∧
  ((∀ (s t : State) (g : Fin 16) (l : Launch) (ws : List Word) (x : TileSet), x = t.tileSet g.val l.cls →
    ∀ goes breaks, goes = (fun i (u : State) => Goes i s l g.val 32 (u.count g.val 0x20 1)) →
      breaks = (fun i (u : State) => Breaks i s l g.val (l.pcOf g.val g.val) 0 (u.count g.val 0x20 1)) →
    (s.Runs t g.val g.val 32 0x10 l ws → ∀ j j' u, j = matJob x g.val t.budget.shed ws →
      j' = { j with undef := j.undef || t.matMeets j } →
      u = (if bit (wAt ws 0) 32 = true ∧ j.q < fmtWidth j.b.fmt then (t.count g.val 0x21 1).count g.val 0x22 1 else t.count g.val 0x21 1) →
      (t.ready g.val = false → exec (.matmul g) s = .next s) ∧
      (t.ready g.val = true →
        (x.m = 0 ∨ x.n = 0 ∨ x.k = 0 → goes (.matmul g) u) ∧
        (x.m ≠ 0 → x.n ≠ 0 → x.k ≠ 0 →
          (∀ v, (matBlocks j' g.val (t.positions g.val) x.m).go u = (.ok (), v) → goes (.matmul g) v) ∧
          ∀ e v, (matBlocks j' g.val (t.positions g.val) x.m).go u = (.error e, v) → breaks (.matmul g) v))) ∧
    (s.Runs t g.val g.val 32 0x20 l ws → ∀ j j', j = vecJob x g.val ws → j' = { j with undef := j.undef || t.meet j.z.runs j.sources } →
      (t.ready g.val = false → exec (.vector g) s = .next s) ∧
      (t.ready g.val = true →
        (x.m = 0 → goes (.vector g) t) ∧
        ∀ bands, bands = ((List.range ((x.m + 7) / 8)).forM fun b =>
            vecBand j' t.mem.cells g.val (dealt (t.positions g.val) b) (8 * b) (min 8 (x.m - 8 * b))) →
          (∀ v, bands.go t = (.ok (), v) → goes (.vector g) v) ∧ ∀ e v, bands.go t = (.error e, v) → breaks (.vector g) v))) ∧
  (∀ (j : MatJob) (g pos r0 c0 nr nc : Nat) (s v w x : State) (d : MatData) codes n,
    (matRead j r0 c0 nr nc).go { s with tiles := { s.tiles with at_ := some pos } } = (.ok d, v) →
    ∀ vals, vals = ((List.range nr).map fun i => (List.range nc).map fun c => j.element d i c).flatten →
    v.convert pos j.c.fmt j.bp j.rnd ((vals.map (·.2)).foldl (· + ·) 0) j.undef (vals.map (·.1)) = (codes, n, w) →
    ((List.range nr).forM fun i => writeElems j.c (r0 + i) c0 ((codes.drop (i * nc)).take nc)).go w = (.ok (), x) →
    ∀ y, y = (x.blockDone g pos n).countTile (x.tileOf pos) 0x14 1 →
    (matBlock j g pos (r0, c0, nr, nc)).go s = (.ok (), { y with tiles := { y.tiles with at_ := none } }) ∧
    ∀ i c, j.element d i c = (fun (a : Acc × Nat) (z : Machine.Num × Nat) => (z.1, a.2 + z.2))
      (dot j.a.fmt j.b.fmt (j.sa == 2 || j.sb == 2) (d.as.getD i []) (column d.bs c) (d.sa2.getD i []) (column d.sb2 c))
      (scaleAdd j (dot j.a.fmt j.b.fmt (j.sa == 2 || j.sb == 2) (d.as.getD i []) (column d.bs c) (d.sa2.getD i []) (column d.sb2 c)).1
        (d.sa1.getD i none) (d.sb1.getD c none)
        (if j.acc then some (decodeNum j.c.fmt j.bp ((d.cs.getD i []).getD c 0)) else none))) ∧
  (∀ (j : VecJob) (src : List Host.Cell) (g pos r0 nr : Nat) (s v w x : State) (vals : List (List Machine.Num)) codes n,
    ((if j.inPlace then withCells src else id) ((List.range nr).mapM fun i => vecRow j (r0 + i))).go
      { s with tiles := { s.tiles with at_ := some pos } } = (.ok vals, v) →
    v.convert pos j.z.fmt j.bpZ j.rnd 0 (j.undef || (j.vop == 0x21 && j.x.cols == 0)) vals.flatten = (codes, n, w) →
    ((List.range nr).forM fun i => writeElems j.z (r0 + i) 0 ((codes.drop (i * j.z.cols)).take j.z.cols)).go w = (.ok (), x) →
    ∀ y, y = (x.blockDone g pos n).countTile (x.tileOf pos) 0x14 1 →
    (vecBand j src g pos r0 nr).go s = (.ok (), { y with tiles := { y.tiles with at_ := none } })) ∧
  (∀ (j : VecJob) (xs ys zs : List Machine.Num) c, c < j.x.cols → isRowOp j.vop = false →
    (j.rowOf xs ys zs)[c]? = some (vecOp j.vop j.imm (xs.getD c .nan) (ys.getD c .nan) (zs.getD c .nan))) ∧
  (∀ (j : VecJob) (xs ys zs : List Machine.Num), isRowOp j.vop = true → j.rowOf xs ys zs = [rowOp j.vop xs]) ∧
  (∀ (m : Mat) bp k n (s t : State) cs, (readRow m k 0 n).go s = (.ok cs, t) →
    (readInputs m bp k true n).go s = (.ok (cs.map fun c => (decodeNum m.fmt bp c).r32), t)) ∧
  (∀ (s : State) (pos fmt bp rnd extra : Nat) (vs : List Machine.Num) es, es = convertAll fmt bp rnd (at_ s.tiles.gen pos 0) vs →
    s.convert pos fmt bp rnd extra false vs =
      (es.1.map (·.code), ((es.1.filter (·.sat)).length + extra, (es.1.filter (·.nan)).length, es.2), s) ∧
    (∀ k, ∃ fs : List Enc, s.convert pos fmt bp rnd k true vs = (fs.map (·.code), ((fs.filter (·.sat)).length,
      (fs.filter (·.nan)).length, es.2), { s with free := s.free + vs.length }) ∧ fs = freeCodes fmt s.free vs.length)) ∧
  (∀ (fmt bp rnd : Nat) (gen : BitVec 32) (v : Machine.Num) (vs : List Machine.Num) h, h = (if rnd = 2 then nextGen gen else gen) →
    convertAll fmt bp rnd gen (v :: vs) = (encodeNum fmt bp rnd (Config.rand16 h).toNat v :: (convertAll fmt bp rnd h vs).1,
      (convertAll fmt bp rnd h vs).2)) ∧
  (∀ (fa fb : Nat) (row col sa sb : List Nat), fmtInt fa = true → fmtInt fb = true → ∀ ps : List Int,
    ps = ((row.zip col).map fun p => sgn (fmtWidth fa) p.1 * sgn (fmtWidth fb) p.2) →
    (∀ k, -2147483648 ≤ (ps.take k).sum ∧ (ps.take k).sum ≤ 2147483647) → dot fa fb false row col sa sb = (.int ps.sum, 0)) ∧
  (∀ (fa fb x y : Nat) (v : Int) (n : Nat) (r : List (Nat × Nat)), fmtInt fa = true → fmtInt fb = true → ∀ q : Int,
    q = v + sgn (fmtWidth fa) x * sgn (fmtWidth fb) y →
    intDot v n ((x, y) :: r) (decodeNum fa 0) (decodeNum fb 0) = intDot (max (-2147483648) (min 2147483647 q))
      (n + b2n (decide (q < -2147483648 ∨ 2147483647 < q))) r (decodeNum fa 0) (decodeNum fb 0)) ∧
  (∀ (fa fb : Nat) (blocks : Bool) (row col sa sb : List Nat), fmtInt fa = false ∨ fmtInt fb = false ∨ blocks = true →
    ∀ scale, scale = (fun (l : List Nat) (k : Nat) => match l[k]? with | some x => e8m0 x | none => Machine.Num.ofInt 1) →
    dot fa fb blocks row col sa sb =
      (.flt (fltDot (decodeNum fa 0) (decodeNum fb 0) (scale sa) (scale sb) (row.length + 1) 0 .zero (row.zip col)), 0)) ∧
  (∀ (fx fy sa sb : Nat → Machine.Num) (k j : Nat) (v : Machine.Num) (ps : List (Nat × Nat)), fltDot fx fy sa sb (k + 1) j v [] = v ∧
    (ps ≠ [] → fltDot fx fy sa sb (k + 1) j v ps = fltDot fx fy sa sb k (j + 1)
      (v.add32 ((((blockSum ((ps.take 32).map fun p => (fx p.1).mul_ (fy p.2))).mul_ (sa j)).mul_ (sb j)).r32)) (ps.drop 32))) ∧
  (∀ (j : MatJob) (a : Int) (x : Acc) (p q c : Machine.Num) (neg : Bool) (m : Nat) (e : Int),
    scaleAdd j x none none none = (x.num, 0) ∧
    scaleAdd j x (some p) (some q) none = ((x.num.r32.mul32 p).mul32 q, 0) ∧
    (fmtInt j.c.fmt = true → ∀ z : Int, z = a + (if neg then -(m : Int) else m) →
      scaleAdd j (.int a) none none (some (.fin neg m e)) =
        (.ofInt (max (-2147483648) (min 2147483647 z)), b2n (decide (z < -2147483648 ∨ 2147483647 < z)))) ∧
    (fmtInt j.c.fmt = false → scaleAdd j x none none (some c) = ((x.num.r32.add_ c).r32, 0))) ∧
  (∀ (imm x y z : Machine.Num), vecOp 0 imm x y z = x.add32 y ∧ vecOp 1 imm x y z = x.sub32 y ∧ vecOp 2 imm x y z = x.mul32 y ∧
    vecOp 3 imm x y z = ((x.mul_ y).add_ z).r32 ∧ vecOp 4 imm x y z = x.max_ y ∧ vecOp 5 imm x y z = x.min_ y ∧
    vecOp 6 imm x y z = x.add32 imm ∧ vecOp 7 imm x y z = x.mul32 imm ∧ vecOp 8 imm x y z = x.max_ .zero ∧
    vecOp 9 imm x y z = x ∧ (∀ vop, 9 < vop → vecOp vop imm x y z = vecFun vop x.bits32) ∧
    (∀ xs, rowOp 0x20 (x :: xs) = xs.foldl Machine.Num.add32 x ∧ rowOp 0x21 (x :: xs) = xs.foldl Machine.Num.max_ x) ∧ rowOp 0x20 [] = .zero))

/-- Elements are converted (R146, R149, R150). Every finite value that a format holds is written as the code it was read from, under
each rounding; a value beyond an integer format, FX32, FP4, FP8 or FP16 saturates and is counted, an infinity of a format that has
one is written as it is, and a NaN as the table says; what a target does not hold is rounded toward zero, to the
nearest with ties to even, or up when r < 2^16 times the fraction lost. -/
def Obligations.ElementsAreConverted : Prop :=
  (∀ (f bp rnd r code : Nat), f ≤ 9 → code < 2 ^ fmtWidth f → (f ≤ 5 ∨ f = 9 → code ≠ 2 ^ (fmtWidth f - 1)) →
    (∃ n m e, decodeNum f bp code = .fin n m e) → encodeNum f bp rnd r (decodeNum f bp code) = { code := code }) ∧
  (∀ (f bp rnd r : Nat) (v : Machine.Num) (w : Nat), w = fmtWidth f → f = 0 ∨ f = 2 ∨ f = 5 →
    (v = .nan → encodeNum f bp rnd r v = { code := 0 }) ∧
    (∀ neg m, v = .inf neg ∨ (2 ^ (w - 1) - 1 < m ∧ v = .fin neg m 0) → encodeNum f bp rnd r v =
      { code := if neg then 2 ^ (w - 1) else 2 ^ (w - 1) - 1, sat := true }) ∧
    (∀ z : Int, z.natAbs < 2 ^ (w - 1) → encodeNum f bp rnd r (.ofInt z) = { code := (BitVec.ofInt w z).toNat })) ∧
  (∀ (bp rnd r : Nat) (neg : Bool),
    encodeNum 1 bp rnd r .nan = { code := 0 } ∧ encodeNum 3 bp rnd r .nan = { code := 0x7F, nan := true } ∧
    encodeNum 4 bp rnd r .nan = { code := 0x7E, nan := true } ∧ encodeNum 6 bp rnd r .nan = { code := 0x7E00, nan := true } ∧
    encodeNum 7 bp rnd r .nan = { code := 0x7FC0, nan := true } ∧ encodeNum 8 bp rnd r .nan = { code := 0x7FC00000, nan := true } ∧
    encodeNum 9 bp rnd r .nan = { code := 0x80000000, nan := true } ∧
    encodeNum 1 bp rnd r (.inf neg) = { code := if neg then 0xF else 7, sat := true } ∧
    encodeNum 3 bp rnd r (.inf neg) = { code := if neg then 0xFE else 0x7E, sat := true } ∧
    encodeNum 4 bp rnd r (.inf neg) = { code := if neg then 0xFC else 0x7C } ∧
    encodeNum 6 bp rnd r (.inf neg) = { code := if neg then 0xFC00 else 0x7C00 } ∧
    encodeNum 7 bp rnd r (.inf neg) = { code := if neg then 0xFF80 else 0x7F80 } ∧
    encodeNum 8 bp rnd r (.inf neg) = { code := if neg then 0xFF800000 else 0x7F800000 } ∧
    encodeNum 9 bp rnd r (.inf neg) = { code := if neg then 0x80000001 else 0x7FFFFFFF, sat := true } ∧
    ∀ m, (6 < m → encodeNum 1 bp 1 r (.fin neg m 0) = { code := if neg then 0xF else 7, sat := decide (8 ≤ m) }) ∧
      (480 ≤ m → encodeNum 3 bp rnd r (.fin neg m 0) = { code := if neg then 0xFE else 0x7E, sat := true }) ∧
      (65536 ≤ m → encodeNum 4 bp rnd r (.fin neg m 0) = { code := if neg then 0xFB else 0x7B, sat := true } ∧
        encodeNum 6 bp rnd r (.fin neg m 0) = { code := if neg then 0xFBFF else 0x7BFF, sat := true })) ∧
  ∀ (r m k q : Nat),
    (q = roundQ 1 r m k → q * 2 ^ k ≤ m ∧ m < (q + 1) * 2 ^ k) ∧
    (q = roundQ 0 r m k → 2 * (q * 2 ^ k) ≤ 2 * m + 2 ^ k ∧ 2 * m ≤ 2 * (q * 2 ^ k) + 2 ^ k ∧
      (2 * (q * 2 ^ k) = 2 * m + 2 ^ k ∨ 2 * m = 2 * (q * 2 ^ k) + 2 ^ k → q % 2 = 0)) ∧
    roundQ 2 r m k = roundQ 1 r m k + b2n (decide (r * 2 ^ k < 65536 * (m - roundQ 1 r m k * 2 ^ k)))

/-- The bytes that the work of a list changes (R138, R140, R143, R154, R174, R204, R253, R313, R316): a store changes its own bytes; a block of a
MATMUL whose C is no scatter window, the elements of C that it computes; an element delivered to the scatter window, the 4 bytes of
its place in OUT; a band of a VECTOR, its rows of Z; the local writes of a unit of a MOVE, the destinations of the unit's cells; the solver its rows of a matrix; the
attention unit its rows, with STATS the statistics of each head, and the rows of gradients.
Every other byte of memory is as before, but for those that turn undefined beside the store (the ring of a collector, and what
launches beside it wrote: log entries 70 and 100). -/
def Obligations.ListWorkWritesItsRunsOnly : Prop :=
  ∀ (s : State),
    (∀ va bs, WritesOnly (writeM va bs) s [(va, bs.length)]) ∧
    (∀ (j : MatJob) g pos r0 c0 nr nc rs, rs = j.c.blockRuns r0 c0 nr nc →
      (∀ x ∈ rs, ∀ p ∈ split4k x.1 x.2, ∀ da, s.target p.1 .wr ≠ .ok (da, .scatter)) →
      WritesOnly (matBlock j g pos (r0, c0, nr, nc)) s rs) ∧
    (∀ (b : Book) va x, WritesOnly (scatterOne b va x) s [(va, 4)]) ∧
    (∀ (j : VecJob) src g pos r0 nr, j.z.win = false →
      WritesOnly (vecBand j src g pos r0 nr) s (j.z.blockRuns r0 0 nr j.z.cols)) ∧
    (∀ (j : MoveJob) got (o : UnitOut) cells u v, (moveUnit j got o cells).go s = (.ok u, v) → v.mem.cells = s.mem.cells ∧
      ∀ w ∈ u.writes, w ∈ o.writes ∨ ∃ n ∈ cells, ∃ idx, w.1 = (j.cell (pointOf j.ext n) idx).dst ∧
        j.written (j.cell (pointOf j.ext n) idx) = true) ∧
    (∀ ws here far, s.splitWrites ws = .ok (here, far) → ∀ a bs, (a, bs) ∈ here → ∃ d, (d, bs) ∈ ws ∧ s.ownerOf d = .here a) ∧
    (∀ ws, WritesOnly (writeHere ws) s (ws.map fun w => (w.1, w.2.length))) ∧
    (∀ bad va ws, WritesOnly (putWords bad va ws) s [(va, 8 * ws.length)]) ∧
    (∀ (m : MatAt) (rows : List (List Nat)), WritesOnly (m.write rows) s (rows.zipIdx.map fun r => (m.at_ r.2 0, 4 * r.1.length))) ∧
    (∀ (c : AttCmd) (m : KvModel) free (b : Block), WritesOnly (writeBlock c m free b) s (b.flatMap fun x =>
      (c.o.at_ x.1.idx, (x.2.2.map fun r => r.o.length).sum * attElem c.fo) ::
        if c.stats then (List.range x.2.2.length).map fun h => (c.statVa + 8 * (x.1.idx * m.qHeads + h), 8) else [])) ∧
    (∀ free (r : Rows) (a : Array (Array Machine.Num)), WritesOnly (writeGrad free r a) s
      (a.toList.zipIdx.map fun x => (r.at_ x.2, 4 * x.1.size)))

/-- Tiles that fail (R159, R160): a working position whose quadrant's spare is free waits for it; one without a spare, or that
the spare itself serves, is retired, with its log entry, and with the last of its group the group's launches end FAULTED and
the fog cause begins. A known-answer test of a position or lane that works, is powered, and has no work, outside FOG, takes its
time; one that fails is a fault of that position or lane. A position has work when the command at which its group's list stands
deals it a block. A position or lane untested for 1 s is logged, and then waits another second. (Waiting for
LAMP_CHANGER_SWITCH, and retiring at once without a spare, is log entry 84.) Completes: tileFault, knownAnswerTest,
katStarved. -/
def Obligations.TilesFailAndAreTested : Prop :=
  ∀ (s : State),
    (∀ pos : Fin 64, s.works pos.val = true → ∀ f g, f = s.faults → g = pos.val / 4 →
      (f.tileSpareGone.getLsbD (pos.val / 16) = false → f.tileSubst.getLsbD pos.val = false →
        Does (.tileFault pos) s (s.enqueue { cls := 2, unit := pos.val }) ∧
        (s.enqueue { cls := 2, unit := pos.val }).waitsSpare 2 pos.val = true) ∧
      (f.tileSpareGone.getLsbD (pos.val / 16) = true ∨ f.tileSubst.getLsbD pos.val = true → ∀ m u,
        m = ~~~ BitVec.ofNat 64 (2 ^ pos.val) →
        u = ({ s with faults := { f with tileIn := f.tileIn &&& m, tileSubst := f.tileSubst &&& m } }).log 0x02 2 pos.val 0 0 0 →
        (u.inService g g = true → Does (.tileFault pos) s u) ∧
        (u.inService g g = false → Does (.tileFault pos) s ((u.failTarget g g).addCause .tileGroup 0x02 pos.val)))) ∧
    (∀ pos : Fin 64, s.works pos.val = false → exec (.tileFault pos) s = .next s) ∧
    (∀ u, (s.testable u = true ↔ s.dev.state ≠ .fog ∧ match u with
      | .tile p => s.works p.val = true ∧ s.tiles.groups[p.val / 4].gated = false
      | .lane n => if n.val = 16 then s.faults.laneSpareGone = false
        else s.faults.laneIn.getLsbD n.val = true ∧ s.waitsSpare 3 n.val = false) ∧
      (s.testable u = false → ∀ pass, exec (.knownAnswerTest u pass) s = .next s)) ∧
    (∀ pos : Fin 64, s.testable (.tile pos) = true →
      (s.dealsWork pos.val = true → ∀ pass, exec (.knownAnswerTest (.tile pos) pass) s = .next s) ∧
      (s.dealsWork pos.val = false → ∀ u, u = { s.countTile (s.tileOf pos.val) 0x16 1 with
          tiles := { s.tiles with katAt := put s.tiles.katAt pos.val s.time.counter } } →
        Does (.knownAnswerTest (.tile pos) true) s u ∧ Does (.knownAnswerTest (.tile pos) false) s (u.tileFails pos.val))) ∧
    (∀ pos : Fin 64, (s.runningAt (pos.val / 4) (pos.val / 4) = none → s.dealsWork pos.val = false) ∧
      ∀ l, s.runningAt (pos.val / 4) (pos.val / 4) = some l → s.dealsWork pos.val =
        ((s.positions (pos.val / 4)).take (s.blocksAt (pos.val / 4) l)).contains pos.val) ∧
    (∀ n : Fin 17, s.testable (.lane n) = true → ∀ u, u = { s with
        solver := { s.solver with katAt := put s.solver.katAt n.val s.time.counter } } →
      (s.runningAt 0x21 16 ≠ none → ∀ pass, exec (.knownAnswerTest (.lane n) pass) s = .next s) ∧
      (s.runningAt 0x21 16 = none →
        Does (.knownAnswerTest (.lane n) true) s u ∧
        (n.val < 16 → Does (.knownAnswerTest (.lane n) false) s (u.laneFails n.val)) ∧
        (n.val = 16 → Does (.knownAnswerTest (.lane n) false) s u.spareLaneFails))) ∧
    (∀ u at' unit, at' = s.tested u → unit = (match u with | .tile p => p.val | .lane n => n.val) →
      (s.keeperUp = true → s.testable u = true → at' + cycSec ≤ s.time.counter →
        Does (.katStarved u) s ((s.markTested u).log 0x0E 0 unit 0 0 0) ∧ (s.markTested u).tested u = s.time.counter) ∧
      (s.keeperUp = false ∨ s.testable u = false ∨ s.time.counter < at' + cycSec → exec (.katStarved u) s = .next s))

/-! ### Layout engine (ch. 07) -/

/-- The list commands of the layout engine (R162, R163, R167, R170, R174, R176, R182): none begins while a MOVE waits for
another device. A NOP goes on 128 bytes behind; a MOVE that fails a check is counted, latches its address when it is the first,
writes nothing and goes on; of any other the units of work are done in turn, each with the accesses to other devices that it
must wait for, and the list goes on after the last; a unit that faults ends the run with a task fault that names it. (That
nothing begins while a MOVE waits is log entry 34; what an undefined MOVE writes, 46; how a unit sends its reads, asks for its
writes and sends them, 47; the pieces that a faulting write leaves, 64.) Owner tables and the layout registers (R179 to R181,
R484): a table in range that overlaps no other is stored with the entries that the keeper reads, FAULTED without a change where
that read faults, and BAD_ARG for word 0 where it overlaps another, or BLOCK_SHIFT, COUNT or BASE is out of range, and for word
2 where only the address of the entries is; a clear removes it; the status answers four words; XE_ERR clears the bits written
as 1. Registers that clear on reading (R9, R158, R179, R272, R318, R343): the read answers the count, which is then 0, and only
the count and the record of the read change. Completes: ttSatRead, ttNanRead, xeErrWrite, xeOobReadRead, xeOobWriteRead,
svSatRead, svPivotRead, svNarRead, svWarmRead, kvCopiesRead, kvNopageRead, mmEccCeRead, mmEccUeRead, xeNop, move, xeSetOwner,
xeClearOwner, xeGetStatus. -/
def Obligations.LayoutCommandsAndRegisters : Prop :=
  (∀ (s t : State) (op : Nat) (l : Launch) (ws : List Word), s.Runs t 0x22 16 128 op l ws →
    (s.moveWaits = true → exec .xeNop s = .next s ∧ exec .move s = .next s) ∧
    (s.moveWaits = false →
      (xeNopOp op = true → Goes .xeNop s l 16 128 t) ∧
      (op = 0x40 → ∀ j pc first, j = moveJob ws → pc = l.pcOf 0x22 16 → first = (!t.layout.errAlign && !t.layout.errZstride) →
        (j.alignOk = false → Goes .move s l 16 128 (({ t with layout := { t.layout with
          errAlign := true, errZstride := t.layout.errZstride || !j.strideOk, errVa := if first then pc else t.layout.errVa
          alignFails := sat32 (t.layout.alignFails + 1) } }).count 18 0x55 1)) ∧
        (j.alignOk = true → j.strideOk = false → Goes .move s l 16 128 (({ t with layout := { t.layout with
          errZstride := true, errVa := if first then pc else t.layout.errVa
          zstrideFails := sat32 (t.layout.zstrideFails + 1) } }).count 18 0x55 1)) ∧
        (j.alignOk = true → j.strideOk = true → ∀ m : MoveRun,
          m = { launch := l.id, va := pc, desc := ws, unit := 0, got := [], asked := false, writing := false
                undef := t.moveUndefined j, regions := t.mem.regions } →
          (∀ u, moveUnits j j.units m t.moveOver = (.next, u) → Goes .move s l 16 128 u) ∧
          (∀ u, moveUnits j j.units m t.moveOver = (.hold, u) → Holds .move s l 0x22 16 ws u) ∧
          ∀ u n, moveUnits j j.units m t.moveOver = (.fault n, u) → Breaks .move s l 16 pc n u))) ∧
    ∀ (j : MoveJob) (m : MoveRun) (cells : List Nat) (rest : List (List Nat)) (v : State) work,
      work = (withRegions m.regions (moveUnit j m.got { undef := m.undef, dsts := m.dsts, srcs := m.srcs } cells)).go v →
      moveUnits j [] m v = (.next, v.moveOver) ∧
      (∀ e u, work = (.error e, u) → moveUnits j (cells :: rest) m v = (.fault m.unit, u.moveOver)) ∧
      (∀ o u own w, work = (.ok o, u) → o.undef = m.undef → o.far = [] → u.splitWrites o.writes = .ok (own, []) →
        ((withRegions m.regions (writeHere own)).go u = (.ok (), w) → moveUnits j (cells :: rest) m v = moveUnits j rest
          { m with unit := m.unit + 1, got := [], asked := false, writing := false, dsts := o.dsts, srcs := o.srcs } (w.unitDone j o)) ∧
        ∀ e, (withRegions m.regions (writeHere own)).go u = (.error e, w) →
          moveUnits j (cells :: rest) m v = (.fault m.unit, w.moveOver))) ∧
  (∀ (s : State) (ch : Fin 33) (c : Cmd) (b : State) (i shift count base va : Nat), b = s.begun ch → i = bits (wAt c.words 0) 3 0 →
    shift = bits (wAt c.words 0) 36 32 → count = bits (wAt c.words 0) 28 16 → base = bits (wAt c.words 1) 47 0 →
    va = bits (wAt c.words 2) 47 0 →
    (s.Begins ch 0x640 3 c → 12 ≤ shift → shift ≤ 30 → 1 ≤ count → count ≤ 4096 → base % 2 ^ shift = 0 → va % 8 = 0 →
      ((∀ k o, k < 16 → k ≠ i → at_ s.layout.owners k none = some o → base + count * 2 ^ shift ≤ o.base ∨
          o.base + o.entries.length * 2 ^ o.shift ≤ base) →
        (∀ bs u, b.keeperRead va (8 * count) = (some bs, u) → Makes (.xeSetOwner ch) s ch c { u with layout := { u.layout with
          owners := put u.layout.owners i (some { shift := shift, base := base, entries := bytesWords count bs }) } }) ∧
        ∀ u, b.keeperRead va (8 * count) = (none, u) → Makes (.xeSetOwner ch) s ch c u [] 7) ∧
      ((∃ k o, k < 16 ∧ k ≠ i ∧ at_ s.layout.owners k none = some o ∧ base < o.base + o.entries.length * 2 ^ o.shift ∧
          o.base < base + count * 2 ^ shift) → Refuses (.xeSetOwner ch) s ch c 2 0)) ∧
    (s.Begins ch 0x640 3 c → shift < 12 ∨ 30 < shift ∨ count < 1 ∨ 4096 < count ∨ base % 2 ^ shift ≠ 0 →
      Refuses (.xeSetOwner ch) s ch c 2 0) ∧
    (s.Begins ch 0x640 3 c → 12 ≤ shift → shift ≤ 30 → 1 ≤ count → count ≤ 4096 → base % 2 ^ shift = 0 → va % 8 ≠ 0 →
      (∀ k o, k < 16 → k ≠ i → at_ s.layout.owners k none = some o → base + count * 2 ^ shift ≤ o.base ∨
        o.base + o.entries.length * 2 ^ o.shift ≤ base) → Refuses (.xeSetOwner ch) s ch c 2 2) ∧
    (s.Begins ch 0x641 1 c → Makes (.xeClearOwner ch) s ch c { b with layout := { b.layout with
      owners := put b.layout.owners i none } }) ∧
    (s.Begins ch 0x642 0 c → ∀ w0 : Word, w0 = wd ((List.range 16).foldl (fun a t =>
        a + b2n (at_ s.layout.owners t none).isSome * 2 ^ t) 0) → Tells (.xeGetStatus ch) s ch c [w0,
      pack [(s.layout.alignFails, 63, 32), (s.layout.zstrideFails, 31, 0)],
      pack [(s.layout.oobReadTotal, 63, 32), (s.layout.oobWriteTotal, 31, 0)], wd s.layout.remoteFaults]) ∧
    (∀ v : Reg, exec (.xeErrWrite v) s = .next { s with layout := { s.layout with
      errAlign := s.layout.errAlign && !v.getLsbD 0, errZstride := s.layout.errZstride && !v.getLsbD 1 } })) ∧
  (∀ (s : State) (p : Nat → Pins), p = (fun n => { s.pins with lastRead := some (.reg (rg n)) }) →
    (∀ g : Fin 16, ∀ x, x = s.tiles.groups[g] →
      exec (.ttSatRead g) s = .next { s with
        pins := p x.sat, tiles := { s.tiles with groups := s.tiles.groups.set g { x with sat := 0 } } } ∧
      exec (.ttNanRead g) s = .next { s with
        pins := p x.nan, tiles := { s.tiles with groups := s.tiles.groups.set g { x with nan := 0 } } }) ∧
    exec .xeOobReadRead s = .next { s with layout := { s.layout with oobRead := 0 }, pins := p s.layout.oobRead } ∧
    exec .xeOobWriteRead s = .next { s with layout := { s.layout with oobWrite := 0 }, pins := p s.layout.oobWrite } ∧
    exec .svSatRead s = .next { s with solver := { s.solver with sat := 0 }, pins := p s.solver.sat } ∧
    exec .svPivotRead s = .next { s with solver := { s.solver with pivot := 0 }, pins := p s.solver.pivot } ∧
    exec .svNarRead s = .next { s with solver := { s.solver with nar := 0 }, pins := p s.solver.nar } ∧
    exec .svWarmRead s = .next { s with solver := { s.solver with warm := 0 }, pins := p s.solver.warm } ∧
    exec .kvCopiesRead s = .next { s with kv := { s.kv with copies := 0 }, pins := p s.kv.copies } ∧
    exec .kvNopageRead s = .next { s with kv := { s.kv with nopage := 0 }, pins := p s.kv.nopage } ∧
    exec .mmEccCeRead s = .next { s with mem := { s.mem with ce := 0 }, pins := p s.mem.ce } ∧
    exec .mmEccUeRead s = .next { s with mem := { s.mem with ue := 0 }, pins := p s.mem.ue })

/-- TENSOR accesses of other devices (R176, R375, R376, R378, R381, R439): between an enumeration and the next reset a device
with a position serves them through its own region table, outside FOG, a read with the bytes, a write and the question whether
it would be taken with an acknowledgement, and one that faults with a fault answer; what is for another position goes on
through the other port; a device without a position, one that no enumeration has reached, and one whose port toward the sender
is not up, takes none. (The other devices as operands, and traffic only after an enumeration query, are log entry 77; asking
before a write, 47; bytes where a running launch reads or writes, 70.) TENSOR responses and their timeout (R176, R178, R381):
an answer within 5 ms, through a port that is up, takes its access off the list of those outstanding; a read's bytes go to its
cell; when none is outstanding the MOVE goes on. A fault answer and a missing one end the MOVE, which is then no longer in
progress, with a task fault. (The order of a unit's accesses, and REMOTE_FAULTS without timeouts, are log entry 47; answers as
operands, 77.) Completes: tensorRequestRx, tensorResponseRx, tensorTimeout. -/
def Obligations.TensorAccessesBetweenDevices : Prop :=
  (∀ (s : State) (pos : BitVec 6) (p : Nat), p = s.portTo pos.toNat →
    (s.portUp p = false ∨ s.position = none ∨ s.chain.enumerated = false → ∀ a, exec (.tensorRequestRx pos a) s = .next s) ∧
    (s.portUp p = true → s.chain.enumerated = true → ∀ own, s.position = some own →
      let answers := fun a (u : State) bs r => Does (.tensorRequestRx pos a) s (u.sendMsg p flitTensor bs (some (.tensorReply pos r)))
      (s.dev.state = .fog →
        (∀ va n, Does (.tensorRequestRx pos (.read va n)) s (s.recvFlits p (flitsOf 0)) ∧
          Does (.tensorRequestRx pos (.check va n)) s (s.recvFlits p (flitsOf 0))) ∧
        ∀ va bs, Does (.tensorRequestRx pos (.write va bs)) s (s.recvFlits p (flitsOf bs.length))) ∧
      (s.dev.state ≠ .fog →
        (∀ va n t u, t = s.recvFlits p (flitsOf 0) →
          (∀ bs, (readM va.toNat n).go t.outsideLaunch = (.ok bs, u) → ∀ a, a = (t.backIn u).amidLaunch va.toNat bs →
            answers (.read va n) a.2 a.1 (.data a.1)) ∧
          (∀ e, (readM va.toNat n).go t.outsideLaunch = (.error e, u) → answers (.read va n) (t.backIn u) [] .fault) ∧
          (∀ ps, (checkWrite va.toNat n).go t.outsideLaunch = (.ok ps, u) → answers (.check va n) (t.backIn u) [] .ack) ∧
          ∀ e, (checkWrite va.toNat n).go t.outsideLaunch = (.error e, u) → answers (.check va n) (t.backIn u) [] .fault) ∧
        (∀ va bs t a, t = s.recvFlits p (flitsOf bs.length) → a = t.writeBeside va.toNat bs →
          answers (.write va bs) a.2 [] (if a.1 then .ack else .fault))) ∧
      (∀ (dst : BitVec 6) cls bs q t, q = s.portTo dst.toNat → t = s.recvFlits p (flitsOf bs.length) →
        (own = dst.toNat ∨ q = p → Does (.tensorRequestRx pos (.transit dst cls bs)) s t) ∧
        (own ≠ dst.toNat → q ≠ p → Does (.tensorRequestRx pos (.transit dst cls bs)) s
          (t.sendMsg q cls bs (some (.passed q cls bs))))))) ∧
  (∀ (s : State) (id : Nat) (q : Remote), s.layout.remote.find? (·.id = id) = some q →
    (s.portUp q.port = false ∨ q.since + 5 * cycMs < s.time.counter → ∀ r, exec (.tensorResponseRx id r) s = .next s) ∧
    (s.portUp q.port = true → s.time.counter ≤ q.since + 5 * cycMs → ∀ u, u = (fun n => State.recvFlits { s with
        layout := { s.layout with remote := s.layout.remote.filter (·.id ≠ id) } } q.port (flitsOf n)) → ∀ m, s.layout.move = some m →
      (∀ bs v, q.write = false → v = { u bs.length with
          layout := { (u bs.length).layout with move := some { m with got := insertKey m.got q.cell bs } } } →
        Does (.tensorResponseRx id (.data bs)) s v.resumeMove) ∧
      (q.write = true → Does (.tensorResponseRx id .ack) s (u 0).resumeMove) ∧
      (∀ v, v = { u 0 with layout := { (u 0).layout with remoteFaults := sat32 (s.layout.remoteFaults + 1) } } →
        Does (.tensorResponseRx id .fault) s (v.moveOver.taskFault 0x22 16 m.va m.unit))) ∧
    (∀ m, s.layout.move = some m → q.since + 5 * cycMs ≤ s.time.counter →
      Does (.tensorTimeout id) s (s.moveOver.taskFault 0x22 16 m.va m.unit)) ∧
    (s.time.counter < q.since + 5 * cycMs → exec (.tensorTimeout id) s = .next s) ∧
    (∀ m l, s.layout.move = some m → s.runningAt 0x22 16 = some l → l.id = m.launch →
      (s.layout.remote ≠ [] → s.resumeMove = s) ∧
      (s.layout.remote = [] → ∀ j, j = moveJob m.desc →
        ∀ x, x = moveUnits j (j.units.drop m.unit) m (s.byLaunch l.id) →
          s.resumeMove = s.after (x.1, x.2.byNone) l 16 128 m.va)) ∧
    (∀ v : State, v.moveOver.layout.move = none ∧ v.moveOver.layout.remote = []))

/-! ### Point-cloud engine (ch. 08) -/

/-- The commands of the point-cloud engine (R183, R185, R187, R189 to R191, R194, R196 to R201, R207, R209): a NOP goes on 128
bytes behind; each other command goes on with what it did where every access of it succeeds, and ends its run with a task fault
where one faults. FRAME_BEGIN opens a new frame with its reference time, no site and no point, and keeps the books; a DESKEW
notes the words of its queue when it begins, and where its last unit has not all its words it waits, having kept only what it
noted; FRAME_END closes the open frame and does nothing without one. A point of a deskewed unit is counted in the cell in which
it lies in the reference axes, and its record stored there if it has room; one of another epoch, without a pose, or outside the
box is counted instead. RULES puts into its book slot the kind, level, addresses and strides of its descriptor, and the counts
of the rules that it has built of the sites of the level, or with REUSE the header and rules of SRC_BOOK; no other slot
changes. NEIGHBOURS writes for each query the indices of the first K references within RADIUS, or of the K nearest, and their
number. (Commands without an open frame, the flags of a reference and the cleared cell table are log entry 49; a waiting
DESKEW, 50.) Completes: vxNop, frameBegin, deskew, rules, frameEnd, neighbours. -/
def Obligations.PointCloudCommands : Prop :=
  (∀ (s t : State) (op : Nat) (l : Launch) (ws : List Word), s.Runs t 0x20 16 128 op l ws →
    ∀ pc works, pc = l.pcOf 0x20 16 → works = (fun i (u : State) (x : TaskM Unit) => Works i s u l 16 128 pc x) →
    (vxNopOp op = true → Goes .vxNop s l 16 128 t) ∧
    (op = 0x60 → works .frameBegin t (frameBegin l ws) ∧
      ∀ u, (frameBegin l ws).go t = (.ok (), u) → u.cloud.isOpen = true ∧ u.cloud.cmd = ws ∧ u.cloud.sites = 0 ∧
        u.cloud.points = 0 ∧ u.cloud.books = t.cloud.books ∧ u.cloud.users = [l.id] ∧
        u.cloud.ref = t.refTime l (b2n (bit (wAt ws 0) 55)) (wAt ws 1) (wAt ws 2)) ∧
    (op = 0x61 → ∀ q n f read, q = bits (wAt ws 0) 53 48 → f = t.frameUse l.id →
      ((∀ id at' k, f.cloud.noted = some (id, at', k) → ¬ (id = l.id ∧ at' = pc)) → n = (t.queue q).occupancy) →
      (∀ k, f.cloud.noted = some (l.id, pc, k) → n = k) →
      read = (deskewLoop q (bits (wAt ws 0) 47 32) (bits (wAt ws 1) 47 3 * 8) (wAt ws 2) n (bits (wAt ws 0) 15 0) (n + 1100) 0 0
        none).go (f.cloudCount fun c => { c with noted := none }) →
      (∀ u, read = (.ok true, u) → Goes .deskew s l 16 128 u) ∧
      (∀ u, read = (.ok false, u) → Holds .deskew s l 0x20 16 ws (f.cloudCount fun c => { c with noted := some (l.id, pc, n) })) ∧
      ∀ e u, read = (.error e, u) → Breaks .deskew s l 16 pc 0 u) ∧
    (op = 0x62 → works .rules (t.frameUse l.id) (rulesCmd ws)) ∧
    (op = 0x63 → works .frameEnd (t.frameUse l.id) frameEnd ∧
      (t.cloud.isOpen = false → Goes .frameEnd s l 16 128 t) ∧
      ∀ u, t.cloud.isOpen = true → frameEnd.go (t.frameUse l.id) = (.ok (), u) → u.cloud = { (t.frameUse l.id).cloud with
        isOpen := false, recordAt := some t.cloud.recordVa, users := [], mixed := false }) ∧
    (op = 0x64 → works .neighbours t (neighboursCmd ws))) ∧
  (∀ (v : State) (sweep geomVa : Nat) (u : UnitIn) (d : Word) t, t = u.pointTime d →
    (epochOf t.flags ≠ epochOf v.cloud.ref.flags → (deskewPoint sweep geomVa u d).go v =
      (.ok (), v.cloudCount fun c => { c with epochMiss := sat32 (c.epochMiss + 1) })) ∧
    (epochOf t.flags = epochOf v.cloud.ref.flags → v.cloud.pose = none ∨ v.poseAt t = none → (deskewPoint sweep geomVa u d).go v =
      (.ok (), v.cloudCount fun c => { c with egoMiss := sat32 (c.egoMiss + 1) })) ∧
    (∀ ref pt geom w k, epochOf t.flags = epochOf v.cloud.ref.flags → v.cloud.pose = some ref → v.poseAt t = some pt →
      (readWords (geomVa + 8 * bits d 48 42) 1).go v = (.ok geom, w) → k = v.cloud.edgeK → ∀ pr,
      pr = u.deskewed ref.load pt (sensorPoint d (wAt geom 0)) →
      (cellOf pr.1 k = none ∨ cellOf pr.2.1 k = none ∨ cellOf pr.2.2 k = none → (deskewPoint sweep geomVa u d).go v =
        (.ok (), w.cloudCount fun c => { c with outOfBox := sat32 (c.outOfBox + 1) })) ∧
      (∀ x y z inside, cellOf pr.1 k = some x → cellOf pr.2.1 k = some y → cellOf pr.2.2 k = some z →
        (inside = true ↔ ∀ a < 3, ∀ c : Int, c = (if a = 0 then x else if a = 1 then y else z) →
          sgn 16 (bits (wAt v.cloud.cmd 3) (16 * a + 15) (16 * a)) ≤ c ∧ c ≤ sgn 16 (bits (wAt v.cloud.cmd 4) (16 * a + 15) (16 * a))) →
        (inside = false → (deskewPoint sweep geomVa u d).go v =
          (.ok (), w.cloudCount fun c => { c with outOfBox := sat32 (c.outOfBox + 1) })) ∧
        (inside = true → v.cloud.points = 2097152 → ∃ w', w'.cloud = { v.cloud with
            overflow := v.cloud.overflow ||| BitVec.ofNat 64 (2 ^ u.entry) } ∧ (deskewPoint sweep geomVa u d).go v = (.ok (), w')) ∧
        (inside = true → v.cloud.points ≠ 2097152 → (deskewPoint sweep geomVa u d).go v =
          (insertPoint { x := x, y := y, z := z, level := 0 } sweep (u.record sweep k d pr ((t.t - v.cloud.ref.t + 32768) / 65536))).go
            ((w.cloudCount fun c => { c with points := c.points + 1 }).count 17 0x40 1))))) ∧
  (∀ (v u : State) (k : Key) (sweep : Nat) (rec : List Word),
    ((findOrCreate v.cloud.badHash k).go v = (.ok none, u) → (insertPoint k sweep rec).go v = (.ok (), u)) ∧
    (∀ slot w1 stored site, (findOrCreate v.cloud.badHash k).go v = (.ok (some (slot, w1)), u) → stored = bits w1 29 24 →
      site = bits w1 17 0 → ∀ cell, cell = (fun n => putWords v.cloud.badHash (v.cloud.hashVa + 16 * slot) [k.word,
        pack [(min 65535 (bits w1 63 48 + 1), 63, 48), (max (bits w1 47 32) sweep, 47, 32), (n, 29, 24), (site, 17, 0)]]) →
      (stored < v.cloud.slots → (insertPoint k sweep rec).go v =
        (do putWords v.cloud.badPoints (v.cloud.pointVa + (site * v.cloud.slots + stored) * 16) rec; cell (stored + 1) : TaskM Unit).go u) ∧
      (v.cloud.slots ≤ stored → (insertPoint k sweep rec).go v =
        (cell stored).go (u.cloudCount fun c => { c with notStored := sat32 (c.notStored + 1) })))) ∧
  (∀ (v u : State) (bad : Bool) (k : Key),
    (∀ slot w1, (probe k).go v = (.ok (.found slot w1), u) → (findOrCreate bad k).go v = (.ok (some (slot, w1)), u)) ∧
    (∀ slot, (probe k).go v = (.ok (.empty slot), u) → u.cloud.sites < 262144 → ∀ w1 w, (createCell bad k slot).go u = (.ok w1, w) →
      (findOrCreate bad k).go v = (.ok (some (slot, w1)), w) ∧ w1 = pack [(u.cloud.sites, 17, 0)] ∧ w.cloud.sites = u.cloud.sites + 1) ∧
    ((probe k).go v = (.ok .none, u) ∨ (∃ slot, (probe k).go v = (.ok (.empty slot), u) ∧ 262144 ≤ u.cloud.sites) →
      (findOrCreate bad k).go v = (.ok none, u.dropCell k))) ∧
  (∀ (v u : State) (ws : List Word) (w0 : Word) (book : Nat) (x : Book) reuse src, (rulesCmd ws).go v = (.ok (), u) → w0 = wAt ws 0 →
    book = bits w0 55 50 → x = at_ u.cloud.books book {} → reuse = bit w0 43 → src = v.book (bits w0 41 36) →
    (∀ i, i ≠ book → at_ u.cloud.books i {} = at_ v.cloud.books i {}) ∧
    x.inVa = bits (wAt ws 1) 47 5 * 32 ∧ x.inLd = bits (wAt ws 1) 63 48 ∧ x.outVa = bits (wAt ws 2) 47 5 * 32 ∧
    x.outLd = bits (wAt ws 2) 63 48 ∧
    (reuse = true → x.kind = src.kind ∧ x.ks = src.ks ∧ x.level = src.level ∧ x.count = src.count ∧ x.start = src.start ∧
      x.rulesVa = src.rulesVa ∧ (bits w0 41 36 ≠ book → x.src = some (bits w0 41 36))) ∧
    (reuse = false → x.kind = bits w0 49 48 ∧ x.ks = (if bits w0 49 48 = 0 then bits w0 47 46 else 0) ∧ x.level = bits w0 45 44 ∧
      x.rulesVa = bits (wAt ws 6) 47 12 * 4096 ∧ x.src = none) ∧
    (reuse = false → rulesBad x.kind x.ks x.level ws = false → v.cloud.badHash = false → ∀ b w,
      (scanSites false x.kind x.ks x.level (wAt ws 8) (List.range v.cloud.sites) {}).go v = (.ok b, w) →
      (w.clashes (w.rulesAreas ws false x.kind x.level b.total (4 * offsetsOf x.kind x.ks + 1))
        (w.cloud.areas ++ w.bookAreas (some book))).getD 0 false = false → w.cloud.mixed = false →
      x.count = (List.range (offsetsOf x.kind x.ks)).map (fun o => (b.rules.filter fun r => r.1 == o).length) ∧
      ∀ o < 125, x.count.getD o 0 ≠ 0 → x.start.getD o 0 = (x.count.take o).sum)) ∧
  (∀ (va n : Nat) (rules : List Rule) (count start : List Nat) (dropped total : Nat), writeBook false va n rules count start dropped total =
    (do
      putAll false (va + 1024) ((((List.range n).map fun o => rules.filter fun r => r.1 == o).flatten).map fun r =>
        [pack [(r.2.2, 63, 32), (r.2.1, 31, 0)]])
      putWords false va ((List.range 125).map fun o => pack [(count.getD o 0, 63, 32), (start.getD o 0, 31, 0)])
      putWords false (va + 1016) [pack [(dropped, 63, 32), (total, 31, 0)]])) ∧
  (∀ (v u : State) (ks site o : Nat) (k m : Key), m = k.neighbour ks o →
    (keyOk m = false → (submRule ks site k o).go v = (.ok [], v)) ∧
    (∀ slot w1, keyOk m = true → (probe m).go v = (.ok (.found slot w1), u) →
      (submRule ks site k o).go v = (.ok [(o, bits w1 17 0, site)], u)) ∧
    (∀ p, keyOk m = true → (probe m).go v = (.ok p, u) → (∀ slot w1, p ≠ .found slot w1) → (submRule ks site k o).go v = (.ok [], u)) ∧
    (∀ dx dy dz : Int, -ks ≤ dx → dx ≤ ks → -ks ≤ dy → dy ≤ ks → -ks ≤ dz → dz ≤ ks →
      (o : Int) = (dx + ks) + (2 * ks + 1) * (dy + ks) + (2 * ks + 1) ^ 2 * (dz + ks) →
      m = { x := k.x + dx, y := k.y + dy, z := k.z + dz, level := k.level }) ∧
    (∀ bad slot w1, (findOrCreate bad { x := k.x / 2, y := k.y / 2, z := k.z / 2, level := k.level + 1 }).go v =
      (.ok (some (slot, w1)), u) → (downRule bad site k).go v =
        (.ok [((k.x % 2).toNat + 2 * (k.y % 2).toNat + 4 * (k.z % 2).toNat, site, bits w1 17 0)], u)) ∧
    (∀ bad, (findOrCreate bad { x := k.x / 2, y := k.y / 2, z := k.z / 2, level := k.level + 1 }).go v = (.ok none, u) →
      (downRule bad site k).go v = (.ok [], u)) ∧
    (∀ (w8 : Word) (a b : Int), a = (k.x - sgn 16 (bits w8 63 48)) / 2 ^ bits w8 31 29 →
      b = (k.y - sgn 16 (bits w8 47 32)) / 2 ^ bits w8 31 29 → mapRule w8 site k =
        if 0 ≤ a ∧ a < bits w8 26 16 ∧ 0 ≤ b ∧ b < bits w8 10 0 then [(0, site, b.toNat * bits w8 26 16 + a.toNat)] else [])) ∧
  (∀ (v u : State) (knn : Bool) (k nq qVa outVa q : Nat) (r2 : Machine.Num) (refs : List V3) p ds L,
    (pointAt (qVa + 16 * q)).go v = (.ok p, u) → ds = refs.map (fun x => dist2 x p) → L = select knn k r2 ds →
    (neighbourQuery knn k nq qVa outVa r2 refs q).go v =
      (do writeM (outVa + 4 * k * q) ((L ++ List.replicate (k - L.length) 0xFFFFFFFF).map (leBytes 4)).flatten
          writeM (outVa + 4 * k * nq + 4 * q) (leBytes 4 L.length) : TaskM Unit).go u ∧
    (∀ i ∈ L, i < ds.length ∧ ds.getD i .nan ≠ .nan) ∧ L.length ≤ k ∧
    (knn = false → L = ((List.range ds.length).filter fun i =>
      ds.getD i .nan != .nan && (ds.getD i .nan).leq r2).take k))

/-- The nearest points (R209): KNN selects K references or all that have a distance, in ascending distance, of equal ones the lower
index first, and no reference left out comes before a selected one. -/
def Obligations.NearestPointsAreSelected : Prop :=
  ∀ (k : Nat) (r2 : Machine.Num) (ds : List Machine.Num) (L : List Nat) (before : Nat → Nat → Prop), L = select true k r2 ds →
    (∀ a b, before a b ↔ (ds.getD a .nan).leq (ds.getD b .nan) = true ∧ ((ds.getD b .nan).leq (ds.getD a .nan) = true → a < b)) →
    L.length = min k (ds.filter (· != .nan)).length ∧ L.Pairwise before ∧
    ∀ a ∈ L, ∀ b < ds.length, b ∉ L → ds.getD b .nan ≠ .nan → before a b

/-- Voxel keys (R192, R193): a cell's first word gives back the key that it was written for, level and all three signed
coordinates, so two keys that fit never share a cell word. -/
def Obligations.CellWordsTellKeysApart : Prop :=
  ∀ (j k : Key), (∀ m, m = j ∨ m = k → keyOk m = true ∧ m.level < 4) → (j.at_ k.word = true ↔ j = k)

/-! ### Ego estimator and buoys (ch. 09) -/

/-- EGO_UPDATE (R215 to R219, R438). A launch past its deadline does nothing, nor does one with no keeper pair left or while a
lane waits for its spare. A launch without a configured estimator, or of a lost one without an inertial unit, ends FAULTED;
while a unit waits for its words nothing changes (log entry 53); otherwise the launch ends with what the update did. An update
without any source unit coasts: it writes the state at the launch's slot instant. The state written holds the estimate
propagated to its time and flags, and joins the history; a sample of three signed values for each of gyroscope and
accelerometer counts to 100 in an alignment, then sets position and velocity to 0, and its bias-corrected rate is the state's.
A launch that propagates over no time changes no quantity. (Propagation is a free function: log entry 9.) TRACK (R225 to R237):
while a lane waits for its spare nothing happens; where its accesses succeed the list goes on, with the table, the sensor
records and the counts that the twelve steps leave; where one faults the run ends with a task fault. A deadline that passes
while a launch with a deadline runs the command cuts it and marks the launch (R229, R263; the deadline is an operand: log
entries 34 and 54). Completes: egoUpdate, track. -/
def Obligations.EgoUpdatesAndTracks : Prop :=
  ((∀ (s v : State) (l : Launch), s.runningAt 0x21 16 = some l → l.ego = true → v = s.byLaunch l.id →
    (((∃ d, l.deadline = some d ∧ d < s.time.line) ∨ s.keeperUp = false ∨ s.laneWaits = true) → exec .egoUpdate s = .next s) ∧
    ((∀ d, l.deadline = some d → s.time.line ≤ d) → s.keeperUp = true → s.laneWaits = false →
      (s.ego.configured = false → Does .egoUpdate s (s.endRun l 16 true)) ∧
      (∀ u, (egoTask l).go v = (.ok none, u) → exec .egoUpdate s = .next s) ∧
      (∀ f u, (egoTask l).go v = (.ok (some f), u) → Does .egoUpdate s (u.byNone.endRun l 16 f)) ∧
      (∀ e u, (egoTask l).go v = (.error e, u) → Does .egoUpdate s (u.byNone.taskFault 0x21 16 0 0)) ∧
      (s.ego.configured = true → s.egoSources = [] → ∀ a b,
        a = (if s.ego.fresh then { s with ego := { s.ego with fresh := false, aligning := true, alignCount := 0 } } else s) →
        b = { a with ego := { a.ego with discarded := sat32 a.ego.discarded } } →
        (s.ego.lost = true → Does .egoUpdate s (b.endRun l 16 true)) ∧
        (s.ego.lost = false → Does .egoUpdate s (State.endRun ((if b.ego.aligning ∧ b.ego.alignCount = 0 then b.freshEst else b).writeEgo
          { t := l.slotAt / 4294967296, flags := s.time.flags } 0 0 0) l 16 false))))) ∧
  (∀ (s : State) (time : Inst) (imu use bad : Nat) (g : Ego), g = s.ego.propagate time (if imu = 0 then [] else s.ego.sample) →
    imu ≤ 255 → use - bad ≤ 255 → (∀ a < 3, (sgn 32 ((g.written time).raw a)).natAbs < 536870912) →
    (s.writeEgo time imu use bad).ego.hist = ({ w := put (g.written time).w 2 (pack [
        (b2n s.ego.aligning + 2 * b2n (imu = 0) + 4 * b2n (use = bad) + 16 * b2n (bad ≠ 0), 63, 48), (s.ego.odoShifts.toNat, 47, 32),
        (imu, 15, 8), (use - bad, 7, 0)]) } :: s.ego.hist).take 256 ∧
    (s.writeEgo time imu use bad).ego.coast = (if imu = 0 then s.ego.coast + 1 else 0)) ∧
  (∀ (s : State) (u : EgoUnit) (g : Ego) smp, smp = s.ego.sampleOf s.free u → g = (s.egoSample u).ego →
    g.sample = smp ∧ g.estAt = u.time ∧
    (s.ego.aligning = true → s.ego.alignCount + 1 < 100 → g.aligning = true ∧ g.alignCount = s.ego.alignCount + 1) ∧
    (s.ego.aligning = true → 100 ≤ s.ego.alignCount + 1 → g.aligning = false ∧ g.alignCount = 0 ∧
      ∀ i, i < 3 ∨ (7 ≤ i ∧ i < 10) → at_ g.est i 1 = 0) ∧
    (∀ i < 3, (at_ g.est (10 + i) 0).toNat = fxRaw ((do
      fxAdd (← fxFrom (f32 (smp.getD i 0)) 24) 24 (g.val (13 + i)) (errorBp 9) 24 true : FxM Fx).run {}).1)) ∧
  (∀ (g : Ego) (t : Inst) smp, (g.propagate t smp).estAt = t ∧ (t.t = g.estAt.t → (g.propagate t smp).est = g.est) ∧
    ∀ i, 10 ≤ i → i < 13 → at_ (g.propagate t smp).est i 0 = at_ g.est i 0)) ∧
  (∀ (s t : State) (l : Launch) (ws : List Word), s.Runs t 0x21 16 128 0x70 l ws → ∀ (cut : DeadlineCut),
    (t.laneWaits = true → exec (.track cut) s = .next s) ∧
    (t.laneWaits = false →
      (∀ u, (trackTask cut l ws).go t = (.ok (), u) →
        (l.deadline = none ∨ (∀ ds, cut ≠ .after ds) → Goes (.track cut) s l 16 128 u) ∧
        (∀ ds, l.deadline.isSome = true → cut = .after ds → Goes (.track cut) s l 16 128 (u.markCut l))) ∧
      (∀ e u, (trackTask cut l ws).go t = (.error e, u) → Breaks (.track cut) s l 16 (l.pcOf 0x21 16) 0 u)))

/-- The steps of TRACK (R222, R225 to R232, R234, R235). Step 2 sets T_STATE, moves nothing over no time or from another GEN or
epoch, and otherwise gives F x and F P transpose(F) + Q, with dt^k / k! in F for the k-th rate of an axis. A pair passes the fine
gate at most at GATE, the coarse one at most at GATE times COARSE_MUL, and neither without a value. Step 5 takes pairs in ascending
order of d2, detection and slot: no detection twice, no buoy twice from an entry or more than 8 times, and it leaves a pair only for
one that does not come after it. A pair of sensors counts fails and passes in a row. A buoy that took nothing is missed; one that
completes with numbers is hit and takes LAST_ENTRY; one that misses the deadline or gives NaR stays and is counted. Each live buoy
changes state as the table of R230 has it. Step 9 lays a buoy in the lowest free slot with its values, or counts it as dropped; its
binary points are free (log entry 24). E moves by a sixteenth. A LIFTED buoy loses VALID, a live one does not. -/
def Obligations.BuoysAreTracked : Prop :=
  (∀ (b : Buoy) (n : Noise) (t : Inst) (k : Notes) (stamped : Buoy → Buoy) (dt : Int), dt = t.t - b.time.t →
    stamped = (fun c => { c with ws := (c.ws.set 2 t.stamp.w0).set 3 t.stamp.w1 }) →
    (epochOf b.time.flags ≠ epochOf t.flags ∨ dt = 0 → (b.predict n t).run k = (stamped b, k)) ∧
    (epochOf b.time.flags = epochOf t.flags → dt ≠ 0 → ∀ f k1 q k2 x k3 m k4 p k5,
      (motionF b.comps dt (b.point 0)).run k = (f, k1) → (motionQ n b.comps (b.model = 2) dt.natAbs (b.point 2)).run k1 = (q, k2) →
      (f.times b.xs b.bpX).run k2 = (x, k3) → (f.times b.ps (b.point 3)).run k3 = (m, k4) →
      (q.addTimes false m f.flip b.bpP).run k4 = (p, k5) → (b.predict n t).run k = (stamped (b.withVals x p), k5))) ∧
  (∀ (comps : List Nat) (dt : Int) (bp : Nat) (f : FxMat) (k k' : Notes), (motionF comps dt bp).run k = (f, k') →
    ∀ i j, i < comps.length → j < comps.length →
      (i = j → f.at_ i j = fxOne bp) ∧
      (∀ x a b, i ≠ j → chainOf (comps.getD i 0) = some (x, a) → chainOf (comps.getD j 0) = some (x, b) → a < b →
        f.at_ i j = ((fxQuot (dt ^ (b - a)) (fact (b - a) * secUnits ^ (b - a)) bp).run {}).1) ∧
      (i ≠ j → (∀ x a b, chainOf (comps.getD i 0) = some (x, a) → chainOf (comps.getD j 0) = some (x, b) → ¬ a < b) →
        f.at_ i j = some 0)) ∧
  (∀ (b : Buoys) (g : Gated),
    (b.fine g = true ↔ ∃ v k, g.d2 = some v ∧ b.gate g.det.mdim = some k ∧ v ≤ k) ∧
    (b.coarse g = true ↔ ∃ v k m, g.d2 = some v ∧ b.gate g.det.mdim = some k ∧ b.coarseMul = some m ∧ v * 65536 ≤ k * m)) ∧
  (∀ (fs taken : List Gated), taken = associate fs →
    (∀ g ∈ taken, g ∈ fs) ∧
    taken.Pairwise (fun g h => g.det.idx ≠ h.det.idx ∧ (g.slot = h.slot → g.det.entry ≠ h.det.entry) ∧ h.before g = false) ∧
    (∀ n, (taken.filter (·.slot == n)).length ≤ 8) ∧
    ∀ g ∈ fs, g ∉ taken →
      (∃ h ∈ taken, g.before h = false ∧ (h.det.idx = g.det.idx ∨ (h.slot = g.slot ∧ h.det.entry = g.det.entry))) ∨
      8 ≤ (taken.filter fun h => h.slot == g.slot && !g.before h).length) ∧
  (∀ (r : PairRec) clear fails passes,
    (passes < fails → r.cycle clear fails passes = { r with fails := min 255 (r.fails + 1), passes := 0 }) ∧
    (fails ≤ passes → passes ≠ 0 → ∀ n, n = min 255 (r.passes + 1) → r.cycle clear fails passes =
      { fails := 0, passes := n, dwA := if n < clear then r.dwA else false, dwB := if n < clear then r.dwB else false }) ∧
    (fails = 0 → passes = 0 → r.cycle clear fails passes = r)) ∧
  (∀ (v : State) (keep : Nat → Bool) (t : Inst) (k : Nat) (b : Buoy) (r : List Buoy) (taken : List Gated) (ds : List Det),
    ds = (taken.filter (·.slot == b.slot)).map (·.det) →
    (ds = [] → updateAll keep t taken k (b :: r) = (do return (b, .miss) :: (← updateAll keep t taken k r))) ∧
    (ds ≠ [] → updateAll keep t taken k (b :: r) =
      (do let x ← updateBuoy keep t k b ds; return x :: (← updateAll keep t taken (k + 1) r))) ∧
    (keep k = false → (updateBuoy keep t k b ds).go v =
      (.ok (b, .neither), { v with solver := { v.solver with missed := sat32 (v.solver.missed + 1) } })) ∧
    (∀ es c n, es = ds.foldl (fun a d => insertDet d a) [] → keep k = true → (b.update v.buoys v.trackPivots t es).run {} = (c, n) →
      (∀ b', c = some b' → b'.noNar = true → ∃ u, (updateBuoy keep t k b ds).go v =
        (.ok (b'.set0 ((es.getLast?.map (·.entry)).getD 0) 18 13, .hit), u) ∧ u.solver.numeric = sat32 v.solver.numeric) ∧
      ((∀ b', c = some b' → b'.noNar = false) → ∃ u, (updateBuoy keep t k b ds).go v = (.ok (b, .neither), u) ∧
        u.solver.numeric = sat32 (v.solver.numeric + 1)))) ∧
  (∀ (v : State) (b b1 b0 : Buoy) (c : Cycle) (seen : Bool) (n : Nat), b1 = b.set0 ((b.hits * 2 + b2n (c = .hit)) % 256) 42 35 →
    b0 = { b1 with ws := b1.ws.set 1 (pack [(b1.id, 63, 32), ((b.age + 1) % 2 ^ 32, 31, 0)]) } → n = b0.state →
    ∀ gives : Buoy → State → Prop, gives = (fun x u => v.manageBuoy b c seen = (x, u)) →
    (b0.wide v.buoys.pMax = true → gives (b0.set0 3 62 61) (v.countLift 0)) ∧
    (b0.wide v.buoys.pMax = false →
      (n = 0 →
        (v.buoys.m ≤ hitBits ((b.hits * 2 + b2n (c = .hit)) % 256) v.buoys.n →
          gives (b0.set0 1 62 61) (v.btEvent 0 0 3 (wd b0.id))) ∧
        (hitBits ((b.hits * 2 + b2n (c = .hit)) % 256) v.buoys.n < v.buoys.m → v.buoys.n ≤ (b.age + 1) % 2 ^ 32 →
          gives (b0.set0 3 62 61) (v.countLift 1)) ∧
        (hitBits ((b.hits * 2 + b2n (c = .hit)) % 256) v.buoys.n < v.buoys.m → (b.age + 1) % 2 ^ 32 < v.buoys.n → gives b0 v)) ∧
      (n = 1 → (c = .hit → gives (b0.set0 0 34 27) v) ∧
        (c = .miss → seen = true → gives ((b0.set0 1 34 27).set0 2 62 61) v) ∧
        (c = .miss → seen = false → gives (b0.set0 2 62 61) v) ∧ (c = .neither → gives b0 v)) ∧
      (n = 2 → (c = .hit → gives ((b0.set0 0 34 27).set0 1 62 61) v) ∧
        (c = .miss → seen = true → v.buoys.coastMax ≤ b0.misses + 1 → gives (b0.set0 3 62 61) (v.countLift 2)) ∧
        (c = .miss → seen = true → b0.misses + 1 < v.buoys.coastMax → gives (b0.set0 (b0.misses + 1) 34 27) v) ∧
        (c = .neither ∨ (c = .miss ∧ seen = false) → gives b0 v)))) ∧
  (∀ (v : State) (t : Inst) (d : Det) (r : List Det) (bs : List Buoy) (n k : Nat),
    ((∀ i < 4096, ∃ b ∈ bs, b.slot = i) → layAll t (d :: r) bs n k v = layAll t r bs n (k + 1) v) ∧
    (∀ slot id, slot < 4096 → (∀ b ∈ bs, b.slot ≠ slot) → (∀ i < slot, ∃ b ∈ bs, b.slot = i) →
      id = (if v.buoys.wrapped then freeId ((bs.filter (·.live)).map (·.id)) 4097 v.buoys.nextId else v.buoys.nextId) →
      ∃ b u, layAll t (d :: r) bs n k v = layAll t r (insertBuoy b bs) (n + 1) k u ∧ u.buoys.nextId = idAfter id ∧
        ∃ bpX bpP, b = ((layBuoy t d slot id bpX bpP v.buoys.initVar).run {}).1)) ∧
  (∀ (t : Inst) (d : Det) (slot id bpX bpP : Nat) (iv : Fx) (b : Buoy) (comps meas : List Nat),
    b = ((layBuoy t d slot id bpX bpP iv).run {}).1 → comps = modelComps d.birthModel → meas = measComps d.mmodel →
    b.slot = slot ∧ wAt b.ws 0 = pack [(1, 63, 63), (0, 62, 61), (d.birthModel, 60, 57), (comps.length, 56, 53), (bpX, 52, 48),
      (bpP, 47, 43), (1, 42, 35), (0, 34, 27), (d.cls, 26, 19), (d.entry, 18, 13)] ∧
    wAt b.ws 1 = pack [(id, 63, 32), (1, 31, 0)] ∧ wAt b.ws 2 = t.stamp.w0 ∧ wAt b.ws 3 = t.stamp.w1 ∧
    (∀ i j, i < j → j < 12 → b.p i j = 0) ∧
    ∀ i < comps.length, (meas.findIdx? (· == comps.getD i 0) = none →
        b.x i = 0 ∧ b.p i i = fxRaw ((fxConv iv 0 bpP).run {}).1) ∧
      ∀ k, meas.findIdx? (· == comps.getD i 0) = some k →
        b.x i = fxRaw ((fxConv (fxOf (packed d.ws 3 k)) d.bpZ bpX).run {}).1 ∧
        b.p i i = fxRaw ((fxConv (fxOf (packed d.ws 6 k)) d.bpR bpP).run {}).1) ∧
  (∀ (v : State) (g : Gated) (old r x : Int), at_ v.buoys.e g.det.entry 65536 = old → g.det.mdim ≠ 0 → g.d2 = some x →
    r = divRne x g.det.mdim → (fxSat (old + (r - old) / 16)).1 = some (old + (r - old) / 16) →
    at_ (v.nis g).1.buoys.e g.det.entry 65536 = old + (r - old) / 16) ∧
  (∀ (va : Nat) (b : Buoy) (r : List Buoy),
    (b.live = true → freeLifted va (b :: r) = freeLifted va r) ∧
    (b.live = false → freeLifted va (b :: r) =
      (do writeWords (va + 512 * b.slot) [setField b.w0 0 63 63]; freeLifted va r)))

/-- The messages of the ego estimator (R242, R484): EGO_SET whose checks hold stores its eight words and makes the next launch
align, and is BAD_ARG for the first word that fails one; EGO_RESET begins an alignment (DECIM counts from an EGO_SET: log entry
53); EGO_GET answers the newest state, ten words of 0 without one. The messages of the buoys (R242, R243): BT_SET whose checks
hold, on a table that can be written, stores its nine words and frees every slot, and is BAD_ARG for the first word that fails
a check; BT_CLEAR frees them and does nothing before a BT_SET; either is FAULTED where the table cannot be written;
BT_GET_SENSOR answers an entry's record. (BT_CLEAR before a BT_SET, and the clearing of VALID alone: log entry 54.) Completes:
egoSet, egoReset, egoGet, btSet, btClear, btGetSensor. -/
def Obligations.EgoAndBuoyMessages : Prop :=
  (∀ (s : State) (ch : Fin 33) (c : Cmd) (b : State) (w : Nat → Word), b = s.begun ch → w = wAt c.words →
    (s.Begins ch 0x420 8 c → ∀ imu enc : Prop,
      (imu ↔ ∀ e : Fin 64, bit (w 0) e.val = true → (s.entry e.val).cls = 3) →
      (enc ↔ ∀ e : Fin 64, bit (w 1) e.val = true → (s.entry e.val).cls = 2) →
      (imu ∧ enc ∧ bits (w 6) 23 16 ≠ 0 ∧ bits (w 6) 15 0 ≤ 1000 → Makes (.egoSet ch) s ch c { b with
        ego := { s.ego with configured := true, fresh := true, decim := 0, cfg := Vector.ofFn fun (i : Fin 8) => w i.val } }) ∧
      (¬ imu → Refuses (.egoSet ch) s ch c 2 0) ∧ (imu → ¬ enc → Refuses (.egoSet ch) s ch c 2 1) ∧
      (imu → enc → bits (w 6) 23 16 = 0 ∨ 1000 < bits (w 6) 15 0 → Refuses (.egoSet ch) s ch c 2 6)) ∧
    (s.Begins ch 0x421 0 c → Makes (.egoReset ch) s ch c { b with ego := { s.ego with aligning := true, alignCount := 0 } }) ∧
    (s.Begins ch 0x422 0 c → Tells (.egoGet ch) s ch c (match s.ego.hist with
      | [] => List.replicate 10 0
      | e :: _ => e.w.toList))) ∧
  (∀ (s : State) (ch : Fin 33) (c : Cmd) (b : State), b = s.begun ch →
    (s.Begins ch 0x430 9 c → ∀ va w, w = wAt c.words → va = bits (w 0) 47 0 → ∀ ok0 ok1 ok5 ok6 : Prop,
      (ok0 ↔ va % 4096 = 0 ∧ b.mapped va 2097152 .rd = true ∧ b.mapped va 2097152 .wr = true) →
      (ok1 ↔ 1 ≤ bits (w 1) 63 60 ∧ bits (w 1) 63 60 ≤ bits (w 1) 59 56 ∧ bits (w 1) 59 56 ≤ 8 ∧ 1 ≤ bits (w 1) 55 48 ∧
        1 ≤ bits (w 1) 47 40 ∧ 1 ≤ bits (w 1) 39 32 ∧ 1 ≤ bits (w 1) 7 0) →
      (ok5 ↔ bits (w 5) 31 0 ≠ 0) → (ok6 ↔ 65536 ≤ sgn 32 (bits (w 6) 63 32) ∧ bits (w 6) 31 0 ≤ 1000000) →
      (ok0 → ok1 → ok5 → ok6 →
        (∀ u, b.freeTable va = (true, u) → Makes (.btSet ch) s ch c { u with
          buoys := { u.buoys with configured := true, cfg := Vector.ofFn fun (i : Fin 9) => w i.val } }) ∧
        (∀ u, b.freeTable va = (false, u) → Makes (.btSet ch) s ch c u [] 7)) ∧
      (¬ ok0 → Refuses (.btSet ch) s ch c 2 0) ∧ (ok0 → ¬ ok1 → Refuses (.btSet ch) s ch c 2 1) ∧
      (ok0 → ok1 → ¬ ok5 → Refuses (.btSet ch) s ch c 2 5) ∧ (ok0 → ok1 → ok5 → ¬ ok6 → Refuses (.btSet ch) s ch c 2 6)) ∧
    (s.Begins ch 0x431 0 c →
      (s.buoys.configured = false → Makes (.btClear ch) s ch c b) ∧
      (s.buoys.configured = true →
        (∀ u, b.freeTable s.buoys.tableVa = (true, u) → Makes (.btClear ch) s ch c u) ∧
        (∀ u, b.freeTable s.buoys.tableVa = (false, u) → Makes (.btClear ch) s ch c u [] 7))) ∧
    (∀ (v u : State) va, v.freeTable va = (true, u) → u.buoys = { v.buoys with live := 0 }) ∧
    (∀ (v u : State) va, v.freeTable va = (false, u) → u.buoys = v.buoys ∧ u.mem.cells = v.mem.cells) ∧
    (s.Begins ch 0x432 1 c → ∀ i, i = bits (wAt c.words 0) 5 0 → Tells (.btGetSensor ch) s ch c
      [pack [(fld 32 (at_ s.buoys.e i 65536), 63, 32), (at_ s.buoys.count i 0, 15, 0)], wd (b2n (s.buoys.down i))]))

/-! ### Batched solver (ch. 10) -/

/-- The commands of the solver (R247 to R250, R263 to R266): a NOP goes on 128 bytes behind; a SOLVE waits while a lane waits
for its spare, and otherwise runs problems that have not completed: all of them, or those of the groups that complete before
something comes upon it (the deadline, a launch of a higher class, a lane fault), each lane taking its groups in order. It goes
on when all have completed, or with the rest DEADLINE_MISSED where the deadline cuts it; else it stays in progress. It is a
task fault, whose DETAIL is the problem, when one faults. (Which problems complete before it is an operand: log entries 34 and
55; which of several faulting ones is the first: 22.) Lanes and solver messages (R266, R272, R274, R484): a lane in service
whose spare is free waits for it; without a spare, or when the spare itself served it, it is retired with its log entry, and
with the last lane the device enters FAULT_HALT (log entry 84). SV_GET_STATUS answers what R274 lists; SV_SET_REG stores
thresholds in their ranges and is BAD_ARG for the first word out of them. Completes: svNop, solve, solverLaneFault,
svGetStatus, svSetReg. -/
def Obligations.SolverCommandsAndMessages : Prop :=
  ((∀ (s t : State) (op : Nat) (l : Launch) (ws : List Word), s.Runs t 0x21 16 128 op l ws →
    (svNopOp op = true → Goes .svNop s l 16 128 t) ∧
    (op = 0x50 → ∀ cut, (t.laneWaits = true → exec (.solve cut) s = .next s) ∧
      (t.laneWaits = false → ∀ c ps n done ins o todo late higher lane run, c = solveOf ws → ps = c.probs t →
        n = t.laneList.length → done = l.resumes.elim [] Prod.fst →
        ins = l.resumes.elim (ps.map fun p => c.inputs p t) Prod.snd → o = c.opens ps (l.resumes.map Prod.snd) t →
        todo = (List.range c.count).filter (fun i => !done.contains i) → late = t.cutAt l cut → higher = t.higherWaits l 0x21 16 →
        lane = (fun i => t.laneList.getD (i % n) 0) →
        (∀ ds, late = some ds → run = settled n false todo ds) →
        (∀ ds, late = none → cut = .part ds → run = settled n higher todo ds) →
        (late = none → (∀ ds, cut ≠ .part ds) → run = if higher then [] else todo) →
        (∀ u, c.runAll o lane run t = (true, u) → ∀ r, r = c.faulted o lane n todo t → Breaks (.solve cut) s l 16 (l.pcOf 0x21 16) r.1 r.2) ∧
        (∀ u v rest, c.runAll o lane run t = (false, u) → v = u.count 16 0x31 (groupsEnded n todo run) →
          rest = todo.filter (fun i => !run.contains i) →
          (rest = [] → Goes (.solve cut) s l 16 128 v) ∧
          (rest ≠ [] → late ≠ none → Goes (.solve cut) s l 16 128 ((c.missed (o 0).status rest v).markCut l)) ∧
          (rest ≠ [] → late = none → Holds (.solve cut) s l 0x21 16 ws (v.holdSolve l (done ++ run) ins)))))) ∧
  (∀ (n : Nat) (todo ds : List Nat) (i : Nat),
    (i ∈ settled n false todo ds ↔ i ∈ todo ∧ i ∈ ds ∧ ∀ j ∈ todo, j % n = i % n → groupOn n j < groupOn n i → j ∈ ds) ∧
    (i ∈ settled n true todo ds → ∀ j ∈ todo, j % n = i % n → groupOn n j ≤ groupOn n i → j ∈ settled n true todo ds) ∧
    (∀ q r : Nat, i = n * (4 * q + r) + i % n → r < 4 → 0 < n → groupOn n i = q))) ∧
  (∀ (s : State) (ch : Fin 33) (c : Cmd) (lane : Fin 16) (f : Faults), f = s.faults →
    (f.laneIn.getLsbD lane.val = false ∨ s.waitsSpare 3 lane.val = true → exec (.solverLaneFault lane) s = .next s) ∧
    (f.laneIn.getLsbD lane.val = true → s.waitsSpare 3 lane.val = false →
      (f.laneSpareGone = false → f.laneSubst = none → Does (.solverLaneFault lane) s (s.enqueue { cls := 3, unit := lane.val }) ∧
        (s.enqueue { cls := 3, unit := lane.val }).waitsSpare 3 lane.val = true) ∧
      (f.laneSpareGone = true ∨ f.laneSubst ≠ none → ∀ u, u = ({ s with faults := { f with
          laneIn := f.laneIn &&& ~~~ BitVec.ofNat 16 (2 ^ lane.val)
          laneSubst := if f.laneSubst = some lane.val then none else f.laneSubst
          laneSpareGone := f.laneSpareGone || decide (f.laneSubst = some lane.val) } }).log 0x03 2 lane.val 0 0 0 →
        (u.lanes ≠ 0 → Does (.solverLaneFault lane) s u) ∧
        (u.lanes = 0 → Does (.solverLaneFault lane) s (u.enterHalt 0x03 lane.val)))) ∧
    (s.Begins ch 0x500 0 c → Tells (.svGetStatus ch) s ch c
      [pack [(s.lanes, 20, 16), (b2n f.laneSubst.isSome, 8, 8)], pack [(s.solver.problems, 63, 32), (s.solver.missed, 31, 0)],
        pack [(s.solver.regularised, 63, 32), (s.solver.numeric, 31, 0)],
        pack [(s.solver.warmTotal, 63, 32), (s.solver.satTotal, 31, 0)]]) ∧
    (s.Begins ch 0x501 3 c → ∀ fits : Nat → Prop, fits = (fun i => bits (wAt c.words i) 63 32 < 2147483648 ∧
        1 ≤ bits (wAt c.words i) 31 0 ∧ bits (wAt c.words i) 31 0 < 2147483648) →
      (fits 1 → fits 2 → Makes (.svSetReg ch) s ch c { s.begun ch with solver := { s.solver with
          trackReg := bit (wAt c.words 0) 1, egoReg := bit (wAt c.words 0) 0
          trackEps := bits (wAt c.words 1) 63 32, trackLambda := bits (wAt c.words 1) 31 0
          egoEps := bits (wAt c.words 2) 63 32, egoLambda := bits (wAt c.words 2) 31 0 } }) ∧
      (¬ fits 1 → Refuses (.svSetReg ch) s ch c 2 1) ∧ (fits 1 → ¬ fits 2 → Refuses (.svSetReg ch) s ch c 2 2)))

/-- The steps of an evaluation in progress (R246, R254, R255, R269): END ends it, and once it has ended no step does anything.
LDK takes the constant. ADD, SUB, MUL and MAC of values that are not NaR give the sum, the difference, the product and the sum
with the product at BP_S, RECIP the reciprocal and RSQRT that of the square root, each rounded to nearest even, saturated to
2^31 - 1 in magnitude and then counted; NaR comes of a NaR operand, of RECIP of 0 and of RSQRT of a value not above 0. SIN and
COS give a value within 2^-28 of the exact one at BP_S (which, is free: log entry 10). No other register changes. The steps
that load and store (R255, R265, R269, R270, R275): LDX takes an element of x, LDI and LDH the input of the problem, each
converted to BP_S; an input that cannot be read ends the evaluation. STA and STB set one element of A and B of the problem,
converted to its binary point; one that the problem does not have leaves the problem undefined, as an element that x does not
have does, whose value is free. Nothing else of the evaluation changes. Completes: asmEnd, ldx, ldi, ldh, ldk, add, sub, mul,
mac, sin, cos, recip, rsqrt, sta, stb. -/
def Obligations.AssemblySteps : Prop :=
  (∀ (s : State) (w k : Word) (a : Asm), a = s.solver.asm →
    (a.ended = true → ∀ i, i ∈ [Instr.asmEnd, .ldx w, .ldi w, .ldh w, .ldk w k, .add w, .sub w, .mul w, .mac w, .sin w, .cos w,
      .recip w, .rsqrt w, .sta w, .stb w] → exec i s = .next s) ∧
    (a.ended = false → ∀ (raw : Instr → BitVec 32 → Nat → Prop) (num : Instr → Int → Prop) (nar : Instr → Prop),
      raw = (fun i v n => Does i s (State.countSat { s with
        solver := { s.solver with asm := { a with s := put a.s (stDst w) v, sat := a.sat + n } } } n)) →
      num = (fun i v => raw i (BitVec.ofInt 32 (max (-2147483647) (min 2147483647 v)))
        (if 2147483647 < v ∨ v < -2147483647 then 1 else 0)) →
      nar = (fun i => raw i 0x80000000#32 0) → ∀ x y z, x = a.reg (stSa w) → y = a.reg (stSb w) → z = a.reg (stDst w) →
      Does .asmEnd s (State.countSat { s with solver := { s.solver with asm := { a with ended := true } } } 0) ∧
      raw (.ldk w k) (BitVec.ofNat 32 (bits k 31 0)) 0 ∧
      (∀ u v, x = some u → y = some v → num (.add w) (u + v) ∧ num (.sub w) (u - v) ∧ num (.mul w) (divRne (u * v) (2 ^ a.bpS)) ∧
        ∀ d, z = some d → num (.mac w) (divRne (d * 2 ^ a.bpS + u * v) (2 ^ a.bpS))) ∧
      (x = none ∨ y = none → nar (.add w) ∧ nar (.sub w) ∧ nar (.mul w) ∧ nar (.mac w)) ∧
      (z = none → nar (.mac w)) ∧
      (x = none → nar (.recip w) ∧ nar (.rsqrt w) ∧ nar (.sin w) ∧ nar (.cos w)) ∧
      (x = some 0 → nar (.recip w)) ∧ (∀ u, x = some u → u ≤ 0 → nar (.rsqrt w)) ∧
      (∀ u, x = some u → u ≠ 0 →
        num (.recip w) (divRne (if u < 0 then -(2 ^ (2 * a.bpS)) else 2 ^ (2 * a.bpS)) u.natAbs)) ∧
      (∀ u : Int, x = some u → 0 < u → ∃ q : Int, 0 ≤ q ∧ num (.rsqrt w) q ∧
        (q = 0 ∨ (2 * q - 1) ^ 2 * u ≤ 4 * 2 ^ (3 * a.bpS)) ∧ 4 * 2 ^ (3 * a.bpS) ≤ (2 * q + 1) ^ 2 * u ∧
        (4 * 2 ^ (3 * a.bpS) = (2 * q - 1) ^ 2 * u ∨ 4 * 2 ^ (3 * a.bpS) = (2 * q + 1) ^ 2 * u → q % 2 = 0)) ∧
      (∀ u, x = some u → ∀ cosine i, ((cosine = false ∧ i = .sin w) ∨ (cosine = true ∧ i = .cos w)) →
        ∃ e : Int, e.natAbs ≤ 2 ^ 32 ∧ num i (rescale (trigFix cosine u a.bpS + e) 60 a.bpS)))) ∧
  (∀ (s : State) (w : Word) (a : Asm), a = s.solver.asm → a.ended = false →
    ∀ takes : Instr → State → Asm → Nat → Prop, takes = (fun i u b n => Does i s
      (State.countSat { u with solver := { u.solver with asm := { b with sat := a.sat + n } } } n)) →
    ∀ loads : Instr → State → FxM Fx → Prop, loads = (fun i u f => takes i u
      { a with s := put a.s (stDst w) (BitVec.ofNat 32 (fxRaw (f.run {}).1)) } (f.run {}).2.sat) →
    (∀ v, a.x[stIdx w]? = some v → loads (.ldx w) s (fxConv (fxOf v.toNat) (a.bpX.getD (stIdx w) 0) a.bpS)) ∧
    (a.x[stIdx w]? = none → takes (.ldx w) { s with free := s.free + 1 }
      { a with undef := true, s := put a.s (stDst w) (Config.freeReg s.free) } 0) ∧
    (a.input = none → ∀ bs u,
      ((readM (a.argVa + 4 * stIdx w) 4).go s = (.ok bs, u) → loads (.ldi w) u (fxConv (fxOf (leNat bs)) a.bpIn a.bpS)) ∧
      ((readM (a.argVa + stIdx w) 2).go s = (.ok bs, u) → loads (.ldh w) u (fxRound (sgn 16 (leNat bs)) 0 a.bpS)) ∧
      ∀ e, ((readM (a.argVa + 4 * stIdx w) 4).go s = (.error e, u) → Does (.ldi w) s
          { u with solver := { u.solver with asm := { a with fault := true, ended := true } } }) ∧
        ((readM (a.argVa + stIdx w) 2).go s = (.error e, u) → Does (.ldh w) s
          { u with solver := { u.solver with asm := { a with fault := true, ended := true } } })) ∧
    (∀ bs, a.input = some bs →
      loads (.ldi w) { s with free := s.free + 4 } (fxConv (fxOf (leNat (grab s.free bs (4 * stIdx w) 4))) a.bpIn a.bpS) ∧
      loads (.ldh w) { s with free := s.free + 2 } (fxRound (sgn 16 (leNat (grab s.free bs (stIdx w) 2))) 0 a.bpS)) ∧
    (∀ f, f = (fxConv (a.reg (stSa w)) a.bpS a.bpA).run {} →
      (stRow w < a.rows → stCol w < a.cols → takes (.sta w) s { a with
        a := ((stRow w, stCol w), BitVec.ofNat 32 (fxRaw f.1)) :: a.a.filter fun e => e.1 != (stRow w, stCol w) } f.2.sat) ∧
      (a.rows ≤ stRow w ∨ a.cols ≤ stCol w → takes (.sta w) s { a with undef := true } 0)) ∧
    (∀ f, f = (fxConv (a.reg (stSa w)) a.bpS a.bpB).run {} →
      (stRow w < a.rows → takes (.stb w) s { a with
        b := (stRow w, BitVec.ofNat 32 (fxRaw f.1)) :: a.b.filter fun e => e.1 != stRow w } f.2.sat) ∧
      (a.rows ≤ stRow w → takes (.stb w) s { a with undef := true } 0)))

/-! ### Online calibration refinement (ch. 11) -/

/-- QUIET_POINT (R279, R280, R284, R285, R287): at an instant that is no quiet point nothing changes. At one, the flag clears,
the check slots and the proposals of enabled entries are copied first, then the restores that wait take effect, then the copied
slots and after them the copied proposals are examined, with cal_cap set between the two, and the sensors that they ask to mask
are masked. (The flag, and what a copy is examined against: log entry 58.) With no restore, no pair and no entry that refines,
every cal_cap is 255 and nothing else changes. A leading-light pair (R284): a pass clears the fails and counts, a fail clears
the passes and counts, both up to 255. The N-th fail in a row makes the pair failing: where of its two entries one alone is
isolated (of two pairs or more, all failing) that one's mask is asked for, else the pair holds and LL_FAIL is sent; the N-th
pass in a row ends the failing state, with LL_CLEAR if the pair holds. Nothing else comes of a pass or a fail. The calibration
messages (R284, R286, R287, R484): CL_ENABLE stores an entry's settings and keeps its counts (log entry 58), with bit 8 it also
sets both banks and the proposal of its record, with free values where records meet or the factory bank is no rotation (59);
CL_RESTORE queues the restore of an entry that refines and is WRONG_STATE for another; CL_SET_CHECKS ends the holds of the
pairs it replaces, each with LL_CLEAR, stores its pairs, ages and caps and clears its slots; CL_GET_STATUS answers an entry's
figures, SEQ from its record. A keeper access that faults gives FAULTED, and the first word that fails a check BAD_ARG.
Completes: quietPoint, clEnable, clRestore, clSetChecks, clGetStatus. -/
def Obligations.QuietPointsAndCalibration : Prop :=
  (∀ (s a b d e f g : State) (cs : List (Nat × Word × Word)) (ps : List (Nat × List Word)) (q r : Requests),
    (s.isQuiet = false → exec .quietPoint s = .next s) ∧
    (s.isQuiet = true → a = { s with calib := { s.calib with quiet := false, restores := [] } } →
      State.copyChecks (s.calib.checks.zipIdx.map fun p => (p.2, p.1)) a = (cs, b) →
      State.copyProposals (List.range 64) b = (ps, d) → e = s.calib.restores.foldl State.restore d →
      State.examineChecks cs [] e = (q, f) →
      State.examineAll ps q { f with calib := { f.calib with cap := Vector.ofFn fun (i : Fin 16) => f.calCap i.val } } = (r, g) →
      Does .quietPoint s (g.maskAll r)) ∧
    (s.isQuiet = true → s.calib.restores = [] → s.calib.checks = [] → (∀ e : Fin 64, (s.refine e.val).mask = 0) →
      exec .quietPoint s = .next { s with calib := { s.calib with quiet := false, cap := Vector.replicate 16 255 } })) ∧
  (∀ (s : State) (p : Nat) (c d f : Check), s.calib.checks[p]? = some c →
    d = { c with fails := 0, passes := min 255 (c.passes + 1) } → f = { c with passes := 0, fails := min 255 (c.fails + 1) } →
    (c.failing = true ∧ s.calib.passN ≤ d.passes →
      (c.holds = true → s.judge p c true = ([], (s.setCheck p { d with failing := false, holds := false }).clEvent c.a c.b 3 0)) ∧
      (c.holds = false → s.judge p c true = ([], s.setCheck p { d with failing := false, holds := false }))) ∧
    (¬ (c.failing = true ∧ s.calib.passN ≤ d.passes) → s.judge p c true = ([], s.setCheck p d)) ∧
    (c.failing = true ∨ f.fails < s.calib.failN → s.judge p c false = ([], s.setCheck p f)) ∧
    (c.failing = false → s.calib.failN ≤ f.fails → ∀ cs, cs = s.calib.checks.set p { f with failing := true } →
      (∀ x y, (x = c.a ∧ y = c.b ∨ x = c.b ∧ y = c.a) → isolated cs x = true → isolated cs y = false →
        s.judge p c false = ([(x, 4)], s.setCheck p { f with failing := true })) ∧
      (isolated cs c.a = isolated cs c.b →
        s.judge p c false = ([], (s.setCheck p { f with failing := true, holds := true }).clEvent c.a c.b 2 0))) ∧
    (∀ cs x, isolated cs x = true ↔ 2 ≤ (cs.filter fun k => k.a == x || k.b == x).length ∧
      ∀ k ∈ cs, k.a = x ∨ k.b = x → k.failing = true)) ∧
  (∀ (s : State) (ch : Fin 33) (c : Cmd) (b : State) (e : Nat) (w : Nat → Word), b = s.begun ch → w = wAt c.words →
    e = bits (w 0) 5 0 →
    (∀ r : Refine, r = { s.refine e with
        w0 := w 0, limits := (List.range 6).map fun g => (bits (w (g + 1)) 63 32, bits (w (g + 1)) 31 0) } →
      s.Begins ch 0x440 7 c → ∀ (ok0 : Prop) (fits : Nat → Prop),
      (ok0 ↔ s.recordVa e ≠ 0 ∧ r.mask &&& classComps (s.entry e).cls = r.mask) →
      (∀ g, fits g ↔ ((∃ i ∈ r.comps, compGroup i = g) → 1 ≤ bits (w (g + 1)) 63 32 ∧ 1 ≤ bits (w (g + 1)) 31 0)) →
      (¬ ok0 → Refuses (.clEnable ch) s ch c 2 0) ∧
      (ok0 → ∀ g < 6, (∀ h < g, fits h) → ¬ fits g → Refuses (.clEnable ch) s ch c 2 (g + 1)) ∧
      (ok0 → (∀ g < 6, fits g) → ∀ (t : State) va bad, t = b.setRefine e r → va = s.recordVa e →
        bad = (t.recordsMeet || !bankOk (bytesWords 16 (t.peek (bankVa va 2) 128))) →
        (bit (w 0) 8 = false →
          ((s.refine e).mask ≠ 0 → (s.refine e).keptAt = va → Makes (.clEnable ch) s ch c t) ∧
          ((s.refine e).mask = 0 ∨ (s.refine e).keptAt ≠ va → Makes (.clEnable ch) s ch c (t.keepRecord e))) ∧
        (bit (w 0) 8 = true →
          let work : TaskM Unit := do
            let f ← readWords (bankVa va 2) 16
            putCal bad (bankVa va 0) f
            putCal bad (bankVa va 1) f
            let h ← readWords va 1
            putCal bad va [wAt h 0 &&& 0x00000000FFFFFFFE#64]
            clearProposal bad va
          (∀ u, b.keeperDo work = (some (), u) → Makes (.clEnable ch) s ch c ((u.setRefine e r).keepRecord e)) ∧
          (∀ u, b.keeperDo work = (none, u) → Makes (.clEnable ch) s ch c u [] 7)))) ∧
    (s.Begins ch 0x441 1 c →
      ((s.refine e).mask ≠ 0 → Makes (.clRestore ch) s ch c { b with
        calib := { s.calib with restores := s.calib.restores ++ [e] } }) ∧
      ((s.refine e).mask = 0 → Refuses (.clRestore ch) s ch c 1 0xFFFF)) ∧
    (s.Begins ch 0x442 3 c → ∀ n cs va u t, n = bits (w 0) 5 0 → va = bits (w 1) 47 0 →
      cs = (List.range n).map (fun p => checkOf (w (3 + p))) →
      u = (s.calib.checks.filter fun k => k.failing && k.holds).foldl (fun t k => t.clEvent k.a k.b 3 0) b →
      t = { u with calib := { u.calib with
        checks := cs, checkVa := va, llCap := bits (w 2) 23 16, failN := bits (w 2) 15 8, passN := bits (w 2) 7 0
        cap := Vector.replicate 16 255 } } →
      (32 < n → Refuses (.clSetChecks ch) s ch c 2 0) ∧
      (n ≤ 32 → c.len < 3 + n → Refuses (.clSetChecks ch) s ch c 2 c.len) ∧
      (n ≤ 32 → 3 + n ≤ c.len → va % 16 ≠ 0 → Refuses (.clSetChecks ch) s ch c 2 1) ∧
      (n ≤ 32 → 3 + n ≤ c.len → va % 16 = 0 → bits (w 2) 15 8 = 0 ∨ bits (w 2) 7 0 = 0 → Refuses (.clSetChecks ch) s ch c 2 2) ∧
      (n ≤ 32 → 3 + n ≤ c.len → va % 16 = 0 → bits (w 2) 15 8 ≠ 0 → bits (w 2) 7 0 ≠ 0 → ∀ good : Nat → Prop,
        (∀ p, good p ↔ ∀ x, cs[p]? = some x → x.a < x.b ∧ ∀ q y, q ≠ p → cs[q]? = some y → ¬ (y.a = x.a ∧ y.b = x.b)) →
        (∀ p < n, (∀ q < p, good q) → ¬ good p → Refuses (.clSetChecks ch) s ch c 2 (3 + p)) ∧
        ((∀ p < n, good p) →
          (∀ v, t.keeperDo ((List.range n).forM fun p => putCal t.recordsMeet (va + 16 * p) [notRun]) = (some (), v) →
            Makes (.clSetChecks ch) s ch c v) ∧
          (∀ v, t.keeperDo ((List.range n).forM fun p => putCal t.recordsMeet (va + 16 * p) [notRun]) = (none, v) →
            Makes (.clSetChecks ch) s ch c { b with mem := v.mem, pm := v.pm } [] 7)))) ∧
    (s.Begins ch 0x443 1 c → ∀ resp : Nat → List Word, resp = (fun seq =>
        [pack [(seq, 63, 32), (b2n (s.calib.restores.contains e), 16, 16), (b2n (s.calib.held e), 8, 8),
            (b2n ((s.refine e).mask ≠ 0), 0, 0)],
          pack [((s.refine e).commits, 63, 32), ((s.refine e).clipped, 31, 0)],
          pack [((s.refine e).discarded, 63, 32), ((s.refine e).limitHits, 31, 0)],
          pack [((s.calib.checks.zipIdx.foldl (fun a p => if p.1.failing then a + 2 ^ p.2 else a) 0), 31, 0)]]) →
      (s.recordVa e = 0 → Makes (.clGetStatus ch) s ch c b (resp 0)) ∧
      (s.recordVa e ≠ 0 →
        (∀ ws u, b.keeperDo (readWords (s.recordVa e) 1) = (some ws, u) →
          Makes (.clGetStatus ch) s ch c u (resp (bits (wAt ws 0) 63 32))) ∧
        (∀ u, b.keeperDo (readWords (s.recordVa e) 1) = (none, u) → Makes (.clGetStatus ch) s ch c u [] 7))))

/-! ### Attention unit and key-value cache (ch. 12) -/

/-- The commands of the attention unit (R306, R307, R308, R315, R316): a NOP goes on 128 bytes behind; ATTEND, ATTEND_BWD and
PAGE_MOVE go on with what they did where every access of them succeeds, and end the run with a task fault where one faults; a
PAGE_MOVE of a sequence that is not live moves nothing. A page moves only to the other pool, to a place found there, with its
bytes, or is counted in KV_NOPAGE, without an event, where the pool has none (log entry 61). Completes: kvNop, attend,
attendBwd, pageMove. -/
def Obligations.AttentionCommands : Prop :=
  (∀ (s t : State) (op : Nat) (l : Launch) (ws : List Word), s.Runs t 0x23 16 128 op l ws → ∀ pc, pc = l.pcOf 0x23 16 →
    (kvNopOp op = true → Goes .kvNop s l 16 128 t) ∧
    (op = 0x80 → Works .attend s t l 16 128 pc (attendTask ws)) ∧
    (op = 0x81 → Works .attendBwd s t l 16 128 pc (attendBwdTask ws)) ∧
    (op = 0x82 → Works .pageMove s t l 16 128 pc (pageMoveTask ws) ∧
      (t.kv.seq (bits (wAt ws 0) 43 32) = none → Goes .pageMove s l 16 128 t))) ∧
  (∀ (s : State) (m : KvModel) (near : Bool) (i : Nat) (p : PageDesc), s.kv.model = some m → p = s.kv.page i →
    (p.near = near → (moveOne near i).go s = (.ok (), s)) ∧
    (p.near ≠ near → s.kv.fit m near (m.pageBytes p.sizeLog p.fmt) = none → (moveOne near i).go s = (.ok (), s.countNopage)) ∧
    (∀ va bs u v, p.near ≠ near → s.kv.fit m near (m.pageBytes p.sizeLog p.fmt) = some va →
      (readM p.va (m.usedBytes p.sizeLog p.fmt)).go s = (.ok bs, u) → (writeM va bs).go u = (.ok (), v) →
      ∃ w, (moveOne near i).go s = (.ok (), w) ∧ w.mem.cells = v.mem.cells ∧
        w.kv.seqs = v.kv.seqs ∧ (w.kv.page i).va = va ∧ (w.kv.page i).near = near ∧ (w.kv.page i).refs = p.refs ∧
        ∀ j, j ≠ i → w.kv.page j = v.kv.page j))

/-- Rows and appends of ATTEND and ATTEND_BWD (R298, R300, R310 to R313, R316). A page or chunk of visible keys takes a row's running
maximum m to the largest of it and the scaled dot products, scales its sum l and output by 2 to the power of the old maximum less
the new, and adds the weights 2^(s - m) and the weighted values; without visible keys nothing changes. The row's output is o / l, 0
where l is 0, and NaN where l is NaN; it is written at its token's place in FMT_O, and with STATS m and l beside it. An append token of
layer 0 at LENGTH that has a page of its own stores key and value there, and LENGTH counts it; one past 1,048,576 only counts in
SEQ_FULL; one for which no page is found ends its sequence there, stops its later appends and counts. A new page joins the list, a copy
is counted. The backward pass adds to dQ, dK and dV the terms of each visible pair and head, and to no other element. (An append that
is undefined: log entry 61.) -/
def Obligations.AttentionRows : Prop :=
  (∀ (r : RowState) (scale : Machine.Num) (q : List Machine.Num) (kv : List (List Machine.Num × List Machine.Num)),
    (kv = [] → r.visit scale q kv = r) ∧
    (kv ≠ [] → ∀ ss mn k es, ss = kv.map (fun p => (pathDot q p.1).mul32 scale) → mn = maxNan r.m (ss.foldl maxNan (.inf true)) →
      k = (if r.m = .inf true then .zero else exp2 (r.m.sub32 mn)) → es = ss.map (fun x => exp2 (x.sub32 mn)) →
      (r.visit scale q kv).m = mn ∧ (r.visit scale q kv).l = (r.l.mul32 k).add32 (pathSum es) ∧
      (r.visit scale q kv).o.length = r.o.length ∧
      ∀ (n : Nat) (x : Machine.Num), r.o[n]? = some x → (r.visit scale q kv).o[n]? =
        some ((x.mul32 k).add32 (pathSum ((es.zip kv).map fun p => p.1.mul_ (p.2.2.getD n .zero))))) ∧
    r.out.length = r.o.length ∧
    (∀ (n : Nat) (x : Machine.Num), r.o[n]? = some x → r.out[n]? = some (if Machine.Num.zero.lt r.l then x.div32 r.l else if r.l = .nan then .nan else .zero))) ∧
  (∀ (c : AttCmd) (m : KvModel) (t : Tok) (q : List Machine.Num) (rs : List RowState) (r : Block), writeBlock c m false ((t, q, rs) :: r) =
    (do
      let bs ← convertFree c.fo c.rnd (rs.map RowState.out).flatten
      writeM (c.o.at_ t.idx) bs
      if c.stats then
        (rs.zipIdx).forM fun x => writeM (c.statVa + 8 * (t.idx * m.qHeads + x.2))
          (wordBytes [pack [(x.1.m.bits32.toNat, 31, 0), (x.1.l.bits32.toNat, 63, 32)]])
      writeBlock c m false r)) ∧
  (∀ (s : State) (fmt rnd : Nat) (vs : List Machine.Num), rnd ≠ 2 → (convertFree fmt rnd vs).go s =
    (.ok (vs.map fun v => leBytes (attElem fmt) (encodeNum fmt 0 rnd 0 v).code).flatten, s)) ∧
  (∀ (s : State) (c : AttCmd) (free : Bool) (m : KvModel) (a : Appends) (t : Tok) (q : KvSeq), s.kv.seq t.seq = some q →
    (t.seq ∈ a.stopped → (appendToken c free m a t).go s = (.ok a, s.countNopage)) ∧
    (t.seq ∉ a.stopped → c.layer = 0 → q.length = 1048576 → (appendToken c free m a t).go s =
      (.ok a, (s.setSeq t.seq { q with full := min (q.full + 1) (2 ^ 64 - 1) }).kvEvent t.seq 4 0)) ∧
    (t.seq ∉ a.stopped → (c.layer = 0 → q.length ≠ 1048576 ∧ t.pos = q.length) → (c.layer ≠ 0 → t.pos < q.length) →
      (∀ n start i, s.kv.spanAt q t.pos = some (n, start, i) → (s.kv.page i).refs ≤ 1 → (appendToken c free m a t).go s =
        (do
          storeToken c free m t start i
          if c.layer = 0 then modify fun s => s.setSeq t.seq { q with length := t.pos + 1 }
          return a : TaskM Appends).go s) ∧
      (s.kv.spanAt q t.pos = none → q.cap ≤ q.list.length ∨ s.kv.alloc (q.sizeLogAt t.pos) q.fmt = none →
        (appendToken c free m a t).go s = (.ok { a with stopped := t.seq :: a.stopped },
          ((s.cutList t.seq t.pos false).countNopage).kvEvent t.seq 3 0))) ∧
    (∀ u pos, (newPage t.seq pos q).go s = (.ok true, u) → ∃ j np, s.kv.alloc (q.sizeLogAt pos) q.fmt = some (j, np) ∧
      u.kv.seq t.seq = some { q with list := q.list ++ [j] }) ∧
    (∀ u n start i, (copyPage t.seq n start i q).go s = (.ok true, u) → u.kv.copies = sat32 (s.kv.copies + 1) ∧
      u.kv.copiesTotal = sat32 (s.kv.copiesTotal + 1))) ∧
  (∀ (s : State) (c : AttCmd) (free : Bool) (m : KvModel) (t : Tok) (start i n : Nat) (k : PageDesc), k = s.kv.page i →
    n = m.rowBytes k.fmt → WritesOnly (storeToken c free m t start i) s [(m.keyVa k (c.pageLayer m) + (t.pos - start) * n, n),
        (m.valVa k (c.pageLayer m) + (t.pos - start) * n, n)] ∧
      ∀ u, (storeToken c free m t start i).go s = (.ok (), u) → u.kv.seqs = s.kv.seqs ∧ (u.kv.page i).refs = k.refs) ∧
  (∀ (c : AttCmd) (m : KvModel) (g : Grads) (i j : BwdRow) (h kh d : Nat) (p ds dp : Machine.Num) (st : Word),
    kh = h * m.kvHeads / m.qHeads → d = m.headDim → st = wAt i.stats h → dp = pathDot (headOf d h i.d) (headOf d kh j.v) →
    p = (exp2 (((pathDot (headOf d h i.q) (headOf d kh j.k)).mul32 c.scale).sub32 (f32 (BitVec.ofNat 32 (bits st 31 0))))).div32
      (f32 (BitVec.ofNat 32 (bits st 63 32))) →
    ds = (p.mul32 (dp.sub32 (pathDot (headOf d h i.d) (headOf d h i.o)))).mul32 c.scale →
    pairGrad c m g i j h = { dq := addTo g.dq i.tok.idx h d ((headOf d kh j.k).map fun x => ds.mul32 x)
                             dk := addTo g.dk j.tok.idx kh d ((headOf d h i.q).map fun x => ds.mul32 x)
                             dv := addTo g.dv j.tok.idx kh d ((headOf d h i.d).map fun x => p.mul32 x) }) ∧
  (∀ (a : Array (Array Machine.Num)) (t h d u n : Nat) (x : List Machine.Num), ∀ val : Array (Array Machine.Num) → Option Machine.Num,
    val = (fun a => (a[u]?).bind fun r => r[n]?) →
    (∀ k y, u = t → n = h * d + k → x[k]? = some y → val (addTo a t h d x) = (val a).map fun v => v.add32 y) ∧
    (u ≠ t ∨ n < h * d ∨ h * d + x.length ≤ n → val (addTo a t h d x) = val a))

/-- New pages (R290, R292): the place found for a page lies in its pool and meets no page of that pool, and no place of the
pool is lower unless it is not the pool's base or the end of a page. -/
def Obligations.PagesDoNotOverlap : Prop :=
  ∀ (k : Kv) (m : KvModel) (near : Bool) (size va base len : Nat), k.fit m near size = some va →
    base = (if near then m.nearVa else m.farVa) → len = (if near then m.nearBytes else m.farBytes) →
    base ≤ va ∧ va + size ≤ base + len ∧ (∀ e ∈ k.extents m near, va + size ≤ e.1 ∨ e.1 + e.2 ≤ va) ∧
    ∀ w, (w = base ∨ ∃ e ∈ k.extents m near, w = e.1 + e.2) → base ≤ w → w + size ≤ base + len →
      (∀ e ∈ k.extents m near, w + size ≤ e.1 ∨ e.1 + e.2 ≤ w) → va ≤ w

/-- The messages that change sequences (R289, R295, R299, R301, R302, R319, R320, R484): KV_SET_MODEL stores the shape and
empties the cache; KV_SEQ_OPEN makes a sequence live, and is WRONG_STATE for a live one and NO_RESOURCE where the entries do
not suffice; KV_FORK makes a second list of the pages that begin below its LENGTH, each with one more reference, a list in
memory where it is a MOVER's; KV_RELEASE and KV_TRUNCATE take entries off, each with one reference fewer, and look for pinned
pages that no list names; KV_SET_GLOBAL stores the positions read. The first word that fails a check makes each BAD_ARG, before
the state of the sequence counts (log entry 63). The queries of the cache (R320): KV_GET_SEQ answers a live sequence's three
words and is WRONG_STATE for another (log entry 63), KV_GET_PAGE answers a descriptor, words of 0 for a free one, KV_GET_STATUS
the counts. Completes: kvSetModel, kvSeqOpen, kvFork, kvRelease, kvTruncate, kvSetGlobal, kvGetSeq, kvGetPage, kvGetStatus. -/
def Obligations.CacheMessages : Prop :=
  (∀ (s : State) (ch : Fin 33) (c : Cmd) (b : State) (i : Nat) (w : Nat → Word), b = s.begun ch → w = wAt c.words →
    i = bits (w 0) 11 0 →
    (s.Begins ch 0x700 6 c → ∀ fits : Nat → Prop,
      (∀ k, fits k ↔ match k with
        | 0 => (bits (w 0) 47 40 + 1) % (bits (w 0) 53 48 + 1) = 0 ∧ 1 ≤ bits (w 0) 39 32 ∧ bits (w 0) 39 32 ≤ 8
        | 1 => bits (w 1) 47 0 % 8 = 0
        | 2 => bits (w 2) 47 0 % 4096 = 0
        | 3 => (w 3).toNat % 4096 = 0
        | 4 => bits (w 4) 47 0 % 4096 = 0
        | _ => (w 5).toNat % 4096 = 0) →
      (∀ k < 6, (∀ j < k, fits j) → ¬ fits k → Refuses (.kvSetModel ch) s ch c 2 k) ∧
      ((∀ k < 6, fits k) →
        ∀ m : KvModel, m = { layers := bits (w 0) 63 56 + 1, kvHeads := bits (w 0) 53 48 + 1, qHeads := bits (w 0) 47 40 + 1
                             headDim := 32 * bits (w 0) 39 32, scaleVa := bits (w 1) 47 0, nearVa := bits (w 2) 47 0
                             nearBytes := (w 3).toNat, farVa := bits (w 4) 47 0, farBytes := (w 5).toNat } →
        Makes (.kvSetModel ch) s ch c { b with kv := { s.kv with pages := [], seqs := [], model := some m } })) ∧
    (∀ mover cap, s.Begins ch 0x701 3 c → mover = bit (w 0) 44 → cap = bits (w 1) 16 0 + 1 → ∀ ok0 ok1 ok2 : Prop,
      (ok0 ↔ 4 ≤ bits (w 0) 59 56 ∧ bits (w 0) 59 56 ≤ bits (w 0) 55 52 ∧ bits (w 0) 55 52 ≤ 12 ∧
        (bits (w 0) 51 48 = 2 ∨ bits (w 0) 51 48 = 3 ∨ bits (w 0) 51 48 = 7)) →
      (ok1 ↔ bits (w 1) 62 48 ≤ 16384 ∧ cap ≤ 65536) → (ok2 ↔ (mover = true → bits (w 2) 47 0 % 64 = 0)) →
      (¬ ok0 → Refuses (.kvSeqOpen ch) s ch c 2 0) ∧ (ok0 → ¬ ok1 → Refuses (.kvSeqOpen ch) s ch c 2 1) ∧
      (ok0 → ok1 → ¬ ok2 → Refuses (.kvSeqOpen ch) s ch c 2 2) ∧
      (ok0 → ok1 → ok2 →
        (s.kv.seq i ≠ none → Refuses (.kvSeqOpen ch) s ch c 1 0xFFFF) ∧
        (s.kv.seq i = none → mover = false → 262144 < s.kv.reserved + cap → Refuses (.kvSeqOpen ch) s ch c 3 0xFFFF) ∧
        (s.kv.seq i = none → (mover = true ∨ s.kv.reserved + cap ≤ 262144) → Makes (.kvSeqOpen ch) s ch c (b.setSeq i
          { mover := mover, fmt := bits (w 0) 51 48, logMin := bits (w 0) 59 56, logMax := bits (w 0) 55 52
            window := bits (w 1) 62 48, globals := [], length := 0, list := [], cap := cap, listVa := bits (w 2) 47 0
            full := 0 })))) ∧
    (s.Begins ch 0x702 3 c → ∀ src mover len cap va, src = s.kv.seq (bits (w 0) 27 16) → mover = bit (w 0) 44 →
      len = bits (w 1) 52 32 → cap = bits (w 1) 16 0 + 1 → va = bits (w 2) 47 0 → ∀ ok1 ok2 : Prop,
      (ok1 ↔ cap ≤ 65536 ∧ ∀ q, src = some q → s.kv.seq i = none → len ≤ q.length) → (ok2 ↔ (mover = true → va % 64 = 0)) →
      (¬ ok1 → Refuses (.kvFork ch) s ch c 2 1) ∧ (ok1 → ¬ ok2 → Refuses (.kvFork ch) s ch c 2 2) ∧
      (ok1 → ok2 → src = none ∨ s.kv.seq i ≠ none → Refuses (.kvFork ch) s ch c 1 0xFFFF) ∧
      (∀ q, ok1 → ok2 → src = some q → s.kv.seq i = none →
        ∀ list, list = ((s.kv.spans q).filter fun p => decide (p.2.1 < len)).map (fun p => p.2.2) →
          let forked := fun (u : State) => list.foldl (fun t p => t.addRef i p) (u.setSeq i { q with
            mover := mover, length := len, list := list, cap := cap, listVa := va, full := 0 })
          ((mover = false ∧ 262144 < s.kv.reserved + cap) ∨ cap < list.length → Refuses (.kvFork ch) s ch c 3 0xFFFF) ∧
          (mover = false → s.kv.reserved + cap ≤ 262144 → list.length ≤ cap → Makes (.kvFork ch) s ch c (forked b)) ∧
          (mover = true → list.length ≤ cap → ∀ u,
            (b.keeperWrite va (entryBytes list) = (true, u) → Makes (.kvFork ch) s ch c (forked u)) ∧
            (b.keeperWrite va (entryBytes list) = (false, u) → Makes (.kvFork ch) s ch c u [] 7)))) ∧
    (s.Begins ch 0x703 1 c →
      (s.kv.seq i = none → Refuses (.kvRelease ch) s ch c 1 0xFFFF) ∧
      (∀ q, s.kv.seq i = some q → Makes (.kvRelease ch) s ch c (q.list.foldl (fun t p => t.scanPinned i p)
        (q.list.foldl State.dropRef { b with kv := { s.kv with seqs := eraseKey s.kv.seqs i } })))) ∧
    (s.Begins ch 0x704 2 c → ∀ len, len = bits (w 1) 20 0 →
      (s.kv.seq i = none → Refuses (.kvTruncate ch) s ch c 1 0xFFFF) ∧
      (∀ q, s.kv.seq i = some q →
        (q.length < len → Refuses (.kvTruncate ch) s ch c 2 1) ∧
        (len ≤ q.length → ∀ kept gone, kept = ((s.kv.spans q).filter fun p => decide (p.2.1 < len)).map (fun p => p.2.2) →
          gone = ((s.kv.spans q).filter fun p => decide (len ≤ p.2.1)).map (fun p => p.2.2) →
          Makes (.kvTruncate ch) s ch c (gone.foldl (fun t p => t.scanPinned i p)
            (gone.foldl State.dropRef (b.setSeq i { q with length := len, list := kept })))))) ∧
    (s.Begins ch 0x705 2 c → ∀ n, n = bits (w 0) 22 16 →
      (64 < n → Refuses (.kvSetGlobal ch) s ch c 2 0) ∧
      (n ≤ 64 → (s.kv.seq i = none → Refuses (.kvSetGlobal ch) s ch c 1 0xFFFF) ∧
        (∀ q, s.kv.seq i = some q →
          (∀ bs u, b.keeperRead (bits (w 1) 47 0) (4 * n) = (some bs, u) →
            Makes (.kvSetGlobal ch) s ch c (u.setSeq i { q with globals := codesOf 4 n bs })) ∧
          ∀ u, b.keeperRead (bits (w 1) 47 0) (4 * n) = (none, u) → Makes (.kvSetGlobal ch) s ch c u [] 7))) ∧
    (∀ (v : State) p, ((v.kv.page p).refs < 65535 → v.addRef i p = v.setPage p { v.kv.page p with refs := (v.kv.page p).refs + 1 }) ∧
      (65535 ≤ (v.kv.page p).refs → v.addRef i p = (v.setPage p { v.kv.page p with pinned := true }).kvEvent i 1 p) ∧
      ((v.kv.page p).pinned = true → v.dropRef p = v) ∧
      ((v.kv.page p).pinned = false → 1 < (v.kv.page p).refs →
        v.dropRef p = v.setPage p { v.kv.page p with refs := (v.kv.page p).refs - 1 }) ∧
      ((v.kv.page p).pinned = false → (v.kv.page p).refs ≤ 1 → v.dropRef p = v.dropPage p))) ∧
  (∀ (s : State) (ch : Fin 33) (c : Cmd),
    (s.Begins ch 0x706 1 c → s.kv.seq (bits (wAt c.words 0) 11 0) = none → Refuses (.kvGetSeq ch) s ch c 1 0xFFFF) ∧
    (∀ q, s.Begins ch 0x706 1 c → s.kv.seq (bits (wAt c.words 0) 11 0) = some q → Tells (.kvGetSeq ch) s ch c
      [pack [(1, 63, 63), (b2n q.mover, 62, 62), (q.fmt, 59, 56), (q.globals.length, 54, 48), (q.window, 46, 32), (q.length, 20, 0)],
        pack [(q.list.length, 63, 32), ((q.list.filter fun i => (s.kv.page i).pinned).length, 16, 0)], wd q.full]) ∧
    (s.Begins ch 0x707 1 c → look s.kv.pages (bits (wAt c.words 0) 16 0) = none → Tells (.kvGetPage ch) s ch c [0, 0]) ∧
    (∀ p, s.Begins ch 0x707 1 c → look s.kv.pages (bits (wAt c.words 0) 16 0) = some p → Tells (.kvGetPage ch) s ch c
      [pack [(1, 63, 63), (b2n p.pinned, 62, 62), (b2n p.near, 61, 61), (p.sizeLog, 59, 56), (p.fmt, 55, 52), (p.va, 47, 0)],
        pack [(p.refs, 63, 48)]]) ∧
    (s.Begins ch 0x708 0 c → Tells (.kvGetStatus ch) s ch c
      [pack [(s.kv.seqs.length, 44, 32), (s.kv.freeCount, 17, 0)], pack [(s.kv.freeKib true, 63, 32), (s.kv.freeKib false, 31, 0)],
        pack [(s.kv.copiesTotal, 63, 32), (s.kv.nopageTotal, 31, 0)]]))

/-! ### Memory, regions and BAR2 (ch. 13) -/

/-- SCRUB, BANK_SWITCH and SELF_REFRESH_ENTRY (R329 to R331, R333, R431, R432, R438, R483). Of a codeword of near SRAM or
LPDDR5X the scrub finds an uncorrectable error, new or old, which is counted, latched when it is the first, logged and stays
until it is written, and its row is spared or repaired; or a correctable one, which is corrected and counted, and whose row is
spared or repaired at the third pass in a row that finds one; a clean word changes nothing. A correctable error of keeper-local
SRAM counts so too, an uncorrectable one halts the device. A word of the pool is counted, and marked where it cannot be
corrected. The scrub of a sleeping channel wakes it outside STANDBY and FOG. The keeper's own read of keeper-local SRAM does as
the scrub's, and a tier whose interface check fails has its bank spared. A bank whose copy is made is served by the spare bank.
A channel sleeps in FOG, and in STANDBY after 10 ms without an access. (Log entries: passes and repairs 67, self-refresh 68,
address 0 of a pool or keeper error 42, rows of a spare bank 85.) The memory messages (R335, R339, R340, R345, R414, R484): a
region entry that is not held by a package is stored when it is not VALID or passes the checks, is BAD_ARG for the first word
that fails one, and is DENIED where it touches the keeper reserve; a clear removes it, BAR2 moves to a multiple of 1 GiB, and
each of them completes when the commands and the units of camera frames in progress have ended, which go on with the table they
began with; the queries answer the entry and the status. (Ranges before DENIED, and the completion: log entry 69.) Completes:
scrub, bankSwitch, selfRefreshEntry, mmSetRegion, mmClearRegion, mmGetRegion, mmSetBar2, mmGetStatus. -/
def Obligations.RegionsAndScrubbing : Prop :=
  (∀ (s : State),
    (∀ (a : BitVec 48) da t u (near : Bool) (row : MemRow) unit spare, da = a.toNat / 8 * 8 →
      t = (if near then ScrubTarget.near a else .lpddr a) →
      (near = true → place s.boot.otp.part128 da = .near ∧ u = s ∧ unit = (nearOf da).1 ∧
        row = .near (nearOf da).1 (nearOf da).2.1 (nearOf da).2.2 ∧
        spare = fun v => State.spareNearRow v (nearOf da).1 (nearOf da).2.1 (nearOf da).2.2) →
      (near = false → (place s.boot.otp.part128 da = .lpddr ∨ place s.boot.otp.part128 da = .reserve) ∧ s.mem.reachable = true ∧
        u = { s.count (21 + chanOf da / 16) 0x75 1 with mem := { s.mem with
          asleep := if s.dev.state = .standby ∨ s.dev.state = .fog then s.mem.asleep
            else s.mem.asleep &&& ~~~ BitVec.ofNat 64 (2 ^ chanOf da) } } ∧ unit = chanOf da ∧
        row = .lpddr (chanOf da) (bankRowOf da).1 (bankRowOf da).2 ∧ spare = fun v => State.repairRow v da) →
      (∀ r, (s.mem.ueWords.contains da = true ∨ r = .uncorrectable) → Does (.scrub t r) s (spare (State.scrubUe { u with
        mem := { u.mem with ueWords := if s.mem.ueWords.contains da then s.mem.ueWords else da :: s.mem.ueWords } } unit da))) ∧
      (∀ r k v, s.mem.ueWords.contains da = false → r ≠ .uncorrectable → (s.mem.ceWords.contains da = true ∨ r = .correctable) →
        (State.meetCe { u with mem := { u.mem with ceWords := s.mem.ceWords.filter (· != da) } } 1).countPass row = (k, v) →
        Does (.scrub t r) s (if k then spare v else v)) ∧
      (s.mem.ueWords.contains da = false → s.mem.ceWords.contains da = false → Does (.scrub t .clean) s u)) ∧
    (∀ (v : State) unit da, ∃ w, v.scrubUe unit da = (w.log 0x0F 0 unit 0 da 0).eventLimited 0x8F0 2 0 1 (wd 2) (wd da) ∧
      w = { v with mem := { v.mem with
        ue := sat32 (v.mem.ue + 1), ueTotal := sat32 (v.mem.ueTotal + 1)
        ueDa := if v.mem.ue = 0 then da else v.mem.ueDa, ueScrub := if v.mem.ue = 0 then true else v.mem.ueScrub } }) ∧
    (∀ row, exec (.scrub (.keeper row) .clean) s = .next s ∧
      (∀ k v, (s.meetCe 1).countPass (.keeper row.val) = (k, v) →
        Does (.scrub (.keeper row) .correctable) s (if k then v.spareKeeperRow row.val else v)) ∧
      Does (.scrub (.keeper row) .uncorrectable) s ((State.spareKeeperRow (State.eventLimited { s with mem := { s.mem with
        ue := sat32 (s.mem.ue + 1), ueTotal := sat32 (s.mem.ueTotal + 1)
        ueDa := if s.mem.ue = 0 then 0 else s.mem.ueDa, ueScrub := if s.mem.ue = 0 then true else s.mem.ueScrub } }
        0x8F0 2 0 1 (wd 2) 0) row.val).enterHalt 0x07 row.val) ∧
      exec (.scrub (.keeperRead row) .clean) s = .next s ∧ Does (.scrub (.keeperRead row) .correctable) s (s.meetCe 1) ∧
      Does (.scrub (.keeperRead row) .uncorrectable) s ((s.meetPoolUe.spareKeeperRow row.val).enterHalt 0x07 row.val)) ∧
    (∀ (b : Fin 64) tier r u, (r = .clean → exec (.scrub (.interface b tier) r) s = .next s) ∧
      (r ≠ .clean → u = s.spareBank b.val → Does (.scrub (.interface b tier) r) s u)) ∧
    (∀ (q : Fin 64) i g k r x, x = s.queue q.val → x.places[i]? = some (g, k) → ∀ ring, ring = at_ x.rings g {} →
      (ring.ue.contains k = false → r = .clean → exec (.scrub (.pool q i) r) s = .next s) ∧
      (ring.ue.contains k = false → r = .correctable → Does (.scrub (.pool q i) r) s (s.meetCe 1)) ∧
      (ring.ue.contains k = true ∨ r = .uncorrectable → Does (.scrub (.pool q i) r) s (State.scrubUe (s.setQueue q.val { x with
        rings := put x.rings g { ring with ue := if ring.ue.contains k then ring.ue else ring.ue ++ [k] } }) q.val 0))) ∧
    (∀ b : Fin 64, ((∀ x, (b.val, x) ∉ s.faults.bankCopy) → exec (.bankSwitch b) s = .next s) ∧
      (∀ x, s.faults.bankCopy.find? (·.1 == b.val) = some x → ∀ u, u = ({ s with faults := { s.faults with
          bankCopy := s.faults.bankCopy.filter (·.1 != b.val), bankSubst := s.faults.bankSubst ||| BitVec.ofNat 64 (2 ^ b.val)
          nearRows := s.faults.nearRows.filter fun r => r.1 != b.val } }).log 0x06 1 b.val 0 (nearBase b.val 0 0) 0 (some x.2) →
        Does (.bankSwitch b) s (u.wearHalf 0x06 b.val (popN 4 s.faults.bankSpareGone.toNat) 4))) ∧
    (∀ b : Fin 64, ∀ f, f = s.faults →
      ((∃ x, (b.val, x) ∈ f.bankCopy) ∨ f.bankKept.getLsbD b.val = true → s.spareBank b.val = s) ∧
      ((∀ x, (b.val, x) ∉ f.bankCopy) → f.bankKept.getLsbD b.val = false →
        (f.bankSpareGone.getLsbD (b.val / 16) = true ∨ f.bankSubst.getLsbD b.val = true → s.spareBank b.val =
          ({ s with faults := { f with bankKept := f.bankKept ||| BitVec.ofNat 64 (2 ^ b.val) } }).log 0x06 0 b.val 0
            (nearBase b.val 0 0) 0) ∧
        (f.bankSpareGone.getLsbD (b.val / 16) = false → f.bankSubst.getLsbD b.val = false → s.spareBank b.val =
          { s with faults := { f with
              bankCopy := f.bankCopy ++ [(b.val, s.now.stamp)]
              bankSpareGone := f.bankSpareGone ||| BitVec.ofNat 4 (2 ^ (b.val / 16)) } }))) ∧
    (∀ c : Fin 64,
      (s.dev.state = .fog ∨ (s.dev.state = .standby ∧ s.mem.lastLpddr + 10 * cycMs ≤ s.time.counter) →
        exec (.selfRefreshEntry c) s = .next { s with
          mem := { s.mem with asleep := s.mem.asleep ||| BitVec.ofNat 64 (2 ^ c.val) } }) ∧
      (s.dev.state ≠ .fog → (s.dev.state ≠ .standby ∨ s.time.counter < s.mem.lastLpddr + 10 * cycMs) →
        exec (.selfRefreshEntry c) s = .next s))) ∧
  (∀ (s : State) (ch : Fin 33) (c : Cmd) (b : State) (i : Nat), b = s.begun ch → i = bits (wAt c.words 0) 9 0 →
    (∀ w0 w1 w2, s.Begins ch 0x800 4 c → w0 = wAt c.words 1 → w1 = wAt c.words 2 → w2 = wAt c.words 3 →
      (s.regionHeld i = true → Refuses (.mmSetRegion ch) s ch c 1 0xFFFF) ∧
      (s.regionHeld i = false → bit w0 63 = true →
        ((∀ p ∈ regionChecks s i w0 w1 w2, p.2 = true) → touchesReserve s.boot.otp.part128 w0 w1 w2 = true →
          Refuses (.mmSetRegion ch) s ch c 4 0xFFFF) ∧
        ((∃ p ∈ regionChecks s i w0 w1 w2, p.1 = 1 ∧ p.2 = false) → Refuses (.mmSetRegion ch) s ch c 2 1) ∧
        ((∀ p ∈ regionChecks s i w0 w1 w2, p.1 = 1 → p.2 = true) → bits w2 31 0 = 0 → Refuses (.mmSetRegion ch) s ch c 2 3)) ∧
      (s.regionHeld i = false → (bit w0 63 = false ∨ ((∀ p ∈ regionChecks s i w0 w1 w2, p.2 = true) ∧
          touchesReserve s.boot.otp.part128 w0 w1 w2 = false)) →
        Makes (.mmSetRegion ch) s ch c (b.setRegions (insertKey s.mem.regions i (w0, w1, w2)))
          [] 0 s.regionWait)) ∧
    (s.Begins ch 0x801 1 c →
      (s.regionHeld i = true → Refuses (.mmClearRegion ch) s ch c 1 0xFFFF) ∧
      (s.regionHeld i = false → Makes (.mmClearRegion ch) s ch c (b.setRegions (eraseKey s.mem.regions i))
        [] 0 s.regionWait)) ∧
    (s.Begins ch 0x802 1 c → Tells (.mmGetRegion ch) s ch c (match look s.mem.regions i with
      | none => [0, 0, 0]
      | some (w0, w1, w2) => regionWords w0 w1 w2)) ∧
    (s.Begins ch 0x810 1 c → ∀ va, va = bits (wAt c.words 0) 47 0 →
      (va % 0x40000000 = 0 → Makes (.mmSetBar2 ch) s ch c { b with mem := { s.mem with bar2Va := va } } [] 0 s.regionWait) ∧
      (va % 0x40000000 ≠ 0 → Refuses (.mmSetBar2 ch) s ch c 2 0)) ∧
    (∀ (v : State) rs, (v.setRegions rs).mem = { v.mem with regions := rs } ∧
      (v.setRegions rs).dev.launches = v.dev.launches.map fun (l : Launch) => { l with runs := l.runs.map fun (r : Run) =>
        { r with held := r.held.map fun (h : Held) => { h with regions := some (h.regions.getD v.mem.regions) } } }) ∧
    (s.Begins ch 0x820 0 c → Tells (.mmGetStatus ch) s ch c
      [pack [((s.mem.regions.filter fun r => bit r.2.1 63).length, 58, 48), (s.mem.bar2Va, 47, 0)],
        pack [(s.mem.ceTotal, 63, 32), (s.mem.ueTotal, 31, 0)],
        pack [(s.mem.bar2Faults, 63, 32), (s.mem.rowsRepaired, 31, 0)], s.mem.asleep]))

/-- BAR2 (R340 to R342, R346, log entry 70): while it is closed a write does nothing and a read is answered as unsupported;
while it is open an access goes to BAR2_VA plus its offset under the checks of a unit's; one that faults is counted and
reported, at most once a second, and a read of it is aborted. Where a launch that runs has written, the data written or read
are free, and the data read also where it will write (R346); a write crosses what launches that run have read. With no launch
running the data are what was sent and what memory holds. Completes: bar2Write, bar2Read. -/
def Obligations.Bar2Accesses : Prop :=
  ∀ (s : State) (off : BitVec 34) (bs : List Byte) (len va : Nat), va = s.mem.bar2Va + off.toNat →
    (s.bar2Open = false → exec (.bar2Write off bs) s = .next s ∧
      exec (.bar2Read off len) s = .next (s.answerBus .unsupportedRequest)) ∧
    (s.bar2Open = true → ∀ faulted, faulted = (fun (u : State) => State.eventLimited { s.backIn u with
        mem := { (s.backIn u).mem with bar2Faults := sat32 ((s.backIn u).mem.bar2Faults + 1) } } 0x8F0 4 0 1 (wd 4) 0) →
      (∀ data v, s.amidLaunch va bs = (data, v) →
        (∀ u, (writeM va data).go v.outsideLaunch = (.ok (), u) →
          Does (.bar2Write off bs) s ((s.backIn u).cross va data.length)) ∧
        ∀ e u, (writeM va data).go v.outsideLaunch = (.error e, u) → Does (.bar2Write off bs) s (faulted u)) ∧
      (∀ r u data v, (readM va len).go s.outsideLaunch = (.ok r, u) → (s.backIn u).readBeside va r = (data, v) →
        Does (.bar2Read off len) s (v.answerBus (.bytes data))) ∧
      (∀ e u, (readM va len).go s.outsideLaunch = (.error e, u) → Does (.bar2Read off len) s ((faulted u).answerBus .abort))) ∧
    (∀ wrote run, wrote = usePlaces (s.live s.mem.wrote) → run = s.places [(va, bs.length)] →
      (runsMeet run wrote = false → s.amidLaunch va bs = (bs, s)) ∧
      (runsMeet run wrote = true → s.amidLaunch va bs =
        (s.spoilPieces wrote s.free (split4k va bs.length) bs, { s with free := s.free + bs.length }))) ∧
    (s.running = [] → s.amidLaunch va bs = (bs, s) ∧ s.readBeside va bs = (bs, s) ∧ s.cross va len = s) ∧
    (s.running ≠ [] → ∀ ps t, ps = s.places [(va, len)] → t = s.taint (usersOf (s.live s.mem.reads) ps) →
      (s.cross va len).mem = { t.mem with
        crossed := (t.running.map fun l => ps.map fun p => (p.1, p.2, l.id)).flatten ++ t.live t.mem.crossed })

/-! ### The Criser protocol and the device (ch. 14) -/

/-- The rules that every command of the index is under (R357, R360, R363, R371): with no command to begin, or another one in
front, a row does nothing; a command that the device state does not allow is WRONG_STATE; one longer than 255 words or shorter
than its table is BAD_ARG naming its length; an opcode outside the index is UNSUPPORTED. Nothing but the channel changes. (One
row begins, applies and completes a command: log entry 71; the length is tested after the state: 72.) Completes:
unsupported. -/
def Obligations.CommandsAreTestedInOrder : Prop :=
  ∀ (s : State) (i : Instr) (ch : Fin 33) (op need : Nat) (c : Cmd), messageOf i = some (ch, op, need) →
    (s.front ch.val = none → exec i s = .next s ∧ exec (.unsupported ch) s = .next s) ∧
    (s.front ch.val = some c →
      (c.opcode ≠ op ∨ c.kind ≠ 0 → exec i s = .next s) ∧
      (c.unsupported = true → Refuses (.unsupported ch) s ch c 9 0xFFFF) ∧
      (c.unsupported = false → exec (.unsupported ch) s = .next s) ∧
      (c.opcode = op → c.kind = 0 →
        (s.allows op = false → Refuses i s ch c 1 0xFFFF) ∧
        (s.allows op = true → 255 < c.len ∨ c.len < need → Refuses i s ch c 2 c.len)))

/-- RING, the mailbox registers and the other register accesses (R9, R36, R351 to R353, R359, R360, R372, log entries 7, 11,
75, 97, 98): a RING copies the inbound buffer into the queue of its channel and sets IN_BUSY, or sets RING_LOST while it is
set, or is held before the mailboxes open; a command that finds 16 pending ones is BUSY; a member takes its lead's commands
from the chain. A write to the inbound buffer sets its word or half word and is lost while IN_BUSY is set. OUT_RD takes the
value written, and where stepping forward does not reach it from OUT_RD the ring holds free words, and so do the messages
written from then on; the status write clears what is written as 1, its read clears NOTE_DROPPED. Before the mailboxes open
these do nothing. BAR0 takes 4 and 8 bytes at their alignment, the lower register first; in the windows of command lists the
registers that a write sets are set and no other. CRISER_COMPLETION and TIMEOUT (R360, R364, R365, R369, R377, R414, R415): a
completion that waited is written once its wait has ended and it fits, the channel is then free to begin, and its notifications
follow it; the work of the security engine, and what a retrain held up, ends with it. While the wait lasts or it does not fit,
nothing changes. BUSY and TIMEOUT completions that waited for room are written in their order (log entry 71). A command that
has waited WAIT_MS leaves its queue with TIMEOUT; before that nothing changes. Completes: ring, mbInboundWrite, mbChOutRdWrite,
mbChStatusWrite, mbChStatusRead, regWriteOther, criserCompletion, timeout. -/
def Obligations.MailboxesAndCompletions : Prop :=
  (∀ (s : State) (now : Nat), now = s.boot.aon →
    (∀ (i : Fin 33) ws rung c d u, c = s.chan i.val → d = { cmdOf ws s.criser.order rung with acceptedAt := s.time.counter } →
      u = { s with criser := { s.criser with order := s.criser.order + 1 } } →
      (c.pending < 16 → s.accept i.val ws rung = u.setChan i.val { c with queue := c.queue ++ [d] }) ∧
      (16 ≤ c.pending → s.accept i.val ws rung = u.completeUnbegun i.val
        { cmd := d, begunAt := rung, status := 5, arg := 0xFFFF, resp := [], wait := .room, counted := false })) ∧
    (∀ (ch : Fin 33) chain c, ch.val < 32 → c = s.chan ch.val →
      (s.boot.linkUp = false → exec (.ring ch chain) s = .next s) ∧
      (s.boot.linkUp = true →
        (s.mailOpen = false → c.held = none → Does (.ring ch chain) s (s.setChan ch.val { c with held := some now })) ∧
        (s.mailOpen = false → c.held ≠ none → exec (.ring ch chain) s = .next s) ∧
        (s.mailOpen = true → s.keeperUp = false → exec (.ring ch chain) s = .next s) ∧
        (s.mailOpen = true → s.keeperUp = true → c.inBusy = true →
          Does (.ring ch chain) s (s.setChan ch.val { c with ringLost := true })) ∧
        (s.mailOpen = true → s.keeperUp = true → c.inBusy = false → Does (.ring ch chain) s
          ((s.setChan ch.val { c with inBusy := true }).accept ch.val c.inBuf.toList now)))) ∧
    (∀ chain,
      (s.boot.member = true → s.portUp 0 = true → s.keeperUp = true → Does (.ring 32 chain) s
        ((s.recvFlits 0 (flitsOf (8 * chain.length))).accept 32 chain now)) ∧
      (s.boot.member = false ∨ s.portUp 0 = false ∨ s.keeperUp = false → exec (.ring 32 chain) s = .next s)) ∧
    (∀ (c : Channel) msg, (c.strayRd = false → s.ringWords c msg = (msg, s)) ∧
      (c.strayRd = true → s.ringWords c msg = ((List.range msg.length).map fun j =>
        Config.freeReg (s.free + 2 * j) ++ Config.freeReg (s.free + 2 * j + 1), { s with free := s.free + 2 * msg.length }))) ∧
    (∀ (ch : Fin 32) c, c = s.chan ch.val →
      (s.boot.linkUp = true → s.mailOpen = true →
        (∀ (off : BitVec 11) v k, k = off.toNat / 8 →
          (c.inBusy = false →
            (off.toNat % 8 = 0 → Does (.mbInboundWrite ch off true v) s (s.setChan ch.val { c with inBuf := put c.inBuf k v })) ∧
            (∀ x old, old = at_ c.inBuf k 0 → off.toNat % 4 = 0 →
              x = (if off.toNat % 8 = 0 then pack [(bits old 63 32, 63, 32), (bits v 31 0, 31, 0)]
                else pack [(bits v 31 0, 63, 32), (bits old 31 0, 31, 0)]) →
              Does (.mbInboundWrite ch off false v) s (s.setChan ch.val { c with inBuf := put c.inBuf k x }))) ∧
          (∀ wide, off.toNat % (if wide then 8 else 4) ≠ 0 → exec (.mbInboundWrite ch off wide v) s = .next s) ∧
          (∀ wide, c.inBusy = true → off.toNat % (if wide then 8 else 4) = 0 →
            Does (.mbInboundWrite ch off wide v) s (s.setChan ch.val { c with inWriteLost := true }))) ∧
        (∀ (v : Reg) rd, rd = v.toNat % 512 →
          ((rd + 512 - c.outRd) % 512 ≤ c.fill → ∀ x : Channel, x = { c with outRd := rd } → Does (.mbChOutRdWrite ch v) s
            (s.setChan ch.val { x with strayRd := c.strayRd && decide (256 < x.fill) })) ∧
          (c.fill < (rd + 512 - c.outRd) % 512 → Does (.mbChOutRdWrite ch v) s (({ s with free := s.free + 512 }).setChan ch.val
            { c with outRd := rd, strayRd := true, ring := Vector.ofFn fun (j : Fin 256) =>
              Config.freeReg (s.free + 2 * j.val) ++ Config.freeReg (s.free + 2 * j.val + 1) }))) ∧
        (∀ v : Reg, Does (.mbChStatusWrite ch v) s (s.setChan ch.val
          { c with inWriteLost := c.inWriteLost && !v.getLsbD 10, ringLost := c.ringLost && !v.getLsbD 9 })) ∧
        Does (.mbChStatusRead ch) s ((s.setChan ch.val { c with noteDropped := 0 }).answerBus (.reg c.status))) ∧
      (s.boot.linkUp = true → s.mailOpen = false → Does (.mbChStatusRead ch) s (s.answerBus (.reg 0))) ∧
      (s.boot.linkUp = false → Does (.mbChStatusRead ch) s (s.answerBus .unsupportedRequest)) ∧
      (∀ (off : BitVec 11) wide v (r : Reg), (s.boot.linkUp = false ∨ s.mailOpen = false) →
        exec (.mbInboundWrite ch off wide v) s = .next s ∧ exec (.mbChOutRdWrite ch r) s = .next s ∧
        exec (.mbChStatusWrite ch r) s = .next s)) ∧
    (∀ (off : BitVec 20) bytes (v : Reg) i, i = Instr.regWriteOther (.list off) bytes (some (BitVec.setWidth 64 v)) →
      (off.toNat = 0 → v.getLsbD 0 = true → Does i s { s with time := { s.time with snapList := s.now.snap } }) ∧
      (off.toNat = 0 → v.getLsbD 0 = false → exec i s = .next s) ∧
      (∀ q : Fin 64, off.toNat = 0x10000 + 64 * q.val → Does i s ((iqCmd q.val v).go s).2) ∧
      (off.toNat = 0x30004 → Does i s (s.writeXeErr v)) ∧
      (off.toNat = 0x90004 → Does i s (s.pmSel .list v)) ∧
      (off.toNat = 0x90014 → Does i s (s.pmRingRd .list v)) ∧
      (off.toNat ∉ [0, 0x30004, 0x90004, 0x90014] → (∀ q : Fin 64, off.toNat ≠ 0x10000 + 64 * q.val) → exec i s = .next s)) ∧
    (∀ off bytes v, (s.boot.linkUp = false ∨ goodForm off.toNat bytes = false) →
      exec (.regWriteOther (.bar0 off) bytes (some v)) s = .next s ∧
      Does (.regWriteOther (.bar0 off) bytes none) s (s.answerBus .unsupportedRequest)) ∧
    (∀ off v, s.boot.linkUp = true → off.toNat % 4 = 0 →
      Does (.regWriteOther (.bar0 off) 4 (some v)) s (s.bar0Put off.toNat (BitVec.setWidth 32 v)) ∧
      (isChStatus off.toNat = false → Does (.regWriteOther (.bar0 off) 4 none) s (s.answerBus (.reg (s.bar0Reg off.toNat)))) ∧
      (isChStatus off.toNat = true → Does (.regWriteOther (.bar0 off) 4 none) s
        ((s.chStatusTaken ((off.toNat - 0x100) / 16)).answerBus (.reg (s.bar0Reg off.toNat))))) ∧
    (∀ off v, s.boot.linkUp = true → off.toNat % 8 = 0 →
      (off.toNat < 0x20000 → Does (.regWriteOther (.bar0 off) 8 (some v)) s
        ((s.bar0Put off.toNat (BitVec.setWidth 32 v)).bar0Put (off.toNat + 4) (BitVec.setWidth 32 (v >>> 32)))) ∧
      (0x20000 ≤ off.toNat → Does (.regWriteOther (.bar0 off) 8 (some v)) s
        (s.inboundWrite ((off.toNat - 0x20000) / 4096) (off.toNat % 4096) true v)) ∧
      (∀ u, u = (if isChStatus (off.toNat + 4) then s.chStatusTaken ((off.toNat - 0xFC) / 16) else s) →
        Does (.regWriteOther (.bar0 off) 8 none) s
          (u.answerBus (.wide (s.bar0Reg (off.toNat + 4) ++ s.bar0Reg off.toNat))))) ∧
    (∀ r bytes v, (s.boot.linkUp = true →
        Does (.regWriteOther (.cfg r) bytes (some v)) s { s with boot := { s.boot with svc := s.boot.svc.write r (BitVec.setWidth 32 v) } } ∧
        Does (.regWriteOther (.cfg r) bytes none) s (s.answerBus (.reg (s.boot.svc.read r)))) ∧
      (s.boot.linkUp = false → exec (.regWriteOther (.cfg r) bytes (some v)) s = .next s ∧
        Does (.regWriteOther (.cfg r) bytes none) s (s.answerBus .unsupportedRequest)))) ∧
  (∀ (s : State) (ch : Fin 33) (c : Channel), c = s.chan ch.val →
    (s.keeperUp = false → exec (.criserCompletion ch) s = .next s ∧ exec (.timeout ch) s = .next s) ∧
    (s.keeperUp = true →
      (∀ u, (∀ a, c.await = some a → s.engineDone a.wait = true → u = s.engineAnswer ch.val a) →
        (∀ a k, c.await = some a → a.wait = .chain k → s.waitOver a.wait = true → u = s.chainAnswer ch.val a k) →
        (c.await = none ∨ (∃ a, c.await = some a ∧ s.engineDone a.wait = false ∧
          ∀ k, a.wait = .chain k → s.waitOver a.wait = false) → u = s) →
        ∀ x, x = u.chan ch.val →
        (∀ a, x.await = some a → u.waitOver a.wait = true → (u.sendCompletion ch.val a).isSome = true →
          Does (.criserCompletion ch) s (u.complete ch.val a)) ∧
        (x.await = none ∨ (∃ a, x.await = some a ∧ (u.waitOver a.wait = false ∨ u.sendCompletion ch.val a = none)) →
          (x.outbox = [] → Does (.criserCompletion ch) s u) ∧
          ∀ a r, x.outbox = a :: r → ∀ t, t = u.setChan ch.val { x with outbox := r } →
            (∀ v, t.sendCompletion ch.val a = some v → Does (.criserCompletion ch) s v) ∧
            (t.sendCompletion ch.val a = none → Does (.criserCompletion ch) s u))) ∧
      (∀ d, c.queue.find? (fun d => c.expired d s.time.counter) = some d → Does (.timeout ch) s
        ((s.setChan ch.val { c with queue := c.queue.filter fun e => e.order != d.order }).completeUnbegun ch.val
          (completionOf s d 8 [] .room))) ∧
      ((∀ d ∈ c.queue, s.time.counter < d.acceptedAt + c.waitMs * cycMs) → exec (.timeout ch) s = .next s)) ∧
    (∀ a u, s.waitOver a.wait = true → (s.setChan ch.val { c with await := some a }).sendCompletion ch.val a = some u →
      ∀ t, t = u.setChan ch.val { u.chan ch.val with await := none } →
      (a.cmd.opcode ≠ 6 ∨ a.status ≠ 0 → s.complete ch.val a = t.completed a.cmd.order) ∧
      (a.cmd.opcode = 6 → a.status = 0 → s.complete ch.val a = State.completed { t with dev := { t.dev with
        resetAt := some (t.dev.resetAt.getD (t.time.counter, ch.val == 32)) } } a.cmd.order)) ∧
    (∀ a, s.waitOver a.wait = false ∨ (s.setChan ch.val { c with await := some a }).sendCompletion ch.val a = none →
      s.complete ch.val a = s.setChan ch.val { c with await := some a }) ∧
    (∀ a, (c.outbox ≠ [] ∨ s.sendCompletion ch.val a = none →
        s.completeUnbegun ch.val a = s.setChan ch.val { c with outbox := c.outbox ++ [a] }) ∧
      (∀ u, c.outbox = [] → s.sendCompletion ch.val a = some u → s.completeUnbegun ch.val a = u)))

/-- The device messages (R2, R67, R362, R364, R366, R367, R369, R441): DEV_ARM, DEV_RUN, DEV_DISARM and DEV_STANDBY change the
state as the table has it, DEV_RUN to FOG while FOG_PENDING is set, DEV_DISARM from FOG only when no cause holds; from RUNNING
it waits for the launches in flight. The settings take their values; DEV_GET_INFO and DEV_GET_STATE answer their words,
DEV_ECHO its payload of at most 254 words; DEV_RESET answers and asks for the reset. (FOG_PENDING comes with FOG_ENTRY: log
entry 74; a stop still outstanding is kept: 101.) Completes: devGetInfo, devGetState, devArm, devRun, devDisarm, devStandby,
devReset, devSetNotify, devSetTimeout, devEcho. -/
def Obligations.DeviceMessages : Prop :=
  ∀ (s : State) (ch : Fin 33) (c : Cmd) (b : State), b = s.begun ch →
    (s.Begins ch 0x000 0 c → ∀ o, o = s.boot.otp → Tells (.devGetInfo ch) s ch c
      [pack [(1, 31, 24), (b2n o.part128, 8, 8), (if o.part128 then 128 else 64, 7, 0)],
        (match s.boot.fw with | some f => f.version | none => 0), o.serial,
        pack [(s.boot.cause.toNat, 43, 40), (s.boot.strap.toNat, 35, 32), (b2n s.boot.member, 24, 24),
          (s.chain.pos.getD 0, 21, 16), (s.chain.number.toNat, 15, 0)],
        pack [(o.rollback, 6, 0)]]) ∧
    (s.Begins ch 0x001 0 c → Tells (.devGetState ch) s ch c
      [pack [(s.dev.from_.code, 11, 8), (b2n s.dev.fogPending, 4, 4), (s.dev.state.code, 3, 0)], s.dev.since.w0, s.dev.since.w1]) ∧
    (s.Begins ch 0x002 0 c → Makes (.devArm ch) s ch c (b.changeState .armed)) ∧
    (s.Begins ch 0x003 0 c →
      (s.dev.fogPending = false → Makes (.devRun ch) s ch c (b.changeState .running).advanceAll) ∧
      (s.dev.fogPending = true → Makes (.devRun ch) s ch c b.enterFog.advanceAll)) ∧
    (s.Begins ch 0x004 0 c → s.dev.state = .fog →
      (s.faults.causes = [] → Makes (.devDisarm ch) s ch c
        (State.changeState { b with dev := { s.dev with fogPending := false } } .armed).runningToPending) ∧
      (s.faults.causes ≠ [] → Refuses (.devDisarm ch) s ch c 1 0xFFFF)) ∧
    (s.Begins ch 0x004 0 c → s.dev.state ≠ .fog →
      ∀ u, u = ((b.changeState .armed).runningToPending.discardUnstarted fun _ => true).pulsesLow (fun _ => true) →
      Makes (.devDisarm ch) s ch c u [] 0 (.launches (u.dev.launches.map (·.id)))) ∧
    (s.Begins ch 0x005 0 c →
      ∀ u, u = ((b.changeState .standby).portsStop fun _ => true).discardUnstarted (fun l => l.char == 4) →
      Makes (.devStandby ch) s ch c { u with chars := u.chars.map fun (x : Sys2Proof.Machine.Char) =>
        if x.state = .pending then { x with state := .loaded } else x }) ∧
    (∀ v u : State, u = v.discardUnstarted (fun l => l.char < 4) → v.runningToPending = { u with
      chars := u.chars.map fun (x : Sys2Proof.Machine.Char) => if x.state = .running then { x with state := .pending } else x }) ∧
    (∀ (v : State) nxt cause, v.changeState nxt cause = ({ v with dev := { v.dev with
        from_ := v.dev.state, state := nxt, since := v.now.stamp } }).event 0x0F0
      (pack [(v.dev.state.code, 15, 12), (nxt.code, 11, 8), (1, 7, 0)]) (wd cause)) ∧
    (s.Begins ch 0x006 0 c → Tells (.devReset ch) s ch c []) ∧
    (s.Begins ch 0x007 1 c → ∀ w, w = wAt c.words 0 →
      (bits w 3 0 ≤ 12 → Makes (.devSetNotify ch) s ch c { b with criser := { b.criser with
        subj := put s.criser.subj (bits w 3 0) (bits w 20 16, bit w 8) } }) ∧
      (12 < bits w 3 0 → Refuses (.devSetNotify ch) s ch c 2 0)) ∧
    (∀ i w, s.Begins ch 0x008 2 c → i = bits (wAt c.words 0) 4 0 → w = bits (wAt c.words 1) 31 0 →
      (1 ≤ w → w ≤ 60000 → Makes (.devSetTimeout ch) s ch c (b.setChan i { b.chan i with waitMs := w })) ∧
      (w = 0 ∨ 60000 < w → Refuses (.devSetTimeout ch) s ch c 2 1)) ∧
    (s.Begins ch 0x009 0 c → c.words.length ≤ 254 → Tells (.devEcho ch) s ch c c.words) ∧
    (s.Begins ch 0x009 0 c → 254 < c.words.length → Refuses (.devEcho ch) s ch c 2 254)

/-! ### The chain (ch. 15) -/

/-- Ports and lanes (R373 to R377, R386, R410, R425, R427, R433, log entries 76, 84): a training that ends brings the port up
on the lanes that have not failed, less its spare, 8 in each direction or 4 of them, a member's upstream port with its
position, which it also takes later from a partner that had none; a lead or member with a boot image sends it to a partner that
waits for one. A failing lane that carries traffic stops the port and waits for the lamp changer where its direction's spare is
free; then the port retrains on 4 lanes, then it is down; an idle lane is only retired. The spare placed, the port sends again
what was not acknowledged and then what waited. A retrain ends with the port up and the flits that waited sent, or after its
third repeat with the port down; each attempt is counted. A port that went down trains anew. A replay sends the flit named and
those after it; a flit is 256 bytes, its last 8 the CRC-64 of the others. In other states of the port nothing changes. Chain
time transfer (R373, R382, R383, log entry 78): a member that takes its time from the chain starts an exchange in each new
millisecond; a port answers a TIME flit with t2 and t3, at most 1 µs apart; a reply gives the servo one sample, unless the path
delay has changed, the port was disturbed, the partner is in holdover, or a step lay between: then it is counted as discarded.
Stamps are taken to 1/64 of a unit interval, received ones without the port's asymmetry; when in its keeper cycle a flit passes
the balls is a free value. Completes: chainTrainingDone, laneSpared, retrained, linkUp, flitReplay, chainTimeExchange,
timeExchangeReply, timeReplyRx. -/
def Obligations.ChainLinksAndTime : Prop :=
  (∀ (s : State) (port : Fin 2) (p : ChainPort) (i : Nat), i = port.val → p = s.port i →
    (∀ (x : Training) (y : ChainPartner) pos, pos = (y.pos.bind fun q => if q.toNat < 63 then some (q.toNat + 1) else none) →
      (p.state = .training → p.retrain = false → ∀ dirs lanes up u v, trainedPort p.dirs x = (dirs, lanes) →
        up = { p with state := .up, lanes := lanes, attempts := 0, wasDown := false, delay := x.delay, asym := x.asym, dirs := dirs
                      wantsImage := y.wantsImage && decide (i = 1) } →
        u = (if i = 0 then { s.setPort i up with chain := { (s.setPort i up).chain with upDelay := x.delay, pos := pos } }
          else s.setPort i up) →
        v = (if p.wasDown then u.cnEvent 1 i u.ownPos 0 else u) → Does (.chainTrainingDone port x y) s v.sendImage) ∧
      (p.state = .up → i = 0 → s.chain.pos = none →
        Does (.chainTrainingDone port x y) s { s with chain := { s.chain with pos := pos } }) ∧
      (p.state = .down ∨ (p.state = .training ∧ p.retrain = true) ∨ (p.state = .up ∧ (i = 1 ∨ s.chain.pos ≠ none)) →
        exec (.chainTrainingDone port x y) s = .next s)) ∧
    (∀ (d : Vector Lanes 2) (x : Training) (a : Vector Lanes 2), a = #v[d[0].trained x.out, d[1].trained x.inn] →
      (8 ≤ popN 9 a[0].active.toNat → 8 ≤ popN 9 a[1].active.toNat → trainedPort d x = (a, 8)) ∧
      (popN 9 a[0].active.toNat < 8 ∨ popN 9 a[1].active.toNat < 8 →
        trainedPort d x = (a.map fun l => { l with active := lowLanes l.active 4 }, 4))) ∧
    (∀ (l : Lanes) (x : LaneTraining),
      (l.bad = 0 → l.trained x = { active := ~~~ BitVec.ofNat 9 (2 ^ x.spare.val), spareLane := x.spare.val, skew := x.skew }) ∧
      (l.bad ≠ 0 → l.trained x = { l with active := ~~~ l.bad, spareUsed := true, skew := x.skew })) ∧
    (∀ bs, (s.bootBytes = none ∨ (s.port 1).state ≠ .up ∨ (s.port 1).wantsImage = false → s.sendImage = s) ∧
      (s.bootBytes = some bs → (s.port 1).state = .up → (s.port 1).wantsImage = true → s.sendImage =
        (s.setPort 1 { s.port 1 with wantsImage := false }).sendMsg 1 flitControl bs (some (.bootImage bs)))) ∧
    (∀ out (lane : Fin 9) unacked dir l q unit, dir = (if out then 0 else 1) → l = at_ p.dirs dir {} → unit = 16 * i + lane.val →
      q = { p with dirs := put p.dirs dir { l with bad := l.bad ||| BitVec.ofNat 9 (2 ^ lane.val) } } →
      (l.bad.getLsbD lane.val = true → exec (.laneSpared port ⟨out, lane, unacked⟩) s = .next s) ∧
      (l.bad.getLsbD lane.val = false →
        (p.state ≠ .up ∨ l.active.getLsbD lane.val = false → ∀ u, u = s.setPort i q →
          Does (.laneSpared port ⟨out, lane, unacked⟩) s ((u.log 0x04 2 unit 0 0 0).wearHalf 0x04 unit u.lanesUsed 4)) ∧
        (p.state = .up → l.active.getLsbD lane.val = true → l.spareFree = true → Does (.laneSpared port ⟨out, lane, unacked⟩) s
          (((s.setPort i { q with stopped := true }).disturb i).enqueue { cls := 4, unit := unit, dir := dir, unacked := unacked })) ∧
        (p.state = .up → l.active.getLsbD lane.val = true → l.spareFree = false →
          Does (.laneSpared port ⟨out, lane, unacked⟩) s ((s.setPort i q).degrade i dir lane.val)))) ∧
    (∀ dir lane seen unit, unit = 16 * i + lane →
      (p.lanes = 8 → s.degrade i dir lane seen = ((((s.setPort i { p with
        dirs := fourLanes p.dirs dir lane, stopped := false }).startRetrain i 4).log 0x04 2 unit 0 0 0 seen).cnEvent 4 i s.ownPos 0)) ∧
      (p.lanes ≠ 8 → s.degrade i dir lane seen = (s.log 0x04 2 unit 0 0 0 seen).portDown i)) ∧
    (∀ (x : Subst) (lane : Nat) (l : Lanes), lane < 9 → x.unit = 16 * i + lane → l = at_ p.dirs x.dir {} → p.state = .up →
      l.active.getLsbD lane = true → l.spareFree = true → ∀ more u v,
      more = (s.faults.queue.any fun q => q.cls == 4 && q.unit / 16 == i) →
      u = (s.setPort i { p with dirs := put p.dirs x.dir (l.spare lane), stopped := more }).disturb i →
      v = (((u.log 0x04 1 x.unit 0 0 0 (some x.seen)).wearHalf 0x04 x.unit u.lanesUsed 4).cnEvent 3 i s.ownPos 0).replayLast i x.unacked →
      s.switchChainLane x true = if more then v else v.sendWaiting i) ∧
    (∀ good, (p.state ≠ .training ∨ p.retrain = false → exec (.retrained port good) s = .next s) ∧
      (p.state = .training → p.retrain = true → ∀ u, u = { s with chain := { s.chain with
          retrains := sat32 (s.chain.retrains + 1) } } →
        (good = true → Does (.retrained port good) s (State.sendImage (((u.setPort i { p with
          state := .up, retrain := false, attempts := 0, waiting := [] }).putFlits i (slotOrder p.waiting)).cnEvent 5 i
            s.ownPos 0))) ∧
        (good = false → ∀ v, v = (u.setPort i { p with attempts := p.attempts + 1 }).cnEvent 5 i s.ownPos 0 →
          (p.attempts < 3 → Does (.retrained port good) s v) ∧
          (3 ≤ p.attempts → Does (.retrained port good) s (v.portDown i))))) ∧
    (p.state = .down → p.wasDown = true →
      (s.chainUp = true → (i = 1 ∨ s.boot.member = true) → Does (.linkUp port) s (s.setPort i { p with
        state := .training, retrain := false, stopped := false, attempts := 0, lanes := 0, waiting := [], wantsImage := false })) ∧
      (s.chainUp = false ∨ (i = 0 ∧ s.boot.member = false) → exec (.linkUp port) s = .next s)) ∧
    (p.state ≠ .down ∨ p.wasDown = false → exec (.linkUp port) s = .next s) ∧
    (∀ after : Fin 64,
      (s.portUp i = true → after.val < p.replay.length → Does (.flitReplay ⟨port, after⟩) s
        ((State.count { s with chain := { s.chain with retries := sat32 (s.chain.retries + 1) } } 33 0xA4 1).emit (.replay i
          ((p.replay.drop (p.replay.length - (after.val + 1))).map fun f => (f.cls, f.image))))) ∧
      (s.portUp i = false ∨ p.replay.length ≤ after.val → exec (.flitReplay ⟨port, after⟩) s = .next s)) ∧
    (∀ (f : Flit) n bs, f.data.length ≤ 240 → bs = (f.sent i n).image → bs.length = 256 ∧
      (bs.drop 8).take f.data.length = f.data ∧ bs.drop 248 = leBytes 8 (crc64 (bs.take 248)).toNat)) ∧
  (∀ (s : State) (u : State) (k : Nat) (ms : Int), s.take 1 = (k, u) → ms = s.time.line / (1000000 * 281474976710656) →
    (∀ n : Nat, s.subInst n = (s.time.line + s.time.rate * n / 1400) / 4294967296) ∧
    (∀ port n, s.rxStamp port n = s.subInst n - (s.port port).asym) ∧
    k = s.free ∧ u = { s with free := s.free + 1 } ∧ subCycle k < 1400 ∧
    (∀ t1, t1 = s.subInst (subCycle k) → s.boot.member = true → s.time.source = .chainUp → s.portUp 0 = true → s.keeperUp = true →
      ms ≠ s.chain.lastMs → Does .chainTimeExchange s (State.sendMsg { u with chain := { s.chain with
        lastMs := ms, exch := some { t1 := t1, stale := false, disturbed := false } } } 0 flitTime []
          (some (.timeFlit t1)))) ∧
    (s.boot.member = false ∨ s.time.source ≠ .chainUp ∨ s.portUp 0 = false ∨ s.keeperUp = false ∨ ms = s.chain.lastMs →
      exec .chainTimeExchange s = .next s) ∧
    (∀ lag, (s.portUp 1 = true → s.position ≠ none → lag ≤ 1792000 → Does (.timeExchangeReply lag) s
        ((u.recvFlits 1 1).sendMsg 1 flitTime []
          (some (.timeReply (s.rxStamp 1 (subCycle k)) (s.subInst (subCycle k + lag)) s.time.flags)))) ∧
      (s.portUp 1 = false ∨ s.position = none ∨ 1792000 < lag → exec (.timeExchangeReply lag) s = .next s)) ∧
    (∀ t2 t3 flags stepped, (s.chain.exch = none ∨ s.portUp 0 = false → exec (.timeReplyRx t2 t3 flags stepped) s = .next s) ∧
      ∀ e t4 bad, s.chain.exch = some e → s.portUp 0 = true → t4 = s.rxStamp 0 (subCycle k) →
        (bad = true ↔ flags.getLsbD 0 = true ∨ stepped = true ∨ e.disturbed = true ∨
          131072 < ((t2 - e.t1) + (t4 - t3) - 2 * s.chain.upDelay).natAbs) →
        ∀ v, v = (State.recvFlits { u with chain := { s.chain with
            exch := none, exchanges := sat32 (s.chain.exchanges + 1)
            discarded := if bad then sat32 (s.chain.discarded + 1) else s.chain.discarded } } 0 1).count 33 0xA5 1 →
          (bad = true ∨ e.stale = true ∨ s.time.source ≠ .chainUp → Does (.timeReplyRx t2 t3 flags stepped) s v) ∧
          (bad = false → e.stale = false → s.time.source = .chainUp → Does (.timeReplyRx t2 t3 flags stepped) s
            { v with free := s.free + 2, time := { s.time with samples := s.time.samples ++
              [{ src := .chainUp, o := divFree (s.free + 1) ((e.t1 - t2) + (t4 - t3)) 2 }] } })))

/-- The chain messages (R377 to R380, R385, R386): CN_ENUMERATE is a lead's and answers the members found, and a member answers
its query; CN_FORWARD passes an inner command to a member and answers its completion, FAULTED where the member is lost; while
the downstream port trains or stops both wait for it (the other devices are operands: log entry 77); CN_RETRAIN trains a port
and completes when it has ended, FAULTED for one that is down; CN_SET_NUMBER stores the number. A notification of a member
comes on its lead, and the chain ends where the member has lost the next link. Completes: forwardedNote, cnGetStatus,
cnEnumerate, cnForward, cnRetrain, cnSetNumber. -/
def Obligations.ChainMessages : Prop :=
  ∀ (s : State) (ch : Fin 33) (c : Cmd) (b : State), b = s.begun ch →
    (s.Begins ch 0x900 0 c → Tells (.cnGetStatus ch) s ch c
      [pack [(b2n (!s.boot.member && s.chain.enumerated), 63, 63), (b2n s.boot.member, 62, 62), (s.ownPos, 61, 56),
          (if s.boot.member then 0 else s.chain.len, 54, 48), ((s.port 0).lanes, 15, 12), (b2n (s.port 0).spareUsed, 11, 11),
          ((s.port 0).state.code, 10, 8), ((s.port 1).lanes, 7, 4), (b2n (s.port 1).spareUsed, 3, 3),
          ((s.port 1).state.code, 2, 0)],
        pack [(s.chain.retries, 63, 32), (s.chain.retrains, 31, 0)], wd s.chain.upDelay,
        pack [(s.chain.exchanges, 63, 32), (s.chain.discarded, 31, 0)]]) ∧
    (∀ answers, s.Begins ch 0x901 0 c → s.boot.member = true → Refuses (.cnEnumerate ch (.answers answers)) s ch c 1 0xFFFF) ∧
    (∀ answers, s.Begins ch 0x901 0 c → s.boot.member = false → s.downHeld = true →
      Makes (.cnEnumerate ch (.answers answers)) s ch c b [] 0 (.chain (.enumerate answers))) ∧
    (∀ answers ws u, s.Begins ch 0x901 0 c → s.boot.member = false → s.downHeld = false → b.enumerate answers = (ws, u) →
      Makes (.cnEnumerate ch (.answers answers)) s ch c u ws) ∧
    (∀ (v : State) answers ms u, ms = (if v.portUp 1 then answers.take 63 else []) →
      u = (if v.portUp 1 then
        ((List.range (ms.length + 1)).foldl (fun v _ => State.sendMsg v 1 flitControl [] none) v).recvFlits 1 ms.length else v) →
      v.enumerate answers = (wd (ms.length + 1) :: ms.map (fun m =>
          pack [(m.number.toNat, 63, 48), (m.lpddrGib.toNat, 47, 40), (m.state.toNat, 39, 36), (m.cause.toNat, 35, 32)]),
        { u with chain := { u.chain with enumerated := true, len := ms.length + 1, members := ms } })) ∧
    (s.downHeld = true ↔ s.portUp 1 = false ∧ (s.port 1).state ≠ .down) ∧
    (s.boot.member = true → s.keeperUp = true → s.portUp 0 = true → s.chain.pos ≠ none → ∀ u, u = s.recvFlits 0 1 →
      Does (.cnEnumerate ch .query) s (State.sendMsg { u with chain := { u.chain with enumerated := true } } 0 flitControl []
        (some (.enumReply
          { number := s.chain.number, lpddrGib := if s.boot.otp.part128 then 128 else 64
            state := BitVec.ofNat 4 s.dev.state.code, cause := s.boot.cause })))) ∧
    (s.boot.member = false ∨ s.keeperUp = false ∨ s.portUp 0 = false ∨ s.chain.pos = none →
      exec (.cnEnumerate ch .query) s = .next s) ∧
    (∀ reply, s.Begins ch 0x902 2 c → s.boot.member = true ∨ s.chain.enumerated = false →
      Refuses (.cnForward ch reply) s ch c 1 0xFFFF) ∧
    (∀ reply pos len most, s.Begins ch 0x902 2 c → s.boot.member = false → s.chain.enumerated = true →
      pos = bits (wAt c.words 0) 5 0 → len = bits (wAt c.words 1) 47 32 →
      most = (if bits (wAt c.words 1) 63 52 = 0x009 then 252 else 253) →
      (pos = 0 ∨ s.chain.len ≤ pos → Refuses (.cnForward ch reply) s ch c 2 0) ∧
      (1 ≤ pos → pos < s.chain.len → most < len → Refuses (.cnForward ch reply) s ch c 2 1) ∧
      (1 ≤ pos → pos < s.chain.len → len ≤ most → c.words.length ≤ 1 + len →
        Refuses (.cnForward ch reply) s ch c 2 c.words.length) ∧
      (1 ≤ pos → pos < s.chain.len → len ≤ most → 1 + len < c.words.length → ∀ msg u, msg = (c.words.drop 1).take (1 + len) →
        u = b.sendMsg 1 flitControl (wordBytes msg) (some (.forward pos msg)) →
        (s.downHeld = true → Makes (.cnForward ch reply) s ch c u [] 0 (.chain (.forward reply))) ∧
        (∀ r, s.portUp 1 = true → reply = some r →
          Makes (.cnForward ch reply) s ch c (u.recvFlits 1 (flitsOf (8 * r.length))) (r.take 254)) ∧
        ((s.port 1).state = .down ∨ (s.portUp 1 = true ∧ reply = none) → Makes (.cnForward ch reply) s ch c u [] 7))) ∧
    (∀ (v : State) reply answers ws t, v.enumerate answers = (ws, t) → v.endChainJob (.enumerate answers) = (t, 0, ws) ∧
      (∀ r, v.portUp 1 = true → reply = some r →
        v.endChainJob (.forward reply) = (v.recvFlits 1 (flitsOf (8 * r.length)), 0, r.take 254)) ∧
      (v.portUp 1 = false ∨ reply = none → v.endChainJob (.forward reply) = (v, 7, []))) ∧
    (∀ i : Fin 2, s.Begins ch 0x903 1 c → i.val = bits (wAt c.words 0) 0 0 →
      ((s.port i.val).state = .down → Makes (.cnRetrain ch) s ch c b [] 7) ∧
      ((s.port i.val).state = .training → Makes (.cnRetrain ch) s ch c b [] 0 (.retrain i.val)) ∧
      ((s.port i.val).state = .up →
        Makes (.cnRetrain ch) s ch c (b.startRetrain i.val (s.port i.val).lanes) [] 0 (.retrain i.val))) ∧
    (s.Begins ch 0x904 1 c → Makes (.cnSetNumber ch) s ch c
      { b with chain := { s.chain with number := BitVec.ofNat 16 (bits (wAt c.words 0) 15 0) } }) ∧
    (∀ (pos : BitVec 6) msg lost, (s.boot.member = true ∨ s.chain.enumerated = false ∨ pos.toNat = 0 ∨ s.chain.len ≤ pos.toNat ∨
        s.portUp 1 = false → exec (.forwardedNote pos ⟨msg, lost⟩) s = .next s) ∧
      (s.boot.member = false → s.chain.enumerated = true → 0 < pos.toNat → pos.toNat < s.chain.len → s.portUp 1 = true →
        ∀ u v, u = s.recvFlits 1 (flitsOf (8 * msg.length)) →
          v = (if msg = [] then u else u.notify 0x9F0 (pack [(pos.toNat, 21, 16), (1, 8, 8), (0x10, 7, 0)] :: msg)) →
          (lost = true ∨ (bits (wAt msg 0) 63 52 = 0x9F0 ∧ bits (wAt msg 1) 7 0 = 2 ∧ bits (wAt msg 1) 8 8 = 1) →
            Does (.forwardedNote pos ⟨msg, lost⟩) s (v.loseMember (pos.toNat + 1))) ∧
          (lost = false → ¬ (bits (wAt msg 0) 63 52 = 0x9F0 ∧ bits (wAt msg 1) 7 0 = 2 ∧ bits (wAt msg 1) 8 8 = 1) →
            Does (.forwardedNote pos ⟨msg, lost⟩) s v))) ∧
    (∀ pos, (s.boot.member = true ∨ s.chain.enumerated = false ∨ s.chain.len ≤ pos → s.loseMember pos = s) ∧
      (s.boot.member = false → s.chain.enumerated = true → pos < s.chain.len → s.loseMember pos =
        State.cnEvent { s with chain := { s.chain with len := pos, members := s.chain.members.take (pos - 1) } } 6 1 pos 0))

/-! ### Resets, boot and security (ch. 16) -/

/-- The causes of a full and of a warm reset (R369, R389, R390, R393 to R395, R430, R466, R473): what each leaves, its code in
RESET_CAUSE, the first of those that arise in one REFCLK cycle, and when it does not come about. The boot watchdog acts 2,000
ms after it started, and stays disarmed after three in a row (in OPTION_LOAD a free value says whether the strap arms it, log
entry 81); the keeper watchdog acts 10 or 50 ms after a pair last serviced it, which a pair that has stopped did no later than
it stopped; DEV_RESET 10 ms after its completion (times of the always-on domain: log entry 13; the order of causes and what a
warm reset goes on to: 79; RESET_N in the hold of the supplies: 91). Completes: powerOn, resetNLow, supplyMonitor, thermalTrip,
bootWatchdog, keeperWatchdog, keeperRequest. -/
def Obligations.ResetCauses : Prop :=
  ∀ (s : State) (b : Boot), b = s.boot →
    (∀ cause, FullReset s (s.fullReset cause) cause ∧ WarmReset s (s.warmReset cause) cause) ∧
    (∀ c, (b.causeAt = some b.refCycle → causeRank b.cause.toNat < causeRank c → b.causeWith c = b.cause) ∧
      (b.causeAt ≠ some b.refCycle ∨ causeRank c ≤ causeRank b.cause.toNat → b.causeWith c = BitVec.ofNat 4 c)) ∧
    [1, 6, 5, 8, 2, 7, 3, 4].map causeRank = List.range 8 ∧
    (∀ t, t = s.fullReset 1 → Does .powerOn s { t with mem := {}, pins := { t.pins with thermTripN := true }
                                                       boot := { t.boot with
      railsOut := allRails, railsAt := t.boot.aon, thermHold := false } }) ∧
    (b.resetN = true → ∀ t, t = s.fullReset (if b.cause = 1 ∧ b.railsOut ≠ [] then 1 else 2) →
      Does .resetNLow s { t with boot := { t.boot with resetN := false } }) ∧
    (b.resetN = false → exec .resetNLow s = .next s) ∧
    (∀ r t, t = s.fullReset 6 → Does (.supplyMonitor r) s { t with
      boot := { t.boot with
        railsOut := if b.railsOut.contains r then b.railsOut else b.railsOut ++ [r], railsAt := b.aon }
      pins := { t.pins with thermTripN := t.pins.thermTripN || decide (r = .vddIo) } }) ∧
    (∀ t, t = s.fullReset 5 → Does .thermalTrip s { t with
      boot := { t.boot with thermHold := true, thermAt := b.aon }, pins := { t.pins with thermTripN := b.railsOut.contains .vddIo } }) ∧
    (s.bootArmed = true ↔ b.wdDisarmed = false ∧ ((s.dev.state = .optionLoad ∧ Config.strapWatchdog b.aon = true) ∨
      ((s.dev.state = .keeperBoot ∨ b.romServes = true) ∧ b.watchdogOn = true))) ∧
    (∀ from_ t, s.bootArmed = true → b.wdFrom = some from_ → from_ + 2000 * cycMs ≤ b.aon → t = s.warmReset 3 →
      Does .bootWatchdog s { t with boot := { t.boot with
        wdCount := min 3 (b.wdCount + 1), wdDisarmed := decide (3 ≤ b.wdCount + 1) } }) ∧
    (s.bootArmed = false ∨ (∀ from_, b.wdFrom = some from_ → b.aon < from_ + 2000 * cycMs) →
      exec .bootWatchdog s = .next s) ∧
    (s.mailOpen = true → ∀ missed : Nat → Nat → Nat → Prop,
      (∀ k ms last, missed k ms last ↔ b.openAt ≤ last ∧ last + ms * cycMs ≤ b.aon ∧
        ∀ c, at_ s.faults.stopAt k none = some c → last ≤ c ∧ c ≤ last + cycMs) →
      (∀ x y, (missed 0 50 x ∧ missed 1 50 y → Does (.keeperWatchdog (.both x y)) s (s.warmReset 3)) ∧
        (¬ (missed 0 50 x ∧ missed 1 50 y) → exec (.keeperWatchdog (.both x y)) s = .next s)) ∧
      (∀ p x last k, k = (if p = .a then 0 else 1) →
        (missed k 10 last → Does (.keeperWatchdog (.pair p x last)) s (s.pairFails p x)) ∧
        (¬ missed k 10 last → exec (.keeperWatchdog (.pair p x last)) s = .next s))) ∧
    (∀ m, s.mailOpen = false → exec (.keeperWatchdog m) s = .next s) ∧
    (∀ asked f, s.dev.resetAt = some (asked, f) →
      (asked + 10 * cycMs ≤ s.time.counter → Does .keeperRequest s (s.warmReset (if f then 7 else 4))) ∧
      (s.time.counter < asked + 10 * cycMs → exec .keeperRequest s = .next s)) ∧
    (s.dev.resetAt = none → exec .keeperRequest s = .next s)

/-- The reset sequence and the clock domains (R393, R394, R396 to R398, R414, R436, R437, R442): once nothing holds the device
the PLLs are enabled; each lock of 4,096 reference cycles releases its domain, and with the last of them OPTION_LOAD begins; a
lock missing after 10 ms, or the loss of the CORE domain, is a full reset, the fourth in a row holds the device in DARK; the
loss of another domain is dated, also in DARK, stops what it clocks, and ends with its relock, 4,096 reference cycles later;
MEM comes back empty of LPDDR5X and packages. (Times of the always-on domain: log entry 13; entries of a loss and the relock of
MEM: 83; causes of one cycle: 79.) Completes: supplyRecovered, thermTripRelease, pllLock, pllNoLock, clockDomainLoss,
clockDomainRelock, relockTimeout, memRewriteDone, resetNRisingEdge. -/
def Obligations.ClockDomains : Prop :=
  ∀ (s : State) (b : Boot), b = s.boot →
    (b.resetN = true → b.railsOut = [] → b.thermHold = false → b.heldDark = false → s.dev.state = .dark →
      s.startSequence = { s with boot := { b with sequence := true, pllAt := b.aon, wdFrom := some b.aon } }) ∧
    (b.resetN = false ∨ b.railsOut ≠ [] ∨ b.thermHold = true ∨ b.heldDark = true ∨ s.dev.state ≠ .dark →
      s.startSequence = s) ∧
    (b.resetN = false → Does .resetNRisingEdge s (State.startSequence { s with boot := { b with resetN := true } })) ∧
    (b.resetN = true → exec .resetNRisingEdge s = .next s) ∧
    (b.railsOut ≠ [] → b.railsAt + cycMs ≤ b.aon →
      Does .supplyRecovered s (State.startSequence { s with boot := { b with railsOut := [] }, pins := { s.pins with thermTripN := !b.thermHold } })) ∧
    (b.railsOut = [] ∨ b.aon < b.railsAt + cycMs → exec .supplyRecovered s = .next s) ∧
    (b.thermHold = true → b.thermAt + cycSec ≤ b.aon → Does .thermTripRelease s (State.startSequence { s with
      boot := { b with thermHold := false }, pins := { s.pins with thermTripN := true } })) ∧
    (b.thermHold = false ∨ b.aon < b.thermAt + cycSec → exec .thermTripRelease s = .next s) ∧
    (∀ d u, u = s.setDom d { up := true } →
      (b.sequence = true → s.dev.state = .dark → u.boot.dom.toList.all (·.up) = true →
        s.releaseDom d = { u with dev := { s.dev with state := .optionLoad } }) ∧
      (b.sequence = false ∨ s.dev.state ≠ .dark ∨ u.boot.dom.toList.all (·.up) = false → s.releaseDom d = u)) ∧
    (∀ d from_, from_ = (s.dom d).lostAt.getD b.pllAt →
      (b.sequence = true → s.dev.state = .dark → (s.dom d).up = false → 5 * from_ + 4096 * 256 ≤ 5 * b.aon →
        Does (.pllLock d) s (s.releaseDom d)) ∧
      (b.sequence = false ∨ s.dev.state ≠ .dark ∨ (s.dom d).up = true ∨ 5 * b.aon < 5 * from_ + 4096 * 256 →
        exec (.pllLock d) s = .next s)) ∧
    (∀ n t u mask, t = s.fullReset 8 → u = { t with boot := { t.boot with
        noLockRun := b.noLockRun + 1, heldDark := decide (4 ≤ b.noLockRun + 1)
        pllUnlocked := (if b.noLockRun = 0 then 0 else b.pllUnlocked) ||| mask } } → mask = BitVec.ofNat 5 n →
      (4 ≤ b.noLockRun + 1 → s.noLock n = u.setDom .svc { up := (s.dom .svc).up }) ∧
      (b.noLockRun + 1 < 4 → s.noLock n = u.startSequence)) ∧
    (∀ d, (s.dev.state ≠ .dark ∨ (s.dom d).up = true → exec (.pllNoLock d) s = .next s) ∧
      (s.dev.state = .dark → (s.dom d).up = false →
        (b.noLockRun ≠ 0 → b.causeAt = some b.refCycle → Does (.pllNoLock d) s { s with boot := { b with
          pllUnlocked := b.pllUnlocked ||| BitVec.ofNat 5 (2 ^ domBit d) } }) ∧
        (b.noLockRun = 0 ∨ b.causeAt ≠ some b.refCycle →
          (b.sequence = true → b.pllAt + 10 * cycMs ≤ b.aon → Does (.pllNoLock d) s (s.noLock (2 ^ domBit d))) ∧
          (b.sequence = false ∨ b.aon < b.pllAt + 10 * cycMs → exec (.pllNoLock d) s = .next s)))) ∧
    (∀ d, ((s.dom d).up = false → exec (.clockDomainLoss d) s = .next s) ∧
      ((s.dom d).up = true →
        (d = .core → Does (.clockDomainLoss d) s (s.noLock 0)) ∧
        (d ≠ .core → ∀ o u v, o = s.setDom d { lostAt := some b.aon } →
          u = (if d = .svc then { o with boot := o.boot.linkLost } else o) →
          v = (if 2 ≤ s.dev.state.code ∧ ¬ (d = .mem ∧ ∀ x ∈ s.faults.causes, x.1 ≠ .mem) then u.log 0x0A 0 (domBit d) 0 0 0 else u) →
          (s.dev.state = .dark → Does (.clockDomainLoss d) s u) ∧
          (s.dev.state ≠ .dark →
            (d = .mem → ∀ w, w = { v with mem := { v.mem with reachable := false } } →
              (2 ≤ s.dev.state.code → Does (.clockDomainLoss d) s (w.addCause .mem 0x0A 1)) ∧
              (s.dev.state.code < 2 → Does (.clockDomainLoss d) s w)) ∧
            (d = .sensor → Does (.clockDomainLoss d) s v.sensorsLost) ∧ (d = .svc → Does (.clockDomainLoss d) s v) ∧
            (d = .chain → ∀ w, w = (if (v.port 0).state = .down then v else v.portDown 0) →
              Does (.clockDomainLoss d) s (if (w.port 1).state = .down then w else w.portDown 1)))))) ∧
    (∀ d, (s.dom d).lostAt = none → exec (.clockDomainRelock d) s = .next s ∧ exec (.relockTimeout d) s = .next s) ∧
    (∀ d lost, (s.dom d).lostAt = some lost →
      (5 * b.aon < 5 * lost + 4096 * 256 → exec (.clockDomainRelock d) s = .next s) ∧
      (5 * lost + 4096 * 256 ≤ 5 * b.aon → ∀ u, u = s.releaseDom d →
        (d = .mem → ∀ v, v = (List.range 16).foldl State.removePackage u →
          Does (.clockDomainRelock d) s { v with mem := { v.mem.clearLpddr with reachable := true } }) ∧
        (d = .sensor → Does (.clockDomainRelock d) s (u.endCause .sensor)) ∧
        (d = .chain → Does (.clockDomainRelock d) s ((u.trainPort 0).trainPort 1)) ∧
        (d = .core ∨ d = .svc → Does (.clockDomainRelock d) s u)) ∧
      ((s.dom d).late = false → lost + 10 * cycMs ≤ b.aon →
        ∀ u x, x = s.dom d → u = s.setDom d { x with late := true } →
        (d = .sensor → Does (.relockTimeout d) s (u.addCause .sensor 0x0A 4)) ∧
        (d ≠ .sensor → Does (.relockTimeout d) s u)) ∧
      ((s.dom d).late = true ∨ b.aon < lost + 10 * cycMs → exec (.relockTimeout d) s = .next s)) ∧
    (s.mem.reachable = true → Does .memRewriteDone s (s.endCause .mem)) ∧
    (s.mem.reachable = false → exec .memRewriteDone s = .next s)

/-- Option load, boot and the service-port link (R351, R352, R376, R390, R392, R395, R398 to R402, R405, R409, R410, R425,
R436, R437): the strap's resistance decides what the device is; boot takes the firmware that verifies and ends in STANDBY, or
ends in FAULT_HALT with the errors of the slots, in which the boot ROM serves; a flash read that does not complete ends it too;
an image comes over the chain in parts; the link comes at some width and speed (log entry 98), and goes with its configuration
space. A slot is 8 MiB, and bytes that an agent outside has written come with the row (the order of slots: log entry 81). Out
of their states the rows do nothing. Completes: optionLoadDone, keeperBootDone, flashTimeout, chainBootImage, svcLinkReset,
servicePortLinkUp. -/
def Obligations.BootSequence : Prop :=
  ∀ (s : State) (b : Boot), b = s.boot →
    (∀ k (i : Fin 15), strapOf k (some strapOhms[i.val]!) = i.val ∧ strapOf k none = 15) ∧
    (∀ k (i : Fin 14) r, 1 ≤ i.val → strapOhms[i.val]! ≤ r → r ≤ strapOhms[i.val + 1]! →
      (r * r < strapOhms[i.val]! * strapOhms[i.val + 1]! → strapOf k (some r) = i.val) ∧
      (strapOhms[i.val]! * strapOhms[i.val + 1]! < r * r → strapOf k (some r) = i.val + 1)) ∧
    (∀ ohms lost, (s.dev.state = .optionLoad → ∀ u, u = { s with free := s.free + 1 } → Does (.optionLoadDone ohms lost) s
        (((u.takeStrap (BitVec.ofNat 4 (strapOf s.free ohms)) (otpLost lost)).trainPort 0).trainPort 1)) ∧
      (s.dev.state ≠ .optionLoad → exec (.optionLoadDone ohms lost) s = .next s)) ∧
    (∀ (strap : BitVec 4) bad lead chained on x, lead = !strap.getLsbD 1 → chained = (!lead && strap.getLsbD 0) →
      on = (lead || !strap.getLsbD 2) → x = (if on then b else b.linkLost) →
      s.takeStrap strap bad = { s with
        dev := { s.dev with state := .keeperBoot, from_ := .optionLoad }
        boot := { x with
          strap := strap, member := !lead, chainBoot := chained, serviceOn := on, watchdogOn := !strap.getLsbD 3
          strapIgnored := lead && (strap.getLsbD 0 || strap.getLsbD 2), otpCorrupt := bad
          octal := !chained, wdFrom := if chained then none else b.wdFrom } }) ∧
    (∀ e0 e1, ∀ k : Fin 2, (b.rewritten e0 e1).image k.val =
      ((if k.val = 0 then e0 else e1).getD b.flash[k]).take 0x800000) ∧
    (∀ e0 e1 failed (x : Boot), x = b.rewritten e0 e1 → s.dev.state = .keeperBoot →
      (b.chainBoot = true → b.otpCorrupt = false → b.chainWhole = false → exec (.keeperBootDone e0 e1 failed) s = .next s) ∧
      (b.chainBoot = false ∨ b.otpCorrupt = true ∨ b.chainWhole = true →
        (∀ y z, x.choose = (none, y, z) → Does (.keeperBootDone e0 e1 failed) s (State.bootFails { s with boot := x } y z)) ∧
        (∀ f y z now m u v w, x.choose = (some f, y, z) → now = s.time.counter →
          m = (if b.clearLpddr then s.mem.clearLpddr else s.mem) →
          u = { s with
            mem := { m with asleep := 0, lastLpddr := now }
            boot := { x with fw := some f, slot := f.slot, slot0Error := BitVec.ofNat 4 y, slot1Error := BitVec.ofNat 4 z
                             clearLpddr := false, devKeys := some b.otp.deviceKeys }
            tiles := { s.tiles with katAt := Vector.replicate 64 now }
            solver := { s.solver with katAt := Vector.replicate 17 now }
            faults := { s.faults with wearAt := now, pprHard := s.faults.pprUsed }
            budget := { s.budget with windowAt := now, windowMs := s.time.line / ms48 } } →
          v = (let t := failed.foldl (State.bootTest b.clearLpddr) u
            if t.mem.reachable then t else t.addCause .mem 0x0A 1) →
          w = (State.changeState (if (v.dom .sensor).late then v.addCause .sensor 0x0A 4 else v) .standby).openMail.sendImage →
          Does (.keeperBootDone e0 e1 failed) s (if w.lanes = 0 then w.enterHalt 0x03 0 else w)))) ∧
    (∀ e0 e1 failed, s.dev.state ≠ .keeperBoot → exec (.keeperBootDone e0 e1 failed) s = .next s) ∧
    (∀ (slot : Fin 2) header e0 e1 (x : Boot) e other, s.dev.state = .keeperBoot → b.chainBoot = false → b.otpCorrupt = false →
      x = b.rewritten e0 e1 → e = b.otp.verify 1 (x.image (1 - slot.val)) true →
      other = (if header = true ∨ x.order.headD 0 = slot.val ∨ e = 0 then 10 else e) → ∀ u : State, u = { s with boot := x } →
      Does (.flashTimeout ⟨slot, header, e0, e1⟩) s (if slot = 0 then u.bootFails 9 other else u.bootFails other 9)) ∧
    (∀ r, s.dev.state ≠ .keeperBoot ∨ b.chainBoot = true ∨ b.otpCorrupt = true → exec (.flashTimeout r) s = .next s) ∧
    (∀ (x : Boot) (err : Nat → Nat) a c, err = (fun k => x.otp.verify 1 (x.image k) true) → x.otpCorrupt = false → x.chainBoot = false →
      (a, c) = (if (imgWord (x.image 0) 1).toNat < (imgWord (x.image 1) 1).toNat then (1, 0) else (0, 1)) →
      x.choose = (if err a = 0 then (some (imgFirmware (x.image a) a), if a = 0 then (0, 10) else (10, 0))
        else if err c = 0 then (some (imgFirmware (x.image c) c), if a = 0 then (err a, 0) else (0, err a))
        else (none, if a = 0 then (err a, err c) else (err c, err a)))) ∧
    (∀ full (x : UnitId) n da, n = x.unit.toNat → da = x.addr.toNat →
      (x.cls = 1 → s.bootTest full x = s.coreFails n) ∧ (x.cls = 2 → s.works n = true → s.bootTest full x = s.switchTile n true) ∧
      (x.cls = 3 → n < 16 → s.faults.laneIn.getLsbD n = true → s.bootTest full x = s.switchLane n true) ∧
      (x.cls = 4 → n < 32 → n % 16 ≤ 8 → s.bootTest full x = s.bootLane n) ∧
      (x.cls = 5 → place s.boot.otp.part128 da = .near →
        s.bootTest full x = s.spareNearRow (nearOf da).1 (nearOf da).2.1 (nearOf da).2.2) ∧
      (x.cls = 6 → s.bootTest full x = s.bootBank n) ∧ (x.cls = 7 → s.bootTest full x = s.spareKeeperRow n) ∧
      (x.cls = 8 → full = true → s.mem.reachable = true → place s.boot.otp.part128 da = .lpddr →
        s.bootTest full x = s.repairRow da)) ∧
    (∀ y z, s.bootFails y z = (State.changeState { s with boot := { b with
      slot0Error := BitVec.ofNat 4 y, slot1Error := BitVec.ofNat 4 z, romServes := true } } .faultHalt).openMail) ∧
    (∀ bs last, (s.dev.state = .keeperBoot → b.chainBoot = true → s.portUp 0 = true → b.chainWhole = false →
        Does (.chainBootImage ⟨bs, last⟩) s { s.recvFlits 0 (flitsOf bs.length) with boot := { b with
          chainBytes := b.chainBytes ++ bs, chainWhole := last, wdFrom := if b.wdFrom = none then some b.aon else b.wdFrom } }) ∧
      (s.dev.state ≠ .keeperBoot ∨ b.chainBoot = false ∨ s.portUp 0 = false ∨ b.chainWhole = true →
        exec (.chainBootImage ⟨bs, last⟩) s = .next s)) ∧
    Does .svcLinkReset s { s with boot := { b with linkUp := false, svc := { aer := b.svc.aer } } } ∧
    ((s.dom .svc).up = true → (s.dev.state.code < 2 ∨ b.serviceOn = true) →
      ∃ width ∈ [1, 2, 4], ∃ speed ∈ [1, 2, 3, 4, 5], Does .servicePortLinkUp s { s with free := s.free + 2, boot := { b with
        linkUp := true, svc := { b.svc with width := width, speed := speed } } }) ∧
    ((s.dom .svc).up = false ∨ (2 ≤ s.dev.state.code ∧ b.serviceOn = false) → exec .servicePortLinkUp s = .next s)

/-- SC_REVOKE_ROOT (R412): the slot named is revoked for good and no other fuse is burned; where that slot signed the running
firmware the command completes with DENIED and burns nothing; packages stay installed either way. A slot that is not programmed
is BAD_ARG. Completes: scRevokeRoot. -/
def Obligations.RevocationBurnsOneSlot : Prop :=
  ∀ (s : State) (ch : Fin 33) (c : Cmd) (i : Nat) (f : Firmware) (b : State), s.Begins ch 0xA20 1 c → b = s.begun ch →
    i = bits (wAt c.words 0) 1 0 → s.boot.fw = some f →
    (s.boot.otp.programmed.getLsbD i = false → Refuses (.scRevokeRoot ch) s ch c 2 0) ∧
    (s.boot.otp.programmed.getLsbD i = true → f.rootSlot = i → Refuses (.scRevokeRoot ch) s ch c 4 0xFFFF) ∧
    (s.boot.otp.programmed.getLsbD i = true → f.rootSlot ≠ i → ∀ o, o = s.boot.otp →
      Makes (.scRevokeRoot ch) s ch c (State.scEvent { b with boot := { b.boot with
        otp := { o with revoked := o.revoked ||| BitVec.ofNat 4 (2 ^ i) } } } 4 0 i) ∧
      (∀ j, j ≠ i → j < 4 → (o.revoked ||| BitVec.ofNat 4 (2 ^ i)).getLsbD j = o.revoked.getLsbD j) ∧
      (o.revoked ||| BitVec.ofNat 4 (2 ^ i)).getLsbD i = true)

/-- SC_ADVANCE_ROLLBACK (R413): the counter is raised to VALUE, one step a fuse; a VALUE that is not above the present counter,
or is above the ROLLBACK of the running firmware, completes with BAD_ARG and burns nothing. Installed packages stay, also those
with a lower ROLLBACK. Completes: scAdvanceRollback. -/
def Obligations.RollbackCounterAdvances : Prop :=
  ∀ (s : State) (ch : Fin 33) (c : Cmd) (v : Nat) (f : Firmware) (b : State), s.Begins ch 0xA21 1 c → b = s.begun ch →
    v = bits (wAt c.words 0) 6 0 → s.boot.fw = some f →
    (1 ≤ v → v ≤ 64 → s.boot.otp.rollback < v → v ≤ f.rollback → Makes (.scAdvanceRollback ch) s ch c
      (State.scEvent { b with boot := { b.boot with otp := { s.boot.otp with rollback := v } } } 5 0 v)) ∧
    (v = 0 ∨ 64 < v ∨ v ≤ s.boot.otp.rollback ∨ f.rollback < v → Refuses (.scAdvanceRollback ch) s ch c 2 0)

/-- The security messages (R406, R408, R411, R414 to R418, R421): what each of them stores when its tests pass, the status and
the response when they do not. An installation closes its range, and its completion waits for the security engine, which
verifies the package, stores it read-only or reports the error, no sooner than the cycles that its row names; an update erases
the other slot once steps 1 to 6 have passed, and the engine then writes it and checks the chunks, within 60 s (log entry 82).
A report takes the next attestation leaf, burning a block of leaves when it needs one, and is signed with the device keys
(their derivation and the values of LMS that its standard leaves free: log entry 6). Completes: scInstall, scGetPackages,
scUpdateFirmware, scAttest, scGetStatus. -/
def Obligations.SecurityMessages : Prop :=
  ∀ (s : State) (ch : Fin 33) (c : Cmd) (b : State) (cycles : Nat), b = s.begun ch →
    (∀ i held, s.Begins ch 0xA00 2 c → i = bits (wAt c.words 0) 3 0 → held = at_ s.boot.packages i none →
      (bit (wAt c.words 0) 63 = true → (held = none → Refuses (.scInstall ch cycles) s ch c 1 0xFFFF) ∧
        (held ≠ none → Makes (.scInstall ch cycles) s ch c (b.removePackage i))) ∧
      (bit (wAt c.words 0) 63 = false → (held ≠ none → Refuses (.scInstall ch cycles) s ch c 1 0xFFFF) ∧
        ∀ region va, held = none → region = bits (wAt c.words 0) 25 16 → va = bits (wAt c.words 1) 47 0 →
        (look s.mem.regions region = none → Refuses (.scInstall ch cycles) s ch c 2 0) ∧
        ∀ w0 w1 w2, look s.mem.regions region = some (w0, w1, w2) →
          (coversRd w0 w2 va 128 = false → Refuses (.scInstall ch cycles) s ch c 2 0) ∧
          (coversRd w0 w2 va 128 = true →
            (∀ t, b.keeperRead va 128 = (none, t) → Makes (.scInstall ch cycles) s ch c t [] 7) ∧
            ∀ bs t, b.keeperRead va 128 = (some bs, t) →
              (coversRd w0 w2 va (imgBytes bs) = false → Refuses (.scInstall ch cycles) s ch c 2 0) ∧
              (coversRd w0 w2 va (imgBytes bs) = true → ∀ u, u = t.setPerms region false false false →
                Makes (.scInstall ch cycles) s ch c { u with boot := { u.boot with
                  job := some (.install i region va (bit w0 62) (bit w0 61) (bit w0 60)) } } [] 0 (.engine (s.time.counter + cycles)))))) ∧
    (∀ i region va rd wr ls undo, undo = (fun t : State => t.setPerms region rd wr ls) →
      (∀ t, s.engineRead region va 128 = (none, t) → s.endInstall i region va rd wr ls = (undo t, 7, [])) ∧
      ∀ head t, s.engineRead region va 128 = (some head, t) →
        (∀ u, t.engineRead region va (imgBytes head) = (none, u) → s.endInstall i region va rd wr ls = (undo u, 7, [])) ∧
        ∀ bs u e, t.engineRead region va (imgBytes head) = (some bs, u) → e = u.boot.otp.verify 2 bs true →
          (e ≠ 0 → s.endInstall i region va rd wr ls = ((undo u).scEvent 2 i e, 6, [wd e])) ∧
          (e = 0 → ∀ v p, v = u.setPerms region true false true →
            p = { id := imgWord bs 5, version := imgWord bs 1, region := region, va := va, rootSlot := imgRoot bs
                  rollback := imgRollback bs, digest := sha384 (imgSigned bs), bytes := imgBytes bs
                  rd := rd, wr := wr, ls := ls } →
            s.endInstall i region va rd wr ls = (State.scEvent { v with boot := { v.boot with
              packages := put v.boot.packages i (some p) } } 1 i 0, 0, []))) ∧
    (s.Begins ch 0xA01 0 c → ∃ resp : List Word, Tells (.scGetPackages ch) s ch c resp ∧ resp.length = 49 ∧
      (∀ i : Fin 16, (wAt resp 0).getLsbD i.val = s.boot.packages[i].isSome) ∧
      ∀ i : Fin 16, (s.boot.packages[i] = none → wAt resp (1 + 3 * i.val) = 0 ∧ wAt resp (2 + 3 * i.val) = 0 ∧
          wAt resp (3 + 3 * i.val) = 0) ∧
        ∀ q, s.boot.packages[i] = some q → wAt resp (1 + 3 * i.val) = q.id ∧ wAt resp (2 + 3 * i.val) = q.version ∧
          wAt resp (3 + 3 * i.val) = pack [(q.region, 57, 48), (q.va, 47, 0)]) ∧
    (∀ damage va f i, i = Instr.scUpdateFirmware ch cycles damage → s.Begins ch 0xA02 1 c → va = bits (wAt c.words 0) 47 0 →
      s.boot.fw = some f →
      (∀ t, b.keeperRead va 128 = (none, t) → Makes i s ch c t [] 7) ∧
      ∀ head t, b.keeperRead va 128 = (some head, t) →
        ((imgWord head 1).toNat ≤ f.version.toNat → Refuses i s ch c 2 0) ∧
        (f.version.toNat < (imgWord head 1).toNat →
          (∀ u, t.keeperRead va (imgBytes head) = (none, u) → Makes i s ch c u [] 7) ∧
          ∀ bs u e, t.keeperRead va (imgBytes head) = (some bs, u) → e = u.boot.otp.verify 1 bs false →
            (e ≠ 0 → Makes i s ch c u [wd e] 6) ∧
            (e = 0 → Makes i s ch c { u with boot := { u.boot with
              flash := put u.boot.flash (1 - f.slot) [], job := some (.update (1 - f.slot) bs damage) } } [] 0
              (.engine (s.time.counter + min cycles (60 * cycSec)))))) ∧
    (∀ slot image damage bs u, bs = damage.foldl (fun x d => x.set d.1 d.2) (image.take 8388608) →
      u = { s with boot := { s.boot with flash := put s.boot.flash slot bs, octal := true } } →
      (chunksOk bs = true → s.endUpdate slot image damage = (u.scEvent 3 0 0, 0, [])) ∧
      (chunksOk bs = false → s.endUpdate slot image damage = (u, 7, [7]))) ∧
    (∀ burn : Bool, s.Begins ch 0xA10 4 c → (burn = true ↔ s.boot.blockOpen = false ∨ 1024 ≤ s.boot.nextLeaf) →
      (burn = true → 1024 ≤ s.boot.otp.blocks →
        (s.boot.exhaustedSent = true → Makes (.scAttest ch) s ch c b [1] 3) ∧
        (s.boot.exhaustedSent = false → Makes (.scAttest ch) s ch c
          (State.scEvent { b with boot := { b.boot with exhaustedSent := true } } 6 0 0) [1] 3)) ∧
      (burn = false ∨ s.boot.otp.blocks < 1024 → ∀ blocks next leaf u body,
        blocks = s.boot.otp.blocks + b2n burn → next = (if burn then 0 else s.boot.nextLeaf) → leaf = 1024 * (blocks - 1) + next →
        u = { b with boot := { b.boot with
          otp := { s.boot.otp with blocks := blocks }, blockOpen := true, nextLeaf := next + 1
          reports := sat32 (s.boot.reports + 1) } } →
        body = u.reportBody c.words leaf → Makes (.scAttest ch) s ch c u
          (body ++ (s.boot.devKeys.getD s.boot.otp.deviceKeys).sign leaf (wordBytes body)))) ∧
    (∀ (k : DevKeys) leaf msg, (k.sign leaf msg).length = 230 ∧ (k.sign leaf msg).take 12 =
      bytesWords 12 (ecdsaSign k.ecdsa (sha384 msg).toNat)) ∧
    (∀ f o, s.Begins ch 0xA30 0 c → s.boot.fw = some f → o = s.boot.otp → Tells (.scGetStatus ch) s ch c
      [pack [(o.rollback, 30, 24), (o.roots, 23, 16), (f.rootSlot, 9, 8), (s.boot.slot, 0, 0)], f.version,
        pack [(o.blocks, 42, 32),
          ((1024 - o.blocks) * 1024 + (if s.boot.blockOpen then 1024 - s.boot.nextLeaf else 0), 20, 0)],
        pack [(s.boot.reports, 31, 0)]])

/-! ### Faults and spares (ch. 17) -/

/-- Keeper cores and the lamp changer (R426 to R430, R434, R438, R442): a pair that fails with core 4 free is out for its test;
a core that fails its test is replaced by core 4, a failing core 4 is retired, without a failing core only an entry is written;
with core 4 in use or gone the pair stops for good with fog cause KEEPER, and the keeper with the second pair. Faults wait for
the lamp changer in order of detection, class and unit, and while pair B runs it takes the one that is next: it gives a tile or
lane that has stopped its spare when the spare passes its test and retires it otherwise; a planned one is made only where a
spare is left, and one whose spare fails leaves the unit as it is. Entries carry the stamp of detection, and a class that has
used half of its spares is named. (Which fault is next among stopped and planned ones, and units with no spare left retired at
once: log entry 84; lanes of the chain: 76.) Completes: keeperCoreFault, lampChangerSwitch. -/
def Obligations.KeeperCoresAndLampChanger : Prop :=
  ∀ (s : State) (p : KPair) (k : Nat) (unit : Nat), k = (if p = .a then 0 else 1) → unit = (if p = .a then 0 else 2) →
    (∀ test, s.dev.state.code < 3 ∨ s.faults.keeperDead = true ∨ s.faults.pairDown = some p →
      exec (.keeperCoreFault p test) s = .next s) ∧
    (s.faults.keeperDead = false → 3 ≤ s.dev.state.code →
      (s.faults.pairDown = none → s.faults.core4 = none → s.faults.badCores.contains 4 = false → ∀ v, v = s.pairLeaves p →
        Does (.keeperCoreFault p .noneFails) s (v.log 0x01 7 unit 0 0 0) ∧
        ∀ core : Fin 5, (core.val = 4 → Does (.keeperCoreFault p (.fails core)) s v.core4Fails) ∧
          (core.val ∈ coresOf p → Does (.keeperCoreFault p (.fails core)) s (v.core4Joins p core.val)) ∧
          (core.val ≠ 4 → core.val ∉ coresOf p → Does (.keeperCoreFault p (.fails core)) s v)) ∧
      (∀ test stops, stops = put s.faults.stopAt k (some s.boot.aon) →
        (s.faults.pairDown = none → (s.faults.core4 ≠ none ∨ s.faults.badCores.contains 4 = true) →
          Does (.keeperCoreFault p test) s
            (State.addCause { s with faults := { s.faults with pairDown := some p, stopAt := stops } } .keeper 0x01 unit)) ∧
        (∀ q, s.faults.pairDown = some q → q ≠ p → Does (.keeperCoreFault p test) s
          { s with faults := { s.faults with keeperDead := true, stopAt := stops } }))) ∧
    s.pairLeaves p = { s with faults := { s.faults with pairOut := put s.faults.pairOut k (some s.time.counter) } } ∧
    (∀ core seen, s.core4Joins p core seen = ((State.log { s with faults := { s.faults with
        core4 := some p, badCores := s.faults.badCores ++ [core] } } 0x01 1 core 0 0 0 seen).wearHalf 0x01 core 1 1) ∧
      s.core4Fails seen = ((State.log { s with faults := { s.faults with
        badCores := s.faults.badCores ++ [4] } } 0x01 2 4 0 0 0 seen).wearHalf 0x01 4 1 1)) ∧
    (∀ cls u used total, (2 * used < total ∨ BitVec.ofNat 8 cls ∈ s.faults.wearHalf → s.wearHalf cls u used total = s) ∧
      (total ≤ 2 * used → BitVec.ofNat 8 cls ∉ s.faults.wearHalf → s.wearHalf cls u used total =
        State.log { s with faults := { s.faults with wearHalf := BitVec.ofNat 8 cls :: s.faults.wearHalf } } 0x11 0 u 0 0 0)) ∧
    (∀ x y, y = { x with since := s.time.counter, seen := s.now.stamp } →
      s.enqueue x = { s with faults := { s.faults with queue := insertSubst y s.faults.queue } } ∧
      insertSubst y [] = [y] ∧ ∀ q r,
        (q.since = y.since → (y.cls < q.cls ∨ y.cls = q.cls ∧ y.unit < q.unit) → insertSubst y (q :: r) = y :: q :: r) ∧
        (q.since ≠ y.since ∨ ¬ (y.cls < q.cls ∨ y.cls = q.cls ∧ y.unit < q.unit) →
          insertSubst y (q :: r) = q :: insertSubst y r)) ∧
    s.nextSubst = ((s.faults.queue.filter fun q => !q.planned) ++ s.faults.queue.filter s.unitIdle).head? ∧
    (∀ good, s.faults.keeperDead = true ∨ s.pairAway 1 = true ∨ s.nextSubst = none →
      exec (.lampChangerSwitch good) s = .next s) ∧
    (∀ good q u seen, s.faults.keeperDead = false → s.pairAway 1 = false → s.nextSubst = some q → seen = some q.seen →
      u = { s with faults := { s.faults with queue := s.faults.queue.erase q } } →
      (q.planned = true → u.spareLeft q.cls.toNat q.unit = false → Does (.lampChangerSwitch good) s u) ∧
      (q.planned = false ∨ u.spareLeft q.cls.toNat q.unit = true →
        (q.cls = 2 → (q.planned = true → good = false → ∀ v, v = { u with faults := { u.faults with
              tileSpareGone := u.faults.tileSpareGone ||| BitVec.ofNat 4 (2 ^ (q.unit / 16)) } } →
            Does (.lampChangerSwitch good) s ((v.log 0x02 2 q.unit 0 0 0 seen).wearHalf 0x02 q.unit
              (popN 4 v.faults.tileSpareGone.toNat) 4)) ∧
          (q.planned = false ∨ good = true → Does (.lampChangerSwitch good) s (u.switchTile q.unit good seen))) ∧
        (q.cls = 3 → (q.planned = true → good = false → Does (.lampChangerSwitch good) s (u.spareLaneFails seen)) ∧
          (q.planned = false ∨ good = true → Does (.lampChangerSwitch good) s (u.switchLane q.unit good seen))) ∧
        (q.cls = 4 → Does (.lampChangerSwitch good) s (u.switchChainLane q good)) ∧
        (q.cls ∉ [2, 3, 4] → (good = true → Does (.lampChangerSwitch good) s (u.coreFails q.unit seen)) ∧
          (good = false → Does (.lampChangerSwitch good) s (u.core4Fails seen))))) ∧
    (∀ core seen, (s.pairOf core = none → core = 4 → s.faults.badCores.contains 4 = false →
        s.coreFails core seen = s.core4Fails seen) ∧
      (s.pairOf core = none → core ≠ 4 ∨ s.faults.badCores.contains 4 = true → s.coreFails core seen = s) ∧
      (s.pairOf core = some p →
        (s.faults.core4 = none → s.faults.pairDown = none → s.faults.badCores.contains 4 = false →
          s.coreFails core seen = s.core4Joins p core seen) ∧
        (s.faults.core4 ≠ none ∨ s.faults.pairDown ≠ none ∨ s.faults.badCores.contains 4 = true →
          s.coreFails core seen = s.stopPair p core seen))) ∧
    (∀ pos good seen v, v = { s with faults := { s.faults with
        tileSpareGone := s.faults.tileSpareGone ||| BitVec.ofNat 4 (2 ^ (pos / 16)) } } →
      (s.faults.tileSpareGone.getLsbD (pos / 16) = true → s.switchTile pos good seen = s.retireTile pos seen) ∧
      (s.faults.tileSpareGone.getLsbD (pos / 16) = false → ∀ used, used = popN 4 v.faults.tileSpareGone.toNat →
        (good = true → s.switchTile pos good seen = (State.log { v with faults := { v.faults with
            tileSubst := s.faults.tileSubst ||| BitVec.ofNat 64 (2 ^ pos) } } 0x02 1 pos 0 0 0 seen).wearHalf 0x02 pos used 4) ∧
        (good = false → s.switchTile pos good seen =
          ((v.log 0x02 2 pos 0 0 0 seen).wearHalf 0x02 pos used 4).retireTile pos seen))) ∧
    (∀ lane good seen, (s.faults.laneSpareGone = true ∨ s.faults.laneSubst ≠ none →
        s.switchLane lane good seen = s.retireLane lane seen) ∧
      (s.faults.laneSpareGone = false → s.faults.laneSubst = none →
        (good = true → s.switchLane lane good seen = (State.log { s with faults := { s.faults with
          laneSubst := some lane } } 0x03 1 lane 0 0 0 seen).wearHalf 0x03 lane 1 1) ∧
        (good = false → s.switchLane lane good seen = (State.wearHalf (State.log { s with faults := { s.faults with
          laneSpareGone := true } } 0x03 2 16 0 0 0 seen) 0x03 16 1 1).retireLane lane seen)))

/-- Wear, engines, fog and the fault messages (R367, R424, R426, R434, R435, R437, R442, R444, R465): the wear monitor reads
once a second and names worn units at 0.60 V, each once; an engine that fails leaves service for good; a cause of fog takes
effect in RUNNING at once and waits in STANDBY and ARMED; an entry of the log carries the stamp of detection and is sent as
FL_EVENT; the log is answered and cleared, the spares are counted, FL_TEST raises and ends its cause and fails the unit named,
BAD_ARG for a unit that is none. (FL_TEST of a chain lane: the lane that sends, log entry 76; what a repaired or failed core,
engine or bank leaves, and the figures of FL_GET_SPARES: 85 and 86.) Completes: engineFault, wearMonitor, fogEntry, flGetLog,
flGetSpares, flClearLog, flTest. -/
def Obligations.FaultsAndFog : Prop :=
  ∀ (s : State) (ch : Fin 33) (c : Cmd) (b : State), b = s.begun ch →
    (∀ vid worn u, u = { s with
        faults := { s.faults with wearAt := s.time.counter }, pins := { s.pins with vidTarget := vid } } →
      (s.governs = true → s.faults.wearAt + cycSec ≤ s.time.counter →
        (s.pins.arrayVid = 15 → Does (.wearMonitor vid worn) s (worn.foldl State.wornUnit u)) ∧
        (s.pins.arrayVid ≠ 15 → Does (.wearMonitor vid worn) s u)) ∧
      (s.governs = false ∨ s.time.counter < s.faults.wearAt + cycSec → exec (.wearMonitor vid worn) s = .next s)) ∧
    (∀ x n, n = x.unit.toNat → (x.cls ∉ [1, 2, 3] ∨ (x.cls.toNat, n) ∈ s.faults.worn → s.wornUnit x = s) ∧
      (x.cls ∈ [1, 2, 3] → (x.cls.toNat, n) ∉ s.faults.worn → ∀ v,
        v = State.log { s with faults := { s.faults with worn := (x.cls.toNat, n) :: s.faults.worn } } 0x11 0 n 0 0 0 →
        (v.spareLeft x.cls.toNat n = true → s.wornUnit x = v.enqueue { cls := x.cls, unit := n, planned := true }) ∧
        (v.spareLeft x.cls.toNat n = false → s.wornUnit x = v))) ∧
    (∀ cls action unit target addr detail seen (e : LogEntry) full, full = decide (256 ≤ s.faults.log.length) →
      [e.w0, e.w1] = ((seen.getD s.now.stamp).w0 :: [(seen.getD s.now.stamp).w1]) →
      e.w2 = pack [(s.faults.next, 63, 32), (cls, 31, 24), (action, 23, 20), (unit, 19, 8)] →
      e.w3 = pack [(target, 63, 56), (addr, 47, 0)] → e.w4 = wd detail →
      (s.faults.keeperDead = true → s.log cls action unit target addr detail seen = s) ∧
      (s.faults.keeperDead = false → s.log cls action unit target addr detail seen = State.notifyLimited
        { s with faults := { s.faults with
          log := (if full then s.faults.log.drop 1 else s.faults.log) ++ [(s.faults.next, e)]
          next := (s.faults.next + 1) % 2 ^ 32
          overwrites := if full then sat32 (s.faults.overwrites + 1) else s.faults.overwrites } }
        0xBF0 0 0 64 [pack [(cls, 31, 24), (action, 23, 20), (unit, 19, 8)], e.w0, e.w1, wd s.faults.next])) ∧
    (∀ e : Fin 7, (s.faults.engines.getLsbD e.val = false → exec (.engineFault e) s = .next s) ∧
      (s.faults.engines.getLsbD e.val = true → ∀ u v w target, u = State.log { s with faults := { s.faults with
          engines := s.faults.engines &&& ~~~ BitVec.ofNat 7 (2 ^ e.val) } } 0x09 2 e.val 0 0 0 →
        v = (if e = 1 then { u with layout := { u.layout with move := none, remote := [], mode := 0 } } else u) →
        target = (if e = 0 then 0x20 else if e = 1 then 0x22 else 0x23) →
        w = (if v.inService target 16 = true then v else v.failTarget target 16) →
        Does (.engineFault e) s (if e = 0 then w.addCause .pointCloud 0x09 0 else w))) ∧
    (∀ cause, ((∀ x ∈ s.faults.causes, x.1 ≠ cause) ∨ s.keeperUp = false → exec (.fogEntry cause) s = .next s) ∧
      (∀ k i, s.faults.causes.find? (fun x => decide (x.1 = cause)) = some (k, i) → s.keeperUp = true →
        (s.dev.state = .running → Does (.fogEntry cause) s (s.enterFog i)) ∧
        (s.dev.state = .standby ∨ s.dev.state = .armed →
          (s.dev.fogPending = false → Does (.fogEntry cause) s (State.event { s with dev := { s.dev with fogPending := true } }
            0x0F0 (pack [(s.dev.state.code, 15, 12), (s.dev.state.code, 11, 8), (2, 7, 0)]) (wd i))) ∧
          (s.dev.fogPending = true → exec (.fogEntry cause) s = .next s)) ∧
        (s.dev.state ∉ [.running, .standby, .armed] → exec (.fogEntry cause) s = .next s))) ∧
    (∀ cause cls unit seen u, u = s.log cls 5 unit 0 0 0 seen →
      ((∃ x ∈ s.faults.causes, x.1 = cause) → s.addCause cause cls unit seen = s) ∧
      ((∀ x ∈ s.faults.causes, x.1 ≠ cause) → s.addCause cause cls unit seen =
        { u with faults := { u.faults with causes := u.faults.causes ++ [(cause, s.faults.next)] } })) ∧
    (∀ n, s.Begins ch 0xB00 1 c → n = bits (wAt c.words 0) 37 32 →
      (1 ≤ n → n ≤ 50 → Tells (.flGetLog ch) s ch c (pack [(s.faults.overwrites, 63, 32), (s.faults.next, 31, 0)] ::
        (((s.faults.log.filter fun e => decide (bits (wAt c.words 0) 31 0 ≤ e.1)).take n).map fun e => e.2.words).flatten)) ∧
      (n = 0 ∨ 50 < n → Refuses (.flGetLog ch) s ch c 2 0)) ∧
    (s.Begins ch 0xB01 0 c → Tells (.flGetSpares ch) s ch c
      (s.spares.map fun r => pack [(min r.1 0xFFFF, 47, 32), (min r.2.1 0xFFFF, 31, 16), (min r.2.2 0xFFFF, 15, 0)])) ∧
    (∀ lost, lost = (s.chain.ports.toList.map fun p =>
        (popN 9 p.dirs[0].bad.toNat - 1) + (popN 9 p.dirs[1].bad.toNat - 1)).sum →
      s.spares.map (fun r => r.1) = [if s.faults.pairDown = none then 4 else 2, popN 64 s.faults.tileIn.toNat,
        s.lanes, 32 - lost, 0xFFFF, 64, 4096, 0xFFFF] ∧
      s.spares.map (fun r => r.2.2) = [s.faults.badCores.length, 64 - popN 64 s.faults.tileIn.toNat, 16 - s.lanes, lost,
        0, 0, 0, 0] ∧
      s.spares.map (fun r => r.2.1) = [
        if s.faults.core4 = none ∧ s.faults.pairDown = none ∧ s.faults.badCores.contains 4 = false then 1 else 0,
        4 - popN 4 s.faults.tileSpareGone.toNat,
        if s.faults.laneSpareGone = false ∧ s.faults.laneSubst = none then 1 else 0, 4 - s.lanesUsed,
        8192 - s.faults.nearRows.length, 4 - popN 4 s.faults.bankSpareGone.toNat, 64 - s.faults.keeperRows.length,
        1024 - s.faults.pprUsed.length + (512 - s.faults.remap.length)]) ∧
    (s.Begins ch 0xB02 0 c → Makes (.flClearLog ch) s ch c { b with faults := { s.faults with log := [], overwrites := 0 } }) ∧
    (∀ mode cls unit i, s.Begins ch 0xB03 1 c → mode = bits (wAt c.words 0) 1 0 → cls = bits (wAt c.words 0) 15 8 →
      unit = bits (wAt c.words 0) 27 16 → i = Instr.flTest ch →
      (mode = 3 → Refuses i s ch c 2 0) ∧
      (mode = 1 → Makes i s ch c (b.addCause .test 0x12 unit)) ∧
      (mode = 2 → Makes i s ch c (b.endCause .test)) ∧
      (mode = 0 → testUnitOk cls unit = false → Refuses i s ch c 2 0) ∧
      (mode = 0 → testUnitOk cls unit = true →
        (cls = 1 → (b.pairOf unit = none → Makes i s ch c (b.coreFails unit)) ∧
          ∀ p, b.pairOf unit = some p → Makes i s ch c ((b.coreFails unit).pairLeaves p)) ∧
        (cls = 2 → Makes i s ch c (b.tileFails unit)) ∧
        (cls = 3 → Makes i s ch c (if unit = 16 then b.spareLaneFails else b.laneFails unit)) ∧
        (cls = 4 → Makes i s ch c (b.chainLaneFails (unit / 16) 0 (unit % 16) 0)) ∧
        (cls = 6 → Makes i s ch c (b.spareBank unit)))) ∧
    (∀ cls unit, testUnitOk cls unit = true ↔ (cls = 1 ∧ unit ≤ 4) ∨ (cls = 2 ∧ unit < 64) ∨ (cls = 3 ∧ unit ≤ 16) ∨
      (cls = 4 ∧ unit < 32 ∧ unit % 16 ≤ 8) ∨ (cls = 6 ∧ unit < 64))

/-! ### Performance counters (ch. 18) -/

/-- Counting and the counter windows (R15, R449 to R455, R460): once at an array edge in STANDBY, ARMED and RUNNING an array
cycle counts one in each counter of CYCLES and one in each counter of a condition that held, of row misses and turnarounds up
to one for each of the 16 channels; a counter that comes to 2^48 wraps or, with a period, starts a period anew and asks for a
sample, where its unit's work then stands; at other times none changes. A write to PM_SEL latches one counter in its own
window, as it was before its array cycle changed it; PM_RING_RD takes its value, in one array cycle the LIST window's last, and
one that the records do not reach leaves the ring undefined. BAR0 takes these writes while it is open. (Which edges are array
edges: log entry 94; which conditions are named, and which the state decides: 88; a stray read pointer: 90; the retry of a
request: 89.) Completes: pmSelWrite, pmRingRdWrite, arrayCycleCount. -/
def Obligations.CountersCount : Prop :=
  ∀ (s : State),
    (∀ conds, (s.dev.state ∉ [.standby, .armed, .running] ∨ s.time.counter % 4 ≠ 0 ∨ s.pm.countedAt = some s.time.counter →
        exec (.arrayCycleCount conds) s = .next s) ∧
      (s.dev.state ∈ [.standby, .armed, .running] → s.time.counter % 4 = 0 → s.pm.countedAt ≠ some s.time.counter →
        Does (.arrayCycleCount conds) s
          (State.countCycle { s with pm := { s.pm with countedAt := some s.time.counter } } conds))) ∧
    (∀ conds u v w named, u = (List.range 544).foldl (fun u i => State.countOne u i 1 1) s →
      v = s.blockConds.foldl (fun v c => State.count v c.1 c.2 1) u →
      w = ((List.range 68).filter s.tileGated).foldl (fun w t => State.countTile w t 0x13 1) v →
      named = (fun (x : Nat × Nat) => decide (x.2 ∈ cycleEvents ∧
        ((x.1 < 34 ∧ blockEvent x.1 x.2 = true) ∨ (34 ≤ x.1 ∧ x.1 < 102 ∧ tileEvent x.2 = true)))) →
      s.countCycle conds = (conds.eraseDups.filter named).foldl (fun w x =>
        if x.1 < 34 then State.count w x.1 x.2 (if x.2 = 0x72 ∨ x.2 = 0x73 then min 16 (conds.count x) else 1)
        else State.countTile w (x.1 - 34) x.2 1) w) ∧
    (∀ b e, (b, e) ∈ s.blockConds ↔
      (b < 16 ∧ e = 0x23 ∧ s.runsAt b b (fun r => r.atBarrier) = true) ∨
      ((b, e) ∈ [(16, 0x32), (17, 0x47), (18, 0x56), (19, 0x65)] ∧
        s.runsAt (if b = 16 then 0x21 else if b = 17 then 0x20 else if b = 18 then 0x22 else 0x23) 16 (fun _ => true) = true) ∨
      (21 ≤ b ∧ b < 25 ∧ e = 0x76 ∧ ∀ k, k < 16 → s.mem.asleep.getLsbD (16 * (b - 21) + k) = true) ∨
      (b = 32 ∧ e = 0x9C ∧ ∃ q ∈ s.iq.toList, q.flag = true)) ∧
    (∀ t, s.tileGated t = true ↔ ∃ g, s.groupOfTile t = some g ∧ (at_ s.tiles.groups g {}).gated = true) ∧
    (∀ i ev x v, i < 544 → x = at_ s.pm.ctr i {} → unitOf ev = 1 → v = s.countOne i ev 1 →
      (x.event.toNat ≠ ev → v = s) ∧
      (x.event.toNat = ev → x.carry = 0 → ∀ y, y = { x with old := some (s.time.counter / 4, x.latched (s.time.counter / 4)) } →
        (x.value + 1 < 2 ^ 48 → at_ v.pm.ctr i {} = { y with value := x.value + 1 }) ∧
        (x.value + 1 = 2 ^ 48 → x.period = 0 → at_ v.pm.ctr i {} = { y with value := 0, wrapped := true }) ∧
        (x.value + 1 = 2 ^ 48 → x.period ≠ 0 → at_ v.pm.ctr i {} = { y with
            value := 2 ^ 48 - x.period
            request := if x.request = none ∧ s.pm.running = true then some (s.raise i) else x.request } ∧
          v.pm.samples = sat32 (s.pm.samples + 1) ∧
          v.pm.skipped = (if x.request = none ∧ s.pm.running = true then sat32 s.pm.skipped else sat32 (s.pm.skipped + 1)))) ∧
      ∀ j, j ≠ i → at_ v.pm.ctr j {} = at_ s.pm.ctr j {}) ∧
    (∀ (x : Counter) now, (x.old = none → x.latched now = (x.value, x.wrapped)) ∧
      ∀ n v w, x.old = some (n, v, w) → x.latched now = if n = now then (v, w) else (x.value, x.wrapped)) ∧
    (∀ w v sel x, sel = v.toNat % 1024 →
      (sel < 544 → ∀ val wrapped, (at_ s.pm.ctr sel {}).latched (s.time.counter / 4) = (val, wrapped) →
        x = { sel := sel, lo := rg (val % 2 ^ 32), hi := rg (b2n wrapped * 2 ^ 31 + val / 2 ^ 32) }) →
      (544 ≤ sel → x = { sel := sel }) →
      (w = .list → Does (.pmSelWrite w v) s { s with pm := { s.pm with list := x } }) ∧
      (w = .bar0 → s.boot.linkUp = true → s.mailOpen = true →
        Does (.pmSelWrite w v) s { s with pm := { s.pm with bar0 := x } })) ∧
    (∀ v, s.boot.linkUp = false ∨ s.mailOpen = false → exec (.pmSelWrite .bar0 v) s = .next s ∧
      exec (.pmRingRdWrite .bar0 v) s = .next s) ∧
    (∀ w v, w = .list ∨ (s.boot.linkUp = true ∧ s.mailOpen = true) → Does (.pmRingRdWrite w v) s (s.pmRingRd w v)) ∧
    (∀ v rd p n, p = s.pm → rd = v.toNat % 2 ^ 24 → n = 2 * p.words →
      (p.words = 0 ∨ (rd < n ∧ (rd + n - p.rd % n) % n ≤ p.fill) → s.stepRd v = { s with pm := { p with rd := rd } }) ∧
      (p.words ≠ 0 → n ≤ rd ∨ p.fill < (rd + n - p.rd % n) % n →
        s.stepRd v = State.freeRing { s with pm := { p with rd := rd, strayRd := true } })) ∧
    (∀ v cyc, cyc = s.time.counter / 4 →
      ((∀ x ∈ s.pm.listRd, x.1 ≠ cyc) → s.pmRingRd .bar0 v = s.stepRd v ∧
        s.pmRingRd .list v = State.stepRd { s with pm := { s.pm with listRd := some (cyc, s.pm.rd, v) } } v) ∧
      ∀ rd last, s.pm.listRd = some (cyc, rd, last) →
        s.pmRingRd .bar0 v = (State.stepRd { s with pm := { s.pm with rd := rd } } v).stepRd last ∧
        s.pmRingRd .list v = State.stepRd { s with pm := { s.pm with listRd := some (cyc, rd, v) } } v)

/-- The collector (R451, R453 to R460): at the first array edge after an instant of the interval the counters of its list are
latched, or the snapshot is skipped while the one before is unwritten; the record of a snapshot, and that of a counter's
request, is written when its turn comes; a record that fits goes to the ring as a whole and moves WR by its words; one that
does not fit is dropped and counted and leaves memory as it was; each uses a SEQ; a fault in the ring stops the collector. A
sample names the command in progress when the counter passed or one up to two later in its list. Where the ring overlaps other
data, or its read pointer strayed, the ring's bytes are free. The messages set a counter, start and stop the collector, which
then writes what waits, and answer its status, BAD_ARG for the lowest word that fails a check. (Log entries 18: two bits of the
status; 88: the conditions that are named; 89: WR and RD at a start, requests at a stop, the skid of the samples that PM_STOP
writes; 90: overlaps; 96: the end of a list; 100: snapshots at a stop.) Completes: pmSet, pmStart, pmStop, pmGetStatus,
collectorSnapshot, sampleRecord. -/
def Obligations.CollectorWritesRecords : Prop :=
  ∀ (s : State) (ch : Fin 33) (c : Cmd) (b : State), b = s.begun ch →
    (s.pm.snap = none → exec .collectorSnapshot s = .next s) ∧
    (∀ when_ ws vs, s.pm.snap = some (when_, ws, vs) → Does .collectorSnapshot s (s.snapRecord ws vs)) ∧
    (∀ ws vs, s.snapRecord ws vs = State.record { s with pm := { s.pm with snap := none } }
      (ws ++ [pack [(0, 63, 60), (vs.length, 54, 48), (s.pm.seq, 47, 0)]] ++ vs)) ∧
    (∀ d : Int, d = s.pm.intervalUs * (1000 * 281474976710656) → ∀ before : Int,
      before = (s.pm.edgeLine.getD (s.time.line - 4 * s.time.rate)) → ∀ p, p = { s.pm with edgeLine := some s.time.line } →
      (s.time.counter % 4 ≠ 0 → s.latchSnap = s) ∧
      (s.time.counter % 4 = 0 →
        (p.running = false ∨ p.items = [] ∨ s.time.line / d ≤ before / d → s.latchSnap = { s with pm := p }) ∧
        (p.running = true → p.items ≠ [] → before / d < s.time.line / d →
          (s.pm.snap ≠ none → s.latchSnap = { s with pm := { p with skipped := sat32 (p.skipped + 1), seq := (p.seq + 1) % 2 ^ 48 } }) ∧
          (s.pm.snap = none → s.latchSnap = { s with pm := { p with snap := some (s.time.counter / 4, s.now.words, p.items.map fun i =>
            pack [(b2n (at_ p.ctr i {}).wrapped, 63, 63), (i, 57, 48), ((at_ p.ctr i {}).value, 47, 0)]) } })))) ∧
    (∀ (i : Fin 544) skid, (s.keeperUp = false ∨ s.pm.running = false ∨ s.pm.turn i.val = false →
        exec (.sampleRecord i skid) s = .next s) ∧
      (s.keeperUp = true → s.pm.running = true → s.pm.turn i.val = true →
        Does (.sampleRecord i skid) s (s.sampleRecord i.val skid.val)) ∧
      (s.pm.turn i.val = true ↔ ∃ r, s.pm.ctr[i].request = some r ∧ (∀ x ∈ s.pm.snap, x.1 ≠ r.cycle) ∧
        ∀ j : Fin 544, j.val < i.val → ∀ x ∈ s.pm.ctr[j].request, x.cycle ≠ r.cycle) ∧
      ∀ r skid u v target list cmd, s.pm.ctr[i].request = some r →
        u = { s with pm := { s.pm with ctr := put s.pm.ctr i.val { s.pm.ctr[i] with request := none } } } →
        u.sampleAt i.val skid r = ((target, list, cmd), v) → s.sampleRecord i.val skid = v.record (v.now.words ++
          [pack [(1, 63, 60), (v.pm.seq, 47, 0)], pack [(i.val, 57, 48), (target, 7, 0)], pack [(list, 47, 0)],
            pack [(cmd, 47, 0)]])) ∧
    (∀ i skid r, (504 ≤ i → i < 520 → ∃ level : Nat, 1 ≤ level ∧ level ≤ 5 ∧
        s.sampleAt i skid r = ((0xFF, 0, level), { s with free := s.free + 1 })) ∧
      (i < 504 ∨ 520 ≤ i → s.sampleAt i skid r = ((r.target, r.listVa, if r.size = 0 then r.pc
        else min (r.pc + min skid 2 * r.size) (s.listEnd r.pc r.size - r.size)), s))) ∧
    (∀ i, (sampleUnit i = none → s.spareUnit i = none → s.raise i = { cycle := s.time.counter / 4 }) ∧
      ∀ tgt g size, (sampleUnit i = some (tgt, g, size) ∨ (sampleUnit i = none ∧ s.spareUnit i = some (tgt, g, size))) →
        ((∀ l ∈ s.dev.launches, ∀ r ∈ l.runOn tgt g, r.status ≠ .running) → s.raise i = { cycle := s.time.counter / 4 }) ∧
        ∀ before l after r, s.dev.launches = before ++ l :: after → (∀ m ∈ before, ∀ x ∈ m.runOn tgt g, x.status ≠ .running) →
          l.runOn tgt g = some r → r.status = .running →
          (l.ego = true → s.raise i = { cycle := s.time.counter / 4, target := l.target.toNat }) ∧
          (l.ego = false → s.raise i = { cycle := s.time.counter / 4, target := l.target.toNat, listVa := l.listVa
                                         pc := r.pc, size := size })) ∧
    (∀ ws u p n, u = (if s.pm.ringMet = false ∧ s.ringOverlaps = true then s.meetRing else s) → p = u.pm → n = ws.length →
      (p.strayRd = false → p.words < p.fill + n → ∃ v : State, s.record ws = v.ringFull ∧ v.mem = u.mem ∧ v.pm =
        { p with seq := (p.seq + 1) % 2 ^ 48, dropped := sat32 (p.dropped + 1), fullDropped := sat32 (p.fullDropped + 1) }) ∧
      (p.strayRd = false → p.ringMet = false → p.fill + n ≤ p.words →
        (∀ v w, (ringWrite p (wordBytes ws)).go u.outsideLaunch = (.ok (), v) → w = u.keepIdle v → s.record ws =
          { w with pm := { w.pm with seq := (p.seq + 1) % 2 ^ 48, wr := (p.wr + n) % (2 * p.words) } }) ∧
        (∀ e v, (ringWrite p (wordBytes ws)).go u.outsideLaunch = (.error e, v) → s.record ws =
          State.stopCollector { u with pm := { p with seq := (p.seq + 1) % 2 ^ 48 } } 2))) ∧
    (∀ (s : State) value, (s.pm.running = false → s.stopCollector value = s) ∧
      (s.pm.running = true → s.stopCollector value = State.event { s with pm := { s.pm with
        running := false, snap := none, ctr := s.pm.ctr.map fun (x : Counter) => { x with request := none } } }
          0xCF0 (wd 1) (wd value))) ∧
    (∀ i ev period, s.Begins ch 0xC00 2 c → i = bits (wAt c.words 0) 9 0 → ev = bits (wAt c.words 0) 23 16 →
      period = bits (wAt c.words 1) 47 0 →
      (i < 544 → eventOk i ev = true → (period = 0 ∨ (1024 ≤ period ∧ period ≤ 2 ^ 47)) →
        ∀ x : Counter, x = { event := BitVec.ofNat 8 ev, period := period, value := if period = 0 then 0 else 2 ^ 48 - period
                             request := (at_ b.pm.ctr i {}).request
                             old := some (b.time.counter / 4, (at_ b.pm.ctr i {}).latched (b.time.counter / 4)) } →
        Makes (.pmSet ch) s ch c { b with pm := { b.pm with ctr := put b.pm.ctr i x } }) ∧
      (544 ≤ i ∨ eventOk i ev = false → Refuses (.pmSet ch) s ch c 2 0) ∧
      (i < 544 → eventOk i ev = true → period ≠ 0 → period < 1024 ∨ 2 ^ 47 < period → Refuses (.pmSet ch) s ch c 2 1)) ∧
    (∀ n us va len item, s.Begins ch 0xC01 19 c → n = bits (wAt c.words 0) 38 32 → us = bits (wAt c.words 0) 19 0 →
      va = bits (wAt c.words 1) 47 0 → len = bits (wAt c.words 2) 31 0 →
      item = (fun k => bits (wAt c.words (3 + k / 4)) (16 * (k % 4) + 9) (16 * (k % 4))) →
      (64 < n ∨ us < 10 ∨ 1000000 < us ∨ 1000000 % us ≠ 0 → Refuses (.pmStart ch) s ch c 2 0) ∧
      (n ≤ 64 → 10 ≤ us → us ≤ 1000000 → 1000000 % us = 0 →
        (va % 4096 ≠ 0 ∨ (b.pm.running = false ∧ b.mapped va len .wr = false) → Refuses (.pmStart ch) s ch c 2 1) ∧
        (va % 4096 = 0 → (b.pm.running = true ∨ b.mapped va len .wr = true) →
          (len < 4096 ∨ 67108864 < len ∨ len % 4096 ≠ 0 → Refuses (.pmStart ch) s ch c 2 2) ∧
          (4096 ≤ len → len ≤ 67108864 → len % 4096 = 0 →
            (∀ k, k < n → 544 ≤ item k → (∀ j, j < k → item j < 544) → Refuses (.pmStart ch) s ch c 2 (3 + k / 4)) ∧
            ((∀ k, k < n → item k < 544) →
              (b.pm.running = true → Refuses (.pmStart ch) s ch c 1 0xFFFF) ∧
              (b.pm.running = false → Makes (.pmStart ch) s ch c { b with pm := { b.pm with
                running := true, intervalUs := us, items := (List.range n).map item, ringVa := va, ringBytes := len
                wr := 0, rd := 0, strayRd := false, ringMet := false, seq := 0, snap := none, listRd := none
                edgeLine := some b.time.line } })))))) ∧
    (s.Begins ch 0xC02 0 c →
      (b.pm.running = false → Makes (.pmStop ch) s ch c b) ∧
      (b.pm.running = true → ∀ u, (b.pm.snap = none → u = b) →
        (∀ when_ ws vs, b.pm.snap = some (when_, ws, vs) → u = b.snapRecord ws vs) → ∀ v, v = u.lastSamples →
        Makes (.pmStop ch) s ch c { v with pm := { v.pm with
          running := false, ctr := v.pm.ctr.map fun (x : Counter) => { x with request := none } } }) ∧
      ∀ u : State, u.lastSamples = (List.range 544).foldl (fun v i =>
        if v.pm.running = true ∧ (at_ v.pm.ctr i {}).request ≠ none then
          State.sampleRecord { v with free := v.free + 1 } i (Config.freeNat v.free % 3) else v) u) ∧
    (s.Begins ch 0xC03 0 c → ∀ p low, p = b.pm →
      low = (if Config.freeNat b.free % 2 = 0 then p.intervalUs % 4 else b.pmStatus.toNat) → Makes (.pmGetStatus ch) s ch c
      { b with free := b.free + 1 }
      [pack [(p.items.length, 38, 32), (p.intervalUs / 4, 19, 2), (low, 1, 0)], pack [(p.seq, 47, 0)],
        pack [(p.dropped, 63, 32), (p.skipped, 31, 0)], pack [(p.samples, 31, 0)]])
end

