-- ==== Sys2Proof/Laws/State.lean ====
section
/-! SUPPORT. One lemma for each field that a record update of the state leaves alone, and for each part of `State.only`. -/
namespace Sys2Proof.Machine

variable (s t : State)

@[simp] theorem State.only_pending (ps : List Part) : (s.only t ps).pending = s.pending := rfl
@[simp] theorem State.only_time (ps : List Part) :
    (s.only t ps).time = if ps.contains .time then t.time else s.time := rfl
@[simp] theorem State.only_ptp (ps : List Part) :
    (s.only t ps).ptp = if ps.contains .ptp then t.ptp else s.ptp := rfl
@[simp] theorem State.only_pps (ps : List Part) :
    (s.only t ps).pps = if ps.contains .pps then t.pps else s.pps := rfl
@[simp] theorem State.only_chars (ps : List Part) :
    (s.only t ps).chars = if ps.contains .chars then t.chars else s.chars := rfl
@[simp] theorem State.only_budget (ps : List Part) :
    (s.only t ps).budget = if ps.contains .budget then t.budget else s.budget := rfl
@[simp] theorem State.only_ll (ps : List Part) :
    (s.only t ps).ll = if ps.contains .ll then t.ll else s.ll := rfl
@[simp] theorem State.only_iq (ps : List Part) :
    (s.only t ps).iq = if ps.contains .iq then t.iq else s.iq := rfl
@[simp] theorem State.only_tiles (ps : List Part) :
    (s.only t ps).tiles = if ps.contains .tiles then t.tiles else s.tiles := rfl
@[simp] theorem State.only_layout (ps : List Part) :
    (s.only t ps).layout = if ps.contains .layout then t.layout else s.layout := rfl
@[simp] theorem State.only_cloud (ps : List Part) :
    (s.only t ps).cloud = if ps.contains .cloud then t.cloud else s.cloud := rfl
@[simp] theorem State.only_ego (ps : List Part) :
    (s.only t ps).ego = if ps.contains .ego then t.ego else s.ego := rfl
@[simp] theorem State.only_buoys (ps : List Part) :
    (s.only t ps).buoys = if ps.contains .buoys then t.buoys else s.buoys := rfl
@[simp] theorem State.only_solver (ps : List Part) :
    (s.only t ps).solver = if ps.contains .solver then t.solver else s.solver := rfl
@[simp] theorem State.only_calib (ps : List Part) :
    (s.only t ps).calib = if ps.contains .calib then t.calib else s.calib := rfl
@[simp] theorem State.only_kv (ps : List Part) :
    (s.only t ps).kv = if ps.contains .kv then t.kv else s.kv := rfl
@[simp] theorem State.only_criser (ps : List Part) :
    (s.only t ps).criser = if ps.contains .criser then t.criser else s.criser := rfl
@[simp] theorem State.only_chain (ps : List Part) :
    (s.only t ps).chain = if ps.contains .chain then t.chain else s.chain := rfl
@[simp] theorem State.only_faults (ps : List Part) :
    (s.only t ps).faults = if ps.contains .faults then t.faults else s.faults := rfl
@[simp] theorem State.only_pm (ps : List Part) :
    (s.only t ps).pm = if ps.contains .pm then t.pm else s.pm := rfl
@[simp] theorem State.only_pins (ps : List Part) :
    (s.only t ps).pins = if ps.contains .pins then t.pins else s.pins := rfl
@[simp] theorem State.only_free (ps : List Part) :
    (s.only t ps).free = if ps.contains .free then t.free else s.free := rfl
@[simp] theorem State.only_cells (ps : List Part) :
    (s.only t ps).mem.cells = if ps.contains .cells then t.mem.cells else s.mem.cells := rfl
@[simp] theorem State.only_state (ps : List Part) :
    (s.only t ps).dev.state = if ps.contains .devState then t.dev.state else s.dev.state := rfl
@[simp] theorem State.only_from (ps : List Part) :
    (s.only t ps).dev.from_ = if ps.contains .devState then t.dev.from_ else s.dev.from_ := rfl
@[simp] theorem State.only_since (ps : List Part) :
    (s.only t ps).dev.since = if ps.contains .devState then t.dev.since else s.dev.since := rfl
@[simp] theorem State.only_otp (ps : List Part) :
    (s.only t ps).boot.otp = if ps.contains .otp then t.boot.otp else s.boot.otp := rfl
@[simp] theorem State.only_dev_fogPending (ps : List Part) :
    (s.only t ps).dev.fogPending = if ps.contains .dev then t.dev.fogPending else s.dev.fogPending := by
  simp only [State.only]; split <;> rfl
@[simp] theorem State.only_dev_resetAt (ps : List Part) :
    (s.only t ps).dev.resetAt = if ps.contains .dev then t.dev.resetAt else s.dev.resetAt := by
  simp only [State.only]; split <;> rfl
@[simp] theorem State.only_dev_launches (ps : List Part) :
    (s.only t ps).dev.launches = if ps.contains .dev then t.dev.launches else s.dev.launches := by
  simp only [State.only]; split <;> rfl
@[simp] theorem State.only_dev_issuedIn (ps : List Part) :
    (s.only t ps).dev.issuedIn = if ps.contains .dev then t.dev.issuedIn else s.dev.issuedIn := by
  simp only [State.only]; split <;> rfl
@[simp] theorem State.only_dev_nextLaunch (ps : List Part) :
    (s.only t ps).dev.nextLaunch = if ps.contains .dev then t.dev.nextLaunch else s.dev.nextLaunch := by
  simp only [State.only]; split <;> rfl
@[simp] theorem State.only_mem_regions (ps : List Part) :
    (s.only t ps).mem.regions = if ps.contains .mem then t.mem.regions else s.mem.regions := by
  simp only [State.only]; split <;> rfl
@[simp] theorem State.only_mem_spoilt (ps : List Part) :
    (s.only t ps).mem.spoilt = if ps.contains .mem then t.mem.spoilt else s.mem.spoilt := by
  simp only [State.only]; split <;> rfl
@[simp] theorem State.only_mem_outside (ps : List Part) :
    (s.only t ps).mem.outside = if ps.contains .mem then t.mem.outside else s.mem.outside := by
  simp only [State.only]; split <;> rfl
@[simp] theorem State.only_mem_who (ps : List Part) :
    (s.only t ps).mem.who = if ps.contains .mem then t.mem.who else s.mem.who := by
  simp only [State.only]; split <;> rfl
@[simp] theorem State.only_mem_wrote (ps : List Part) :
    (s.only t ps).mem.wrote = if ps.contains .mem then t.mem.wrote else s.mem.wrote := by
  simp only [State.only]; split <;> rfl
@[simp] theorem State.only_mem_reads (ps : List Part) :
    (s.only t ps).mem.reads = if ps.contains .mem then t.mem.reads else s.mem.reads := by
  simp only [State.only]; split <;> rfl
@[simp] theorem State.only_mem_crossed (ps : List Part) :
    (s.only t ps).mem.crossed = if ps.contains .mem then t.mem.crossed else s.mem.crossed := by
  simp only [State.only]; split <;> rfl
@[simp] theorem State.only_mem_tainted (ps : List Part) :
    (s.only t ps).mem.tainted = if ps.contains .mem then t.mem.tainted else s.mem.tainted := by
  simp only [State.only]; split <;> rfl
@[simp] theorem State.only_mem_bar2Va (ps : List Part) :
    (s.only t ps).mem.bar2Va = if ps.contains .mem then t.mem.bar2Va else s.mem.bar2Va := by
  simp only [State.only]; split <;> rfl
@[simp] theorem State.only_mem_ce (ps : List Part) :
    (s.only t ps).mem.ce = if ps.contains .mem then t.mem.ce else s.mem.ce := by
  simp only [State.only]; split <;> rfl
@[simp] theorem State.only_mem_ue (ps : List Part) :
    (s.only t ps).mem.ue = if ps.contains .mem then t.mem.ue else s.mem.ue := by
  simp only [State.only]; split <;> rfl
@[simp] theorem State.only_mem_ceTotal (ps : List Part) :
    (s.only t ps).mem.ceTotal = if ps.contains .mem then t.mem.ceTotal else s.mem.ceTotal := by
  simp only [State.only]; split <;> rfl
@[simp] theorem State.only_mem_ueTotal (ps : List Part) :
    (s.only t ps).mem.ueTotal = if ps.contains .mem then t.mem.ueTotal else s.mem.ueTotal := by
  simp only [State.only]; split <;> rfl
@[simp] theorem State.only_mem_ueDa (ps : List Part) :
    (s.only t ps).mem.ueDa = if ps.contains .mem then t.mem.ueDa else s.mem.ueDa := by
  simp only [State.only]; split <;> rfl
@[simp] theorem State.only_mem_ueScrub (ps : List Part) :
    (s.only t ps).mem.ueScrub = if ps.contains .mem then t.mem.ueScrub else s.mem.ueScrub := by
  simp only [State.only]; split <;> rfl
@[simp] theorem State.only_mem_bar2Faults (ps : List Part) :
    (s.only t ps).mem.bar2Faults = if ps.contains .mem then t.mem.bar2Faults else s.mem.bar2Faults := by
  simp only [State.only]; split <;> rfl
@[simp] theorem State.only_mem_rowsRepaired (ps : List Part) :
    (s.only t ps).mem.rowsRepaired = if ps.contains .mem then t.mem.rowsRepaired else s.mem.rowsRepaired := by
  simp only [State.only]; split <;> rfl
@[simp] theorem State.only_mem_asleep (ps : List Part) :
    (s.only t ps).mem.asleep = if ps.contains .mem then t.mem.asleep else s.mem.asleep := by
  simp only [State.only]; split <;> rfl
@[simp] theorem State.only_mem_lastLpddr (ps : List Part) :
    (s.only t ps).mem.lastLpddr = if ps.contains .mem then t.mem.lastLpddr else s.mem.lastLpddr := by
  simp only [State.only]; split <;> rfl
@[simp] theorem State.only_mem_ueWords (ps : List Part) :
    (s.only t ps).mem.ueWords = if ps.contains .mem then t.mem.ueWords else s.mem.ueWords := by
  simp only [State.only]; split <;> rfl
@[simp] theorem State.only_mem_ceWords (ps : List Part) :
    (s.only t ps).mem.ceWords = if ps.contains .mem then t.mem.ceWords else s.mem.ceWords := by
  simp only [State.only]; split <;> rfl
@[simp] theorem State.only_mem_passes (ps : List Part) :
    (s.only t ps).mem.passes = if ps.contains .mem then t.mem.passes else s.mem.passes := by
  simp only [State.only]; split <;> rfl
@[simp] theorem State.only_mem_reachable (ps : List Part) :
    (s.only t ps).mem.reachable = if ps.contains .mem then t.mem.reachable else s.mem.reachable := by
  simp only [State.only]; split <;> rfl
@[simp] theorem State.only_boot_cause (ps : List Part) :
    (s.only t ps).boot.cause = if ps.contains .boot then t.boot.cause else s.boot.cause := by
  simp only [State.only]; split <;> rfl
@[simp] theorem State.only_boot_warm (ps : List Part) :
    (s.only t ps).boot.warm = if ps.contains .boot then t.boot.warm else s.boot.warm := by
  simp only [State.only]; split <;> rfl
@[simp] theorem State.only_boot_pllUnlocked (ps : List Part) :
    (s.only t ps).boot.pllUnlocked = if ps.contains .boot then t.boot.pllUnlocked else s.boot.pllUnlocked := by
  simp only [State.only]; split <;> rfl
@[simp] theorem State.only_boot_wdCount (ps : List Part) :
    (s.only t ps).boot.wdCount = if ps.contains .boot then t.boot.wdCount else s.boot.wdCount := by
  simp only [State.only]; split <;> rfl
@[simp] theorem State.only_boot_slot0Error (ps : List Part) :
    (s.only t ps).boot.slot0Error = if ps.contains .boot then t.boot.slot0Error else s.boot.slot0Error := by
  simp only [State.only]; split <;> rfl
@[simp] theorem State.only_boot_slot1Error (ps : List Part) :
    (s.only t ps).boot.slot1Error = if ps.contains .boot then t.boot.slot1Error else s.boot.slot1Error := by
  simp only [State.only]; split <;> rfl
@[simp] theorem State.only_boot_slot (ps : List Part) :
    (s.only t ps).boot.slot = if ps.contains .boot then t.boot.slot else s.boot.slot := by
  simp only [State.only]; split <;> rfl
@[simp] theorem State.only_boot_strapIgnored (ps : List Part) :
    (s.only t ps).boot.strapIgnored = if ps.contains .boot then t.boot.strapIgnored else s.boot.strapIgnored := by
  simp only [State.only]; split <;> rfl
@[simp] theorem State.only_boot_strap (ps : List Part) :
    (s.only t ps).boot.strap = if ps.contains .boot then t.boot.strap else s.boot.strap := by
  simp only [State.only]; split <;> rfl
@[simp] theorem State.only_boot_chainBoot (ps : List Part) :
    (s.only t ps).boot.chainBoot = if ps.contains .boot then t.boot.chainBoot else s.boot.chainBoot := by
  simp only [State.only]; split <;> rfl
@[simp] theorem State.only_boot_member (ps : List Part) :
    (s.only t ps).boot.member = if ps.contains .boot then t.boot.member else s.boot.member := by
  simp only [State.only]; split <;> rfl
@[simp] theorem State.only_boot_serviceOn (ps : List Part) :
    (s.only t ps).boot.serviceOn = if ps.contains .boot then t.boot.serviceOn else s.boot.serviceOn := by
  simp only [State.only]; split <;> rfl
@[simp] theorem State.only_boot_watchdogOn (ps : List Part) :
    (s.only t ps).boot.watchdogOn = if ps.contains .boot then t.boot.watchdogOn else s.boot.watchdogOn := by
  simp only [State.only]; split <;> rfl
@[simp] theorem State.only_boot_wdDisarmed (ps : List Part) :
    (s.only t ps).boot.wdDisarmed = if ps.contains .boot then t.boot.wdDisarmed else s.boot.wdDisarmed := by
  simp only [State.only]; split <;> rfl
@[simp] theorem State.only_boot_noLockRun (ps : List Part) :
    (s.only t ps).boot.noLockRun = if ps.contains .boot then t.boot.noLockRun else s.boot.noLockRun := by
  simp only [State.only]; split <;> rfl
@[simp] theorem State.only_boot_heldDark (ps : List Part) :
    (s.only t ps).boot.heldDark = if ps.contains .boot then t.boot.heldDark else s.boot.heldDark := by
  simp only [State.only]; split <;> rfl
@[simp] theorem State.only_boot_resetN (ps : List Part) :
    (s.only t ps).boot.resetN = if ps.contains .boot then t.boot.resetN else s.boot.resetN := by
  simp only [State.only]; split <;> rfl
@[simp] theorem State.only_boot_sequence (ps : List Part) :
    (s.only t ps).boot.sequence = if ps.contains .boot then t.boot.sequence else s.boot.sequence := by
  simp only [State.only]; split <;> rfl
@[simp] theorem State.only_boot_railsOut (ps : List Part) :
    (s.only t ps).boot.railsOut = if ps.contains .boot then t.boot.railsOut else s.boot.railsOut := by
  simp only [State.only]; split <;> rfl
@[simp] theorem State.only_boot_thermHold (ps : List Part) :
    (s.only t ps).boot.thermHold = if ps.contains .boot then t.boot.thermHold else s.boot.thermHold := by
  simp only [State.only]; split <;> rfl
@[simp] theorem State.only_boot_dom (ps : List Part) :
    (s.only t ps).boot.dom = if ps.contains .boot then t.boot.dom else s.boot.dom := by
  simp only [State.only]; split <;> rfl
@[simp] theorem State.only_boot_otpCorrupt (ps : List Part) :
    (s.only t ps).boot.otpCorrupt = if ps.contains .boot then t.boot.otpCorrupt else s.boot.otpCorrupt := by
  simp only [State.only]; split <;> rfl
@[simp] theorem State.only_boot_flash (ps : List Part) :
    (s.only t ps).boot.flash = if ps.contains .boot then t.boot.flash else s.boot.flash := by
  simp only [State.only]; split <;> rfl
@[simp] theorem State.only_boot_octal (ps : List Part) :
    (s.only t ps).boot.octal = if ps.contains .boot then t.boot.octal else s.boot.octal := by
  simp only [State.only]; split <;> rfl
@[simp] theorem State.only_boot_chainBytes (ps : List Part) :
    (s.only t ps).boot.chainBytes = if ps.contains .boot then t.boot.chainBytes else s.boot.chainBytes := by
  simp only [State.only]; split <;> rfl
@[simp] theorem State.only_boot_chainWhole (ps : List Part) :
    (s.only t ps).boot.chainWhole = if ps.contains .boot then t.boot.chainWhole else s.boot.chainWhole := by
  simp only [State.only]; split <;> rfl
@[simp] theorem State.only_boot_job (ps : List Part) :
    (s.only t ps).boot.job = if ps.contains .boot then t.boot.job else s.boot.job := by
  simp only [State.only]; split <;> rfl
@[simp] theorem State.only_boot_fw (ps : List Part) :
    (s.only t ps).boot.fw = if ps.contains .boot then t.boot.fw else s.boot.fw := by
  simp only [State.only]; split <;> rfl
@[simp] theorem State.only_boot_romServes (ps : List Part) :
    (s.only t ps).boot.romServes = if ps.contains .boot then t.boot.romServes else s.boot.romServes := by
  simp only [State.only]; split <;> rfl
@[simp] theorem State.only_boot_packages (ps : List Part) :
    (s.only t ps).boot.packages = if ps.contains .boot then t.boot.packages else s.boot.packages := by
  simp only [State.only]; split <;> rfl
@[simp] theorem State.only_boot_devKeys (ps : List Part) :
    (s.only t ps).boot.devKeys = if ps.contains .boot then t.boot.devKeys else s.boot.devKeys := by
  simp only [State.only]; split <;> rfl
@[simp] theorem State.only_boot_blockOpen (ps : List Part) :
    (s.only t ps).boot.blockOpen = if ps.contains .boot then t.boot.blockOpen else s.boot.blockOpen := by
  simp only [State.only]; split <;> rfl
@[simp] theorem State.only_boot_nextLeaf (ps : List Part) :
    (s.only t ps).boot.nextLeaf = if ps.contains .boot then t.boot.nextLeaf else s.boot.nextLeaf := by
  simp only [State.only]; split <;> rfl
@[simp] theorem State.only_boot_reports (ps : List Part) :
    (s.only t ps).boot.reports = if ps.contains .boot then t.boot.reports else s.boot.reports := by
  simp only [State.only]; split <;> rfl
@[simp] theorem State.only_boot_exhaustedSent (ps : List Part) :
    (s.only t ps).boot.exhaustedSent = if ps.contains .boot then t.boot.exhaustedSent else s.boot.exhaustedSent := by
  simp only [State.only]; split <;> rfl
@[simp] theorem State.only_boot_aon (ps : List Part) :
    (s.only t ps).boot.aon = if ps.contains .boot then t.boot.aon else s.boot.aon := by
  simp only [State.only]; split <;> rfl
@[simp] theorem State.only_boot_causeAt (ps : List Part) :
    (s.only t ps).boot.causeAt = if ps.contains .boot then t.boot.causeAt else s.boot.causeAt := by
  simp only [State.only]; split <;> rfl
@[simp] theorem State.only_boot_railsAt (ps : List Part) :
    (s.only t ps).boot.railsAt = if ps.contains .boot then t.boot.railsAt else s.boot.railsAt := by
  simp only [State.only]; split <;> rfl
@[simp] theorem State.only_boot_thermAt (ps : List Part) :
    (s.only t ps).boot.thermAt = if ps.contains .boot then t.boot.thermAt else s.boot.thermAt := by
  simp only [State.only]; split <;> rfl
@[simp] theorem State.only_boot_pllAt (ps : List Part) :
    (s.only t ps).boot.pllAt = if ps.contains .boot then t.boot.pllAt else s.boot.pllAt := by
  simp only [State.only]; split <;> rfl
@[simp] theorem State.only_boot_wdFrom (ps : List Part) :
    (s.only t ps).boot.wdFrom = if ps.contains .boot then t.boot.wdFrom else s.boot.wdFrom := by
  simp only [State.only]; split <;> rfl
@[simp] theorem State.only_boot_openAt (ps : List Part) :
    (s.only t ps).boot.openAt = if ps.contains .boot then t.boot.openAt else s.boot.openAt := by
  simp only [State.only]; split <;> rfl
@[simp] theorem State.only_boot_clearLpddr (ps : List Part) :
    (s.only t ps).boot.clearLpddr = if ps.contains .boot then t.boot.clearLpddr else s.boot.clearLpddr := by
  simp only [State.only]; split <;> rfl
@[simp] theorem State.only_boot_linkUp (ps : List Part) :
    (s.only t ps).boot.linkUp = if ps.contains .boot then t.boot.linkUp else s.boot.linkUp := by
  simp only [State.only]; split <;> rfl
@[simp] theorem State.only_boot_svc (ps : List Part) :
    (s.only t ps).boot.svc = if ps.contains .boot then t.boot.svc else s.boot.svc := by
  simp only [State.only]; split <;> rfl

@[simp] theorem State.take_pending (n : Nat) : (s.take n).2.pending = s.pending := rfl
@[simp] theorem State.take_time (n : Nat) : (s.take n).2.time = s.time := rfl
@[simp] theorem State.take_ptp (n : Nat) : (s.take n).2.ptp = s.ptp := rfl
@[simp] theorem State.take_pps (n : Nat) : (s.take n).2.pps = s.pps := rfl
@[simp] theorem State.take_chars (n : Nat) : (s.take n).2.chars = s.chars := rfl
@[simp] theorem State.take_budget (n : Nat) : (s.take n).2.budget = s.budget := rfl
@[simp] theorem State.take_ll (n : Nat) : (s.take n).2.ll = s.ll := rfl
@[simp] theorem State.take_iq (n : Nat) : (s.take n).2.iq = s.iq := rfl
@[simp] theorem State.take_tiles (n : Nat) : (s.take n).2.tiles = s.tiles := rfl
@[simp] theorem State.take_layout (n : Nat) : (s.take n).2.layout = s.layout := rfl
@[simp] theorem State.take_cloud (n : Nat) : (s.take n).2.cloud = s.cloud := rfl
@[simp] theorem State.take_ego (n : Nat) : (s.take n).2.ego = s.ego := rfl
@[simp] theorem State.take_buoys (n : Nat) : (s.take n).2.buoys = s.buoys := rfl
@[simp] theorem State.take_solver (n : Nat) : (s.take n).2.solver = s.solver := rfl
@[simp] theorem State.take_calib (n : Nat) : (s.take n).2.calib = s.calib := rfl
@[simp] theorem State.take_kv (n : Nat) : (s.take n).2.kv = s.kv := rfl
@[simp] theorem State.take_mem (n : Nat) : (s.take n).2.mem = s.mem := rfl
@[simp] theorem State.take_criser (n : Nat) : (s.take n).2.criser = s.criser := rfl
@[simp] theorem State.take_dev (n : Nat) : (s.take n).2.dev = s.dev := rfl
@[simp] theorem State.take_chain (n : Nat) : (s.take n).2.chain = s.chain := rfl
@[simp] theorem State.take_boot (n : Nat) : (s.take n).2.boot = s.boot := rfl
@[simp] theorem State.take_faults (n : Nat) : (s.take n).2.faults = s.faults := rfl
@[simp] theorem State.take_pm (n : Nat) : (s.take n).2.pm = s.pm := rfl
@[simp] theorem State.take_pins (n : Nat) : (s.take n).2.pins = s.pins := rfl

@[simp] theorem State.emit_pending (x : Sent) : (s.emit x).pending = s.pending := rfl
@[simp] theorem State.emit_time (x : Sent) : (s.emit x).time = s.time := rfl
@[simp] theorem State.emit_ptp (x : Sent) : (s.emit x).ptp = s.ptp := rfl
@[simp] theorem State.emit_pps (x : Sent) : (s.emit x).pps = s.pps := rfl
@[simp] theorem State.emit_chars (x : Sent) : (s.emit x).chars = s.chars := rfl
@[simp] theorem State.emit_budget (x : Sent) : (s.emit x).budget = s.budget := rfl
@[simp] theorem State.emit_ll (x : Sent) : (s.emit x).ll = s.ll := rfl
@[simp] theorem State.emit_iq (x : Sent) : (s.emit x).iq = s.iq := rfl
@[simp] theorem State.emit_tiles (x : Sent) : (s.emit x).tiles = s.tiles := rfl
@[simp] theorem State.emit_layout (x : Sent) : (s.emit x).layout = s.layout := rfl
@[simp] theorem State.emit_cloud (x : Sent) : (s.emit x).cloud = s.cloud := rfl
@[simp] theorem State.emit_ego (x : Sent) : (s.emit x).ego = s.ego := rfl
@[simp] theorem State.emit_buoys (x : Sent) : (s.emit x).buoys = s.buoys := rfl
@[simp] theorem State.emit_solver (x : Sent) : (s.emit x).solver = s.solver := rfl
@[simp] theorem State.emit_calib (x : Sent) : (s.emit x).calib = s.calib := rfl
@[simp] theorem State.emit_kv (x : Sent) : (s.emit x).kv = s.kv := rfl
@[simp] theorem State.emit_mem (x : Sent) : (s.emit x).mem = s.mem := rfl
@[simp] theorem State.emit_criser (x : Sent) : (s.emit x).criser = s.criser := rfl
@[simp] theorem State.emit_dev (x : Sent) : (s.emit x).dev = s.dev := rfl
@[simp] theorem State.emit_chain (x : Sent) : (s.emit x).chain = s.chain := rfl
@[simp] theorem State.emit_boot (x : Sent) : (s.emit x).boot = s.boot := rfl
@[simp] theorem State.emit_faults (x : Sent) : (s.emit x).faults = s.faults := rfl
@[simp] theorem State.emit_pm (x : Sent) : (s.emit x).pm = s.pm := rfl
@[simp] theorem State.emit_free (x : Sent) : (s.emit x).free = s.free := rfl

@[simp] theorem State.rateMark_pending (key obj : Nat) : (s.rateMark key obj).pending = s.pending := rfl
@[simp] theorem State.rateMark_time (key obj : Nat) : (s.rateMark key obj).time = s.time := rfl
@[simp] theorem State.rateMark_ptp (key obj : Nat) : (s.rateMark key obj).ptp = s.ptp := rfl
@[simp] theorem State.rateMark_pps (key obj : Nat) : (s.rateMark key obj).pps = s.pps := rfl
@[simp] theorem State.rateMark_chars (key obj : Nat) : (s.rateMark key obj).chars = s.chars := rfl
@[simp] theorem State.rateMark_budget (key obj : Nat) : (s.rateMark key obj).budget = s.budget := rfl
@[simp] theorem State.rateMark_ll (key obj : Nat) : (s.rateMark key obj).ll = s.ll := rfl
@[simp] theorem State.rateMark_iq (key obj : Nat) : (s.rateMark key obj).iq = s.iq := rfl
@[simp] theorem State.rateMark_tiles (key obj : Nat) : (s.rateMark key obj).tiles = s.tiles := rfl
@[simp] theorem State.rateMark_layout (key obj : Nat) : (s.rateMark key obj).layout = s.layout := rfl
@[simp] theorem State.rateMark_cloud (key obj : Nat) : (s.rateMark key obj).cloud = s.cloud := rfl
@[simp] theorem State.rateMark_ego (key obj : Nat) : (s.rateMark key obj).ego = s.ego := rfl
@[simp] theorem State.rateMark_buoys (key obj : Nat) : (s.rateMark key obj).buoys = s.buoys := rfl
@[simp] theorem State.rateMark_solver (key obj : Nat) : (s.rateMark key obj).solver = s.solver := rfl
@[simp] theorem State.rateMark_calib (key obj : Nat) : (s.rateMark key obj).calib = s.calib := rfl
@[simp] theorem State.rateMark_kv (key obj : Nat) : (s.rateMark key obj).kv = s.kv := rfl
@[simp] theorem State.rateMark_mem (key obj : Nat) : (s.rateMark key obj).mem = s.mem := rfl
@[simp] theorem State.rateMark_dev (key obj : Nat) : (s.rateMark key obj).dev = s.dev := rfl
@[simp] theorem State.rateMark_chain (key obj : Nat) : (s.rateMark key obj).chain = s.chain := rfl
@[simp] theorem State.rateMark_boot (key obj : Nat) : (s.rateMark key obj).boot = s.boot := rfl
@[simp] theorem State.rateMark_faults (key obj : Nat) : (s.rateMark key obj).faults = s.faults := rfl
@[simp] theorem State.rateMark_pm (key obj : Nat) : (s.rateMark key obj).pm = s.pm := rfl
@[simp] theorem State.rateMark_pins (key obj : Nat) : (s.rateMark key obj).pins = s.pins := rfl
@[simp] theorem State.rateMark_free (key obj : Nat) : (s.rateMark key obj).free = s.free := rfl

@[simp] theorem State.setChan_pending (i : Nat) (c : Channel) : (s.setChan i c).pending = s.pending := rfl
@[simp] theorem State.setChan_time (i : Nat) (c : Channel) : (s.setChan i c).time = s.time := rfl
@[simp] theorem State.setChan_ptp (i : Nat) (c : Channel) : (s.setChan i c).ptp = s.ptp := rfl
@[simp] theorem State.setChan_pps (i : Nat) (c : Channel) : (s.setChan i c).pps = s.pps := rfl
@[simp] theorem State.setChan_chars (i : Nat) (c : Channel) : (s.setChan i c).chars = s.chars := rfl
@[simp] theorem State.setChan_budget (i : Nat) (c : Channel) : (s.setChan i c).budget = s.budget := rfl
@[simp] theorem State.setChan_ll (i : Nat) (c : Channel) : (s.setChan i c).ll = s.ll := rfl
@[simp] theorem State.setChan_iq (i : Nat) (c : Channel) : (s.setChan i c).iq = s.iq := rfl
@[simp] theorem State.setChan_tiles (i : Nat) (c : Channel) : (s.setChan i c).tiles = s.tiles := rfl
@[simp] theorem State.setChan_layout (i : Nat) (c : Channel) : (s.setChan i c).layout = s.layout := rfl
@[simp] theorem State.setChan_cloud (i : Nat) (c : Channel) : (s.setChan i c).cloud = s.cloud := rfl
@[simp] theorem State.setChan_ego (i : Nat) (c : Channel) : (s.setChan i c).ego = s.ego := rfl
@[simp] theorem State.setChan_buoys (i : Nat) (c : Channel) : (s.setChan i c).buoys = s.buoys := rfl
@[simp] theorem State.setChan_solver (i : Nat) (c : Channel) : (s.setChan i c).solver = s.solver := rfl
@[simp] theorem State.setChan_calib (i : Nat) (c : Channel) : (s.setChan i c).calib = s.calib := rfl
@[simp] theorem State.setChan_kv (i : Nat) (c : Channel) : (s.setChan i c).kv = s.kv := rfl
@[simp] theorem State.setChan_mem (i : Nat) (c : Channel) : (s.setChan i c).mem = s.mem := rfl
@[simp] theorem State.setChan_dev (i : Nat) (c : Channel) : (s.setChan i c).dev = s.dev := rfl
@[simp] theorem State.setChan_chain (i : Nat) (c : Channel) : (s.setChan i c).chain = s.chain := rfl
@[simp] theorem State.setChan_boot (i : Nat) (c : Channel) : (s.setChan i c).boot = s.boot := rfl
@[simp] theorem State.setChan_faults (i : Nat) (c : Channel) : (s.setChan i c).faults = s.faults := rfl
@[simp] theorem State.setChan_pm (i : Nat) (c : Channel) : (s.setChan i c).pm = s.pm := rfl
@[simp] theorem State.setChan_pins (i : Nat) (c : Channel) : (s.setChan i c).pins = s.pins := rfl
@[simp] theorem State.setChan_free (i : Nat) (c : Channel) : (s.setChan i c).free = s.free := rfl

@[simp] theorem State.setChar_pending (i : Nat) (c : Char) : (s.setChar i c).pending = s.pending := rfl
@[simp] theorem State.setChar_time (i : Nat) (c : Char) : (s.setChar i c).time = s.time := rfl
@[simp] theorem State.setChar_ptp (i : Nat) (c : Char) : (s.setChar i c).ptp = s.ptp := rfl
@[simp] theorem State.setChar_pps (i : Nat) (c : Char) : (s.setChar i c).pps = s.pps := rfl
@[simp] theorem State.setChar_budget (i : Nat) (c : Char) : (s.setChar i c).budget = s.budget := rfl
@[simp] theorem State.setChar_ll (i : Nat) (c : Char) : (s.setChar i c).ll = s.ll := rfl
@[simp] theorem State.setChar_iq (i : Nat) (c : Char) : (s.setChar i c).iq = s.iq := rfl
@[simp] theorem State.setChar_tiles (i : Nat) (c : Char) : (s.setChar i c).tiles = s.tiles := rfl
@[simp] theorem State.setChar_layout (i : Nat) (c : Char) : (s.setChar i c).layout = s.layout := rfl
@[simp] theorem State.setChar_cloud (i : Nat) (c : Char) : (s.setChar i c).cloud = s.cloud := rfl
@[simp] theorem State.setChar_ego (i : Nat) (c : Char) : (s.setChar i c).ego = s.ego := rfl
@[simp] theorem State.setChar_buoys (i : Nat) (c : Char) : (s.setChar i c).buoys = s.buoys := rfl
@[simp] theorem State.setChar_solver (i : Nat) (c : Char) : (s.setChar i c).solver = s.solver := rfl
@[simp] theorem State.setChar_calib (i : Nat) (c : Char) : (s.setChar i c).calib = s.calib := rfl
@[simp] theorem State.setChar_kv (i : Nat) (c : Char) : (s.setChar i c).kv = s.kv := rfl
@[simp] theorem State.setChar_mem (i : Nat) (c : Char) : (s.setChar i c).mem = s.mem := rfl
@[simp] theorem State.setChar_criser (i : Nat) (c : Char) : (s.setChar i c).criser = s.criser := rfl
@[simp] theorem State.setChar_dev (i : Nat) (c : Char) : (s.setChar i c).dev = s.dev := rfl
@[simp] theorem State.setChar_chain (i : Nat) (c : Char) : (s.setChar i c).chain = s.chain := rfl
@[simp] theorem State.setChar_boot (i : Nat) (c : Char) : (s.setChar i c).boot = s.boot := rfl
@[simp] theorem State.setChar_faults (i : Nat) (c : Char) : (s.setChar i c).faults = s.faults := rfl
@[simp] theorem State.setChar_pm (i : Nat) (c : Char) : (s.setChar i c).pm = s.pm := rfl
@[simp] theorem State.setChar_pins (i : Nat) (c : Char) : (s.setChar i c).pins = s.pins := rfl
@[simp] theorem State.setChar_free (i : Nat) (c : Char) : (s.setChar i c).free = s.free := rfl

@[simp] theorem State.setLaunch_pending (l : Launch) : (s.setLaunch l).pending = s.pending := rfl
@[simp] theorem State.setLaunch_time (l : Launch) : (s.setLaunch l).time = s.time := rfl
@[simp] theorem State.setLaunch_ptp (l : Launch) : (s.setLaunch l).ptp = s.ptp := rfl
@[simp] theorem State.setLaunch_pps (l : Launch) : (s.setLaunch l).pps = s.pps := rfl
@[simp] theorem State.setLaunch_chars (l : Launch) : (s.setLaunch l).chars = s.chars := rfl
@[simp] theorem State.setLaunch_budget (l : Launch) : (s.setLaunch l).budget = s.budget := rfl
@[simp] theorem State.setLaunch_ll (l : Launch) : (s.setLaunch l).ll = s.ll := rfl
@[simp] theorem State.setLaunch_iq (l : Launch) : (s.setLaunch l).iq = s.iq := rfl
@[simp] theorem State.setLaunch_tiles (l : Launch) : (s.setLaunch l).tiles = s.tiles := rfl
@[simp] theorem State.setLaunch_layout (l : Launch) : (s.setLaunch l).layout = s.layout := rfl
@[simp] theorem State.setLaunch_cloud (l : Launch) : (s.setLaunch l).cloud = s.cloud := rfl
@[simp] theorem State.setLaunch_ego (l : Launch) : (s.setLaunch l).ego = s.ego := rfl
@[simp] theorem State.setLaunch_buoys (l : Launch) : (s.setLaunch l).buoys = s.buoys := rfl
@[simp] theorem State.setLaunch_solver (l : Launch) : (s.setLaunch l).solver = s.solver := rfl
@[simp] theorem State.setLaunch_calib (l : Launch) : (s.setLaunch l).calib = s.calib := rfl
@[simp] theorem State.setLaunch_kv (l : Launch) : (s.setLaunch l).kv = s.kv := rfl
@[simp] theorem State.setLaunch_mem (l : Launch) : (s.setLaunch l).mem = s.mem := rfl
@[simp] theorem State.setLaunch_criser (l : Launch) : (s.setLaunch l).criser = s.criser := rfl
@[simp] theorem State.setLaunch_chain (l : Launch) : (s.setLaunch l).chain = s.chain := rfl
@[simp] theorem State.setLaunch_boot (l : Launch) : (s.setLaunch l).boot = s.boot := rfl
@[simp] theorem State.setLaunch_faults (l : Launch) : (s.setLaunch l).faults = s.faults := rfl
@[simp] theorem State.setLaunch_pm (l : Launch) : (s.setLaunch l).pm = s.pm := rfl
@[simp] theorem State.setLaunch_pins (l : Launch) : (s.setLaunch l).pins = s.pins := rfl
@[simp] theorem State.setLaunch_free (l : Launch) : (s.setLaunch l).free = s.free := rfl

@[simp] theorem State.setQueue_pending (q : Nat) (x : Queue) : (s.setQueue q x).pending = s.pending := rfl
@[simp] theorem State.setQueue_time (q : Nat) (x : Queue) : (s.setQueue q x).time = s.time := rfl
@[simp] theorem State.setQueue_ptp (q : Nat) (x : Queue) : (s.setQueue q x).ptp = s.ptp := rfl
@[simp] theorem State.setQueue_pps (q : Nat) (x : Queue) : (s.setQueue q x).pps = s.pps := rfl
@[simp] theorem State.setQueue_chars (q : Nat) (x : Queue) : (s.setQueue q x).chars = s.chars := rfl
@[simp] theorem State.setQueue_budget (q : Nat) (x : Queue) : (s.setQueue q x).budget = s.budget := rfl
@[simp] theorem State.setQueue_ll (q : Nat) (x : Queue) : (s.setQueue q x).ll = s.ll := rfl
@[simp] theorem State.setQueue_tiles (q : Nat) (x : Queue) : (s.setQueue q x).tiles = s.tiles := rfl
@[simp] theorem State.setQueue_layout (q : Nat) (x : Queue) : (s.setQueue q x).layout = s.layout := rfl
@[simp] theorem State.setQueue_cloud (q : Nat) (x : Queue) : (s.setQueue q x).cloud = s.cloud := rfl
@[simp] theorem State.setQueue_ego (q : Nat) (x : Queue) : (s.setQueue q x).ego = s.ego := rfl
@[simp] theorem State.setQueue_buoys (q : Nat) (x : Queue) : (s.setQueue q x).buoys = s.buoys := rfl
@[simp] theorem State.setQueue_solver (q : Nat) (x : Queue) : (s.setQueue q x).solver = s.solver := rfl
@[simp] theorem State.setQueue_calib (q : Nat) (x : Queue) : (s.setQueue q x).calib = s.calib := rfl
@[simp] theorem State.setQueue_kv (q : Nat) (x : Queue) : (s.setQueue q x).kv = s.kv := rfl
@[simp] theorem State.setQueue_mem (q : Nat) (x : Queue) : (s.setQueue q x).mem = s.mem := rfl
@[simp] theorem State.setQueue_criser (q : Nat) (x : Queue) : (s.setQueue q x).criser = s.criser := rfl
@[simp] theorem State.setQueue_dev (q : Nat) (x : Queue) : (s.setQueue q x).dev = s.dev := rfl
@[simp] theorem State.setQueue_chain (q : Nat) (x : Queue) : (s.setQueue q x).chain = s.chain := rfl
@[simp] theorem State.setQueue_boot (q : Nat) (x : Queue) : (s.setQueue q x).boot = s.boot := rfl
@[simp] theorem State.setQueue_faults (q : Nat) (x : Queue) : (s.setQueue q x).faults = s.faults := rfl
@[simp] theorem State.setQueue_pm (q : Nat) (x : Queue) : (s.setQueue q x).pm = s.pm := rfl
@[simp] theorem State.setQueue_pins (q : Nat) (x : Queue) : (s.setQueue q x).pins = s.pins := rfl
@[simp] theorem State.setQueue_free (q : Nat) (x : Queue) : (s.setQueue q x).free = s.free := rfl

@[simp] theorem State.setEntry_pending (i : Nat) (e : Entry) : (s.setEntry i e).pending = s.pending := rfl
@[simp] theorem State.setEntry_time (i : Nat) (e : Entry) : (s.setEntry i e).time = s.time := rfl
@[simp] theorem State.setEntry_ptp (i : Nat) (e : Entry) : (s.setEntry i e).ptp = s.ptp := rfl
@[simp] theorem State.setEntry_pps (i : Nat) (e : Entry) : (s.setEntry i e).pps = s.pps := rfl
@[simp] theorem State.setEntry_chars (i : Nat) (e : Entry) : (s.setEntry i e).chars = s.chars := rfl
@[simp] theorem State.setEntry_budget (i : Nat) (e : Entry) : (s.setEntry i e).budget = s.budget := rfl
@[simp] theorem State.setEntry_iq (i : Nat) (e : Entry) : (s.setEntry i e).iq = s.iq := rfl
@[simp] theorem State.setEntry_tiles (i : Nat) (e : Entry) : (s.setEntry i e).tiles = s.tiles := rfl
@[simp] theorem State.setEntry_layout (i : Nat) (e : Entry) : (s.setEntry i e).layout = s.layout := rfl
@[simp] theorem State.setEntry_cloud (i : Nat) (e : Entry) : (s.setEntry i e).cloud = s.cloud := rfl
@[simp] theorem State.setEntry_ego (i : Nat) (e : Entry) : (s.setEntry i e).ego = s.ego := rfl
@[simp] theorem State.setEntry_buoys (i : Nat) (e : Entry) : (s.setEntry i e).buoys = s.buoys := rfl
@[simp] theorem State.setEntry_solver (i : Nat) (e : Entry) : (s.setEntry i e).solver = s.solver := rfl
@[simp] theorem State.setEntry_calib (i : Nat) (e : Entry) : (s.setEntry i e).calib = s.calib := rfl
@[simp] theorem State.setEntry_kv (i : Nat) (e : Entry) : (s.setEntry i e).kv = s.kv := rfl
@[simp] theorem State.setEntry_mem (i : Nat) (e : Entry) : (s.setEntry i e).mem = s.mem := rfl
@[simp] theorem State.setEntry_criser (i : Nat) (e : Entry) : (s.setEntry i e).criser = s.criser := rfl
@[simp] theorem State.setEntry_dev (i : Nat) (e : Entry) : (s.setEntry i e).dev = s.dev := rfl
@[simp] theorem State.setEntry_chain (i : Nat) (e : Entry) : (s.setEntry i e).chain = s.chain := rfl
@[simp] theorem State.setEntry_boot (i : Nat) (e : Entry) : (s.setEntry i e).boot = s.boot := rfl
@[simp] theorem State.setEntry_faults (i : Nat) (e : Entry) : (s.setEntry i e).faults = s.faults := rfl
@[simp] theorem State.setEntry_pm (i : Nat) (e : Entry) : (s.setEntry i e).pm = s.pm := rfl
@[simp] theorem State.setEntry_pins (i : Nat) (e : Entry) : (s.setEntry i e).pins = s.pins := rfl
@[simp] theorem State.setEntry_free (i : Nat) (e : Entry) : (s.setEntry i e).free = s.free := rfl

@[simp] theorem State.setPtpPort_pending (i : Nat) (p : PtpPort) : (s.setPtpPort i p).pending = s.pending := rfl
@[simp] theorem State.setPtpPort_time (i : Nat) (p : PtpPort) : (s.setPtpPort i p).time = s.time := rfl
@[simp] theorem State.setPtpPort_pps (i : Nat) (p : PtpPort) : (s.setPtpPort i p).pps = s.pps := rfl
@[simp] theorem State.setPtpPort_chars (i : Nat) (p : PtpPort) : (s.setPtpPort i p).chars = s.chars := rfl
@[simp] theorem State.setPtpPort_budget (i : Nat) (p : PtpPort) : (s.setPtpPort i p).budget = s.budget := rfl
@[simp] theorem State.setPtpPort_ll (i : Nat) (p : PtpPort) : (s.setPtpPort i p).ll = s.ll := rfl
@[simp] theorem State.setPtpPort_iq (i : Nat) (p : PtpPort) : (s.setPtpPort i p).iq = s.iq := rfl
@[simp] theorem State.setPtpPort_tiles (i : Nat) (p : PtpPort) : (s.setPtpPort i p).tiles = s.tiles := rfl
@[simp] theorem State.setPtpPort_layout (i : Nat) (p : PtpPort) : (s.setPtpPort i p).layout = s.layout := rfl
@[simp] theorem State.setPtpPort_cloud (i : Nat) (p : PtpPort) : (s.setPtpPort i p).cloud = s.cloud := rfl
@[simp] theorem State.setPtpPort_ego (i : Nat) (p : PtpPort) : (s.setPtpPort i p).ego = s.ego := rfl
@[simp] theorem State.setPtpPort_buoys (i : Nat) (p : PtpPort) : (s.setPtpPort i p).buoys = s.buoys := rfl
@[simp] theorem State.setPtpPort_solver (i : Nat) (p : PtpPort) : (s.setPtpPort i p).solver = s.solver := rfl
@[simp] theorem State.setPtpPort_calib (i : Nat) (p : PtpPort) : (s.setPtpPort i p).calib = s.calib := rfl
@[simp] theorem State.setPtpPort_kv (i : Nat) (p : PtpPort) : (s.setPtpPort i p).kv = s.kv := rfl
@[simp] theorem State.setPtpPort_mem (i : Nat) (p : PtpPort) : (s.setPtpPort i p).mem = s.mem := rfl
@[simp] theorem State.setPtpPort_criser (i : Nat) (p : PtpPort) : (s.setPtpPort i p).criser = s.criser := rfl
@[simp] theorem State.setPtpPort_dev (i : Nat) (p : PtpPort) : (s.setPtpPort i p).dev = s.dev := rfl
@[simp] theorem State.setPtpPort_chain (i : Nat) (p : PtpPort) : (s.setPtpPort i p).chain = s.chain := rfl
@[simp] theorem State.setPtpPort_boot (i : Nat) (p : PtpPort) : (s.setPtpPort i p).boot = s.boot := rfl
@[simp] theorem State.setPtpPort_faults (i : Nat) (p : PtpPort) : (s.setPtpPort i p).faults = s.faults := rfl
@[simp] theorem State.setPtpPort_pm (i : Nat) (p : PtpPort) : (s.setPtpPort i p).pm = s.pm := rfl
@[simp] theorem State.setPtpPort_pins (i : Nat) (p : PtpPort) : (s.setPtpPort i p).pins = s.pins := rfl
@[simp] theorem State.setPtpPort_free (i : Nat) (p : PtpPort) : (s.setPtpPort i p).free = s.free := rfl

@[simp] theorem State.setPort_pending (i : Nat) (p : ChainPort) : (s.setPort i p).pending = s.pending := rfl
@[simp] theorem State.setPort_time (i : Nat) (p : ChainPort) : (s.setPort i p).time = s.time := rfl
@[simp] theorem State.setPort_ptp (i : Nat) (p : ChainPort) : (s.setPort i p).ptp = s.ptp := rfl
@[simp] theorem State.setPort_pps (i : Nat) (p : ChainPort) : (s.setPort i p).pps = s.pps := rfl
@[simp] theorem State.setPort_chars (i : Nat) (p : ChainPort) : (s.setPort i p).chars = s.chars := rfl
@[simp] theorem State.setPort_budget (i : Nat) (p : ChainPort) : (s.setPort i p).budget = s.budget := rfl
@[simp] theorem State.setPort_ll (i : Nat) (p : ChainPort) : (s.setPort i p).ll = s.ll := rfl
@[simp] theorem State.setPort_iq (i : Nat) (p : ChainPort) : (s.setPort i p).iq = s.iq := rfl
@[simp] theorem State.setPort_tiles (i : Nat) (p : ChainPort) : (s.setPort i p).tiles = s.tiles := rfl
@[simp] theorem State.setPort_layout (i : Nat) (p : ChainPort) : (s.setPort i p).layout = s.layout := rfl
@[simp] theorem State.setPort_cloud (i : Nat) (p : ChainPort) : (s.setPort i p).cloud = s.cloud := rfl
@[simp] theorem State.setPort_ego (i : Nat) (p : ChainPort) : (s.setPort i p).ego = s.ego := rfl
@[simp] theorem State.setPort_buoys (i : Nat) (p : ChainPort) : (s.setPort i p).buoys = s.buoys := rfl
@[simp] theorem State.setPort_solver (i : Nat) (p : ChainPort) : (s.setPort i p).solver = s.solver := rfl
@[simp] theorem State.setPort_calib (i : Nat) (p : ChainPort) : (s.setPort i p).calib = s.calib := rfl
@[simp] theorem State.setPort_kv (i : Nat) (p : ChainPort) : (s.setPort i p).kv = s.kv := rfl
@[simp] theorem State.setPort_mem (i : Nat) (p : ChainPort) : (s.setPort i p).mem = s.mem := rfl
@[simp] theorem State.setPort_criser (i : Nat) (p : ChainPort) : (s.setPort i p).criser = s.criser := rfl
@[simp] theorem State.setPort_dev (i : Nat) (p : ChainPort) : (s.setPort i p).dev = s.dev := rfl
@[simp] theorem State.setPort_boot (i : Nat) (p : ChainPort) : (s.setPort i p).boot = s.boot := rfl
@[simp] theorem State.setPort_faults (i : Nat) (p : ChainPort) : (s.setPort i p).faults = s.faults := rfl
@[simp] theorem State.setPort_pm (i : Nat) (p : ChainPort) : (s.setPort i p).pm = s.pm := rfl
@[simp] theorem State.setPort_pins (i : Nat) (p : ChainPort) : (s.setPort i p).pins = s.pins := rfl
@[simp] theorem State.setPort_free (i : Nat) (p : ChainPort) : (s.setPort i p).free = s.free := rfl

@[simp] theorem State.setDom_pending (d : Domain) (x : Dom) : (s.setDom d x).pending = s.pending := rfl
@[simp] theorem State.setDom_time (d : Domain) (x : Dom) : (s.setDom d x).time = s.time := rfl
@[simp] theorem State.setDom_ptp (d : Domain) (x : Dom) : (s.setDom d x).ptp = s.ptp := rfl
@[simp] theorem State.setDom_pps (d : Domain) (x : Dom) : (s.setDom d x).pps = s.pps := rfl
@[simp] theorem State.setDom_chars (d : Domain) (x : Dom) : (s.setDom d x).chars = s.chars := rfl
@[simp] theorem State.setDom_budget (d : Domain) (x : Dom) : (s.setDom d x).budget = s.budget := rfl
@[simp] theorem State.setDom_ll (d : Domain) (x : Dom) : (s.setDom d x).ll = s.ll := rfl
@[simp] theorem State.setDom_iq (d : Domain) (x : Dom) : (s.setDom d x).iq = s.iq := rfl
@[simp] theorem State.setDom_tiles (d : Domain) (x : Dom) : (s.setDom d x).tiles = s.tiles := rfl
@[simp] theorem State.setDom_layout (d : Domain) (x : Dom) : (s.setDom d x).layout = s.layout := rfl
@[simp] theorem State.setDom_cloud (d : Domain) (x : Dom) : (s.setDom d x).cloud = s.cloud := rfl
@[simp] theorem State.setDom_ego (d : Domain) (x : Dom) : (s.setDom d x).ego = s.ego := rfl
@[simp] theorem State.setDom_buoys (d : Domain) (x : Dom) : (s.setDom d x).buoys = s.buoys := rfl
@[simp] theorem State.setDom_solver (d : Domain) (x : Dom) : (s.setDom d x).solver = s.solver := rfl
@[simp] theorem State.setDom_calib (d : Domain) (x : Dom) : (s.setDom d x).calib = s.calib := rfl
@[simp] theorem State.setDom_kv (d : Domain) (x : Dom) : (s.setDom d x).kv = s.kv := rfl
@[simp] theorem State.setDom_mem (d : Domain) (x : Dom) : (s.setDom d x).mem = s.mem := rfl
@[simp] theorem State.setDom_criser (d : Domain) (x : Dom) : (s.setDom d x).criser = s.criser := rfl
@[simp] theorem State.setDom_dev (d : Domain) (x : Dom) : (s.setDom d x).dev = s.dev := rfl
@[simp] theorem State.setDom_chain (d : Domain) (x : Dom) : (s.setDom d x).chain = s.chain := rfl
@[simp] theorem State.setDom_faults (d : Domain) (x : Dom) : (s.setDom d x).faults = s.faults := rfl
@[simp] theorem State.setDom_pm (d : Domain) (x : Dom) : (s.setDom d x).pm = s.pm := rfl
@[simp] theorem State.setDom_pins (d : Domain) (x : Dom) : (s.setDom d x).pins = s.pins := rfl
@[simp] theorem State.setDom_free (d : Domain) (x : Dom) : (s.setDom d x).free = s.free := rfl

@[simp] theorem State.setTileSet_pending (g cls : Nat) (t : TileSet) : (s.setTileSet g cls t).pending = s.pending := rfl
@[simp] theorem State.setTileSet_time (g cls : Nat) (t : TileSet) : (s.setTileSet g cls t).time = s.time := rfl
@[simp] theorem State.setTileSet_ptp (g cls : Nat) (t : TileSet) : (s.setTileSet g cls t).ptp = s.ptp := rfl
@[simp] theorem State.setTileSet_pps (g cls : Nat) (t : TileSet) : (s.setTileSet g cls t).pps = s.pps := rfl
@[simp] theorem State.setTileSet_chars (g cls : Nat) (t : TileSet) : (s.setTileSet g cls t).chars = s.chars := rfl
@[simp] theorem State.setTileSet_budget (g cls : Nat) (t : TileSet) : (s.setTileSet g cls t).budget = s.budget := rfl
@[simp] theorem State.setTileSet_ll (g cls : Nat) (t : TileSet) : (s.setTileSet g cls t).ll = s.ll := rfl
@[simp] theorem State.setTileSet_iq (g cls : Nat) (t : TileSet) : (s.setTileSet g cls t).iq = s.iq := rfl
@[simp] theorem State.setTileSet_layout (g cls : Nat) (t : TileSet) : (s.setTileSet g cls t).layout = s.layout := rfl
@[simp] theorem State.setTileSet_cloud (g cls : Nat) (t : TileSet) : (s.setTileSet g cls t).cloud = s.cloud := rfl
@[simp] theorem State.setTileSet_ego (g cls : Nat) (t : TileSet) : (s.setTileSet g cls t).ego = s.ego := rfl
@[simp] theorem State.setTileSet_buoys (g cls : Nat) (t : TileSet) : (s.setTileSet g cls t).buoys = s.buoys := rfl
@[simp] theorem State.setTileSet_solver (g cls : Nat) (t : TileSet) : (s.setTileSet g cls t).solver = s.solver := rfl
@[simp] theorem State.setTileSet_calib (g cls : Nat) (t : TileSet) : (s.setTileSet g cls t).calib = s.calib := rfl
@[simp] theorem State.setTileSet_kv (g cls : Nat) (t : TileSet) : (s.setTileSet g cls t).kv = s.kv := rfl
@[simp] theorem State.setTileSet_mem (g cls : Nat) (t : TileSet) : (s.setTileSet g cls t).mem = s.mem := rfl
@[simp] theorem State.setTileSet_criser (g cls : Nat) (t : TileSet) : (s.setTileSet g cls t).criser = s.criser := rfl
@[simp] theorem State.setTileSet_dev (g cls : Nat) (t : TileSet) : (s.setTileSet g cls t).dev = s.dev := rfl
@[simp] theorem State.setTileSet_chain (g cls : Nat) (t : TileSet) : (s.setTileSet g cls t).chain = s.chain := rfl
@[simp] theorem State.setTileSet_boot (g cls : Nat) (t : TileSet) : (s.setTileSet g cls t).boot = s.boot := rfl
@[simp] theorem State.setTileSet_faults (g cls : Nat) (t : TileSet) : (s.setTileSet g cls t).faults = s.faults := rfl
@[simp] theorem State.setTileSet_pm (g cls : Nat) (t : TileSet) : (s.setTileSet g cls t).pm = s.pm := rfl
@[simp] theorem State.setTileSet_pins (g cls : Nat) (t : TileSet) : (s.setTileSet g cls t).pins = s.pins := rfl
@[simp] theorem State.setTileSet_free (g cls : Nat) (t : TileSet) : (s.setTileSet g cls t).free = s.free := rfl

@[simp] theorem State.setSeq_pending (i : Nat) (q : KvSeq) : (s.setSeq i q).pending = s.pending := rfl
@[simp] theorem State.setSeq_time (i : Nat) (q : KvSeq) : (s.setSeq i q).time = s.time := rfl
@[simp] theorem State.setSeq_ptp (i : Nat) (q : KvSeq) : (s.setSeq i q).ptp = s.ptp := rfl
@[simp] theorem State.setSeq_pps (i : Nat) (q : KvSeq) : (s.setSeq i q).pps = s.pps := rfl
@[simp] theorem State.setSeq_chars (i : Nat) (q : KvSeq) : (s.setSeq i q).chars = s.chars := rfl
@[simp] theorem State.setSeq_budget (i : Nat) (q : KvSeq) : (s.setSeq i q).budget = s.budget := rfl
@[simp] theorem State.setSeq_ll (i : Nat) (q : KvSeq) : (s.setSeq i q).ll = s.ll := rfl
@[simp] theorem State.setSeq_iq (i : Nat) (q : KvSeq) : (s.setSeq i q).iq = s.iq := rfl
@[simp] theorem State.setSeq_tiles (i : Nat) (q : KvSeq) : (s.setSeq i q).tiles = s.tiles := rfl
@[simp] theorem State.setSeq_layout (i : Nat) (q : KvSeq) : (s.setSeq i q).layout = s.layout := rfl
@[simp] theorem State.setSeq_cloud (i : Nat) (q : KvSeq) : (s.setSeq i q).cloud = s.cloud := rfl
@[simp] theorem State.setSeq_ego (i : Nat) (q : KvSeq) : (s.setSeq i q).ego = s.ego := rfl
@[simp] theorem State.setSeq_buoys (i : Nat) (q : KvSeq) : (s.setSeq i q).buoys = s.buoys := rfl
@[simp] theorem State.setSeq_solver (i : Nat) (q : KvSeq) : (s.setSeq i q).solver = s.solver := rfl
@[simp] theorem State.setSeq_calib (i : Nat) (q : KvSeq) : (s.setSeq i q).calib = s.calib := rfl
@[simp] theorem State.setSeq_mem (i : Nat) (q : KvSeq) : (s.setSeq i q).mem = s.mem := rfl
@[simp] theorem State.setSeq_criser (i : Nat) (q : KvSeq) : (s.setSeq i q).criser = s.criser := rfl
@[simp] theorem State.setSeq_dev (i : Nat) (q : KvSeq) : (s.setSeq i q).dev = s.dev := rfl
@[simp] theorem State.setSeq_chain (i : Nat) (q : KvSeq) : (s.setSeq i q).chain = s.chain := rfl
@[simp] theorem State.setSeq_boot (i : Nat) (q : KvSeq) : (s.setSeq i q).boot = s.boot := rfl
@[simp] theorem State.setSeq_faults (i : Nat) (q : KvSeq) : (s.setSeq i q).faults = s.faults := rfl
@[simp] theorem State.setSeq_pm (i : Nat) (q : KvSeq) : (s.setSeq i q).pm = s.pm := rfl
@[simp] theorem State.setSeq_pins (i : Nat) (q : KvSeq) : (s.setSeq i q).pins = s.pins := rfl
@[simp] theorem State.setSeq_free (i : Nat) (q : KvSeq) : (s.setSeq i q).free = s.free := rfl

@[simp] theorem State.setPage_pending (i : Nat) (p : PageDesc) : (s.setPage i p).pending = s.pending := rfl
@[simp] theorem State.setPage_time (i : Nat) (p : PageDesc) : (s.setPage i p).time = s.time := rfl
@[simp] theorem State.setPage_ptp (i : Nat) (p : PageDesc) : (s.setPage i p).ptp = s.ptp := rfl
@[simp] theorem State.setPage_pps (i : Nat) (p : PageDesc) : (s.setPage i p).pps = s.pps := rfl
@[simp] theorem State.setPage_chars (i : Nat) (p : PageDesc) : (s.setPage i p).chars = s.chars := rfl
@[simp] theorem State.setPage_budget (i : Nat) (p : PageDesc) : (s.setPage i p).budget = s.budget := rfl
@[simp] theorem State.setPage_ll (i : Nat) (p : PageDesc) : (s.setPage i p).ll = s.ll := rfl
@[simp] theorem State.setPage_iq (i : Nat) (p : PageDesc) : (s.setPage i p).iq = s.iq := rfl
@[simp] theorem State.setPage_tiles (i : Nat) (p : PageDesc) : (s.setPage i p).tiles = s.tiles := rfl
@[simp] theorem State.setPage_layout (i : Nat) (p : PageDesc) : (s.setPage i p).layout = s.layout := rfl
@[simp] theorem State.setPage_cloud (i : Nat) (p : PageDesc) : (s.setPage i p).cloud = s.cloud := rfl
@[simp] theorem State.setPage_ego (i : Nat) (p : PageDesc) : (s.setPage i p).ego = s.ego := rfl
@[simp] theorem State.setPage_buoys (i : Nat) (p : PageDesc) : (s.setPage i p).buoys = s.buoys := rfl
@[simp] theorem State.setPage_solver (i : Nat) (p : PageDesc) : (s.setPage i p).solver = s.solver := rfl
@[simp] theorem State.setPage_calib (i : Nat) (p : PageDesc) : (s.setPage i p).calib = s.calib := rfl
@[simp] theorem State.setPage_mem (i : Nat) (p : PageDesc) : (s.setPage i p).mem = s.mem := rfl
@[simp] theorem State.setPage_criser (i : Nat) (p : PageDesc) : (s.setPage i p).criser = s.criser := rfl
@[simp] theorem State.setPage_dev (i : Nat) (p : PageDesc) : (s.setPage i p).dev = s.dev := rfl
@[simp] theorem State.setPage_chain (i : Nat) (p : PageDesc) : (s.setPage i p).chain = s.chain := rfl
@[simp] theorem State.setPage_boot (i : Nat) (p : PageDesc) : (s.setPage i p).boot = s.boot := rfl
@[simp] theorem State.setPage_faults (i : Nat) (p : PageDesc) : (s.setPage i p).faults = s.faults := rfl
@[simp] theorem State.setPage_pm (i : Nat) (p : PageDesc) : (s.setPage i p).pm = s.pm := rfl
@[simp] theorem State.setPage_pins (i : Nat) (p : PageDesc) : (s.setPage i p).pins = s.pins := rfl
@[simp] theorem State.setPage_free (i : Nat) (p : PageDesc) : (s.setPage i p).free = s.free := rfl

@[simp] theorem State.dropPage_pending (i : Nat) : (s.dropPage i).pending = s.pending := rfl
@[simp] theorem State.dropPage_time (i : Nat) : (s.dropPage i).time = s.time := rfl
@[simp] theorem State.dropPage_ptp (i : Nat) : (s.dropPage i).ptp = s.ptp := rfl
@[simp] theorem State.dropPage_pps (i : Nat) : (s.dropPage i).pps = s.pps := rfl
@[simp] theorem State.dropPage_chars (i : Nat) : (s.dropPage i).chars = s.chars := rfl
@[simp] theorem State.dropPage_budget (i : Nat) : (s.dropPage i).budget = s.budget := rfl
@[simp] theorem State.dropPage_ll (i : Nat) : (s.dropPage i).ll = s.ll := rfl
@[simp] theorem State.dropPage_iq (i : Nat) : (s.dropPage i).iq = s.iq := rfl
@[simp] theorem State.dropPage_tiles (i : Nat) : (s.dropPage i).tiles = s.tiles := rfl
@[simp] theorem State.dropPage_layout (i : Nat) : (s.dropPage i).layout = s.layout := rfl
@[simp] theorem State.dropPage_cloud (i : Nat) : (s.dropPage i).cloud = s.cloud := rfl
@[simp] theorem State.dropPage_ego (i : Nat) : (s.dropPage i).ego = s.ego := rfl
@[simp] theorem State.dropPage_buoys (i : Nat) : (s.dropPage i).buoys = s.buoys := rfl
@[simp] theorem State.dropPage_solver (i : Nat) : (s.dropPage i).solver = s.solver := rfl
@[simp] theorem State.dropPage_calib (i : Nat) : (s.dropPage i).calib = s.calib := rfl
@[simp] theorem State.dropPage_mem (i : Nat) : (s.dropPage i).mem = s.mem := rfl
@[simp] theorem State.dropPage_criser (i : Nat) : (s.dropPage i).criser = s.criser := rfl
@[simp] theorem State.dropPage_dev (i : Nat) : (s.dropPage i).dev = s.dev := rfl
@[simp] theorem State.dropPage_chain (i : Nat) : (s.dropPage i).chain = s.chain := rfl
@[simp] theorem State.dropPage_boot (i : Nat) : (s.dropPage i).boot = s.boot := rfl
@[simp] theorem State.dropPage_faults (i : Nat) : (s.dropPage i).faults = s.faults := rfl
@[simp] theorem State.dropPage_pm (i : Nat) : (s.dropPage i).pm = s.pm := rfl
@[simp] theorem State.dropPage_pins (i : Nat) : (s.dropPage i).pins = s.pins := rfl
@[simp] theorem State.dropPage_free (i : Nat) : (s.dropPage i).free = s.free := rfl

@[simp] theorem State.setRefine_pending (e : Nat) (r : Refine) : (s.setRefine e r).pending = s.pending := rfl
@[simp] theorem State.setRefine_time (e : Nat) (r : Refine) : (s.setRefine e r).time = s.time := rfl
@[simp] theorem State.setRefine_ptp (e : Nat) (r : Refine) : (s.setRefine e r).ptp = s.ptp := rfl
@[simp] theorem State.setRefine_pps (e : Nat) (r : Refine) : (s.setRefine e r).pps = s.pps := rfl
@[simp] theorem State.setRefine_chars (e : Nat) (r : Refine) : (s.setRefine e r).chars = s.chars := rfl
@[simp] theorem State.setRefine_budget (e : Nat) (r : Refine) : (s.setRefine e r).budget = s.budget := rfl
@[simp] theorem State.setRefine_ll (e : Nat) (r : Refine) : (s.setRefine e r).ll = s.ll := rfl
@[simp] theorem State.setRefine_iq (e : Nat) (r : Refine) : (s.setRefine e r).iq = s.iq := rfl
@[simp] theorem State.setRefine_tiles (e : Nat) (r : Refine) : (s.setRefine e r).tiles = s.tiles := rfl
@[simp] theorem State.setRefine_layout (e : Nat) (r : Refine) : (s.setRefine e r).layout = s.layout := rfl
@[simp] theorem State.setRefine_cloud (e : Nat) (r : Refine) : (s.setRefine e r).cloud = s.cloud := rfl
@[simp] theorem State.setRefine_ego (e : Nat) (r : Refine) : (s.setRefine e r).ego = s.ego := rfl
@[simp] theorem State.setRefine_buoys (e : Nat) (r : Refine) : (s.setRefine e r).buoys = s.buoys := rfl
@[simp] theorem State.setRefine_solver (e : Nat) (r : Refine) : (s.setRefine e r).solver = s.solver := rfl
@[simp] theorem State.setRefine_kv (e : Nat) (r : Refine) : (s.setRefine e r).kv = s.kv := rfl
@[simp] theorem State.setRefine_mem (e : Nat) (r : Refine) : (s.setRefine e r).mem = s.mem := rfl
@[simp] theorem State.setRefine_criser (e : Nat) (r : Refine) : (s.setRefine e r).criser = s.criser := rfl
@[simp] theorem State.setRefine_dev (e : Nat) (r : Refine) : (s.setRefine e r).dev = s.dev := rfl
@[simp] theorem State.setRefine_chain (e : Nat) (r : Refine) : (s.setRefine e r).chain = s.chain := rfl
@[simp] theorem State.setRefine_boot (e : Nat) (r : Refine) : (s.setRefine e r).boot = s.boot := rfl
@[simp] theorem State.setRefine_faults (e : Nat) (r : Refine) : (s.setRefine e r).faults = s.faults := rfl
@[simp] theorem State.setRefine_pm (e : Nat) (r : Refine) : (s.setRefine e r).pm = s.pm := rfl
@[simp] theorem State.setRefine_pins (e : Nat) (r : Refine) : (s.setRefine e r).pins = s.pins := rfl
@[simp] theorem State.setRefine_free (e : Nat) (r : Refine) : (s.setRefine e r).free = s.free := rfl

@[simp] theorem State.setCheck_pending (p : Nat) (c : Check) : (s.setCheck p c).pending = s.pending := rfl
@[simp] theorem State.setCheck_time (p : Nat) (c : Check) : (s.setCheck p c).time = s.time := rfl
@[simp] theorem State.setCheck_ptp (p : Nat) (c : Check) : (s.setCheck p c).ptp = s.ptp := rfl
@[simp] theorem State.setCheck_pps (p : Nat) (c : Check) : (s.setCheck p c).pps = s.pps := rfl
@[simp] theorem State.setCheck_chars (p : Nat) (c : Check) : (s.setCheck p c).chars = s.chars := rfl
@[simp] theorem State.setCheck_budget (p : Nat) (c : Check) : (s.setCheck p c).budget = s.budget := rfl
@[simp] theorem State.setCheck_ll (p : Nat) (c : Check) : (s.setCheck p c).ll = s.ll := rfl
@[simp] theorem State.setCheck_iq (p : Nat) (c : Check) : (s.setCheck p c).iq = s.iq := rfl
@[simp] theorem State.setCheck_tiles (p : Nat) (c : Check) : (s.setCheck p c).tiles = s.tiles := rfl
@[simp] theorem State.setCheck_layout (p : Nat) (c : Check) : (s.setCheck p c).layout = s.layout := rfl
@[simp] theorem State.setCheck_cloud (p : Nat) (c : Check) : (s.setCheck p c).cloud = s.cloud := rfl
@[simp] theorem State.setCheck_ego (p : Nat) (c : Check) : (s.setCheck p c).ego = s.ego := rfl
@[simp] theorem State.setCheck_buoys (p : Nat) (c : Check) : (s.setCheck p c).buoys = s.buoys := rfl
@[simp] theorem State.setCheck_solver (p : Nat) (c : Check) : (s.setCheck p c).solver = s.solver := rfl
@[simp] theorem State.setCheck_kv (p : Nat) (c : Check) : (s.setCheck p c).kv = s.kv := rfl
@[simp] theorem State.setCheck_mem (p : Nat) (c : Check) : (s.setCheck p c).mem = s.mem := rfl
@[simp] theorem State.setCheck_criser (p : Nat) (c : Check) : (s.setCheck p c).criser = s.criser := rfl
@[simp] theorem State.setCheck_dev (p : Nat) (c : Check) : (s.setCheck p c).dev = s.dev := rfl
@[simp] theorem State.setCheck_chain (p : Nat) (c : Check) : (s.setCheck p c).chain = s.chain := rfl
@[simp] theorem State.setCheck_boot (p : Nat) (c : Check) : (s.setCheck p c).boot = s.boot := rfl
@[simp] theorem State.setCheck_faults (p : Nat) (c : Check) : (s.setCheck p c).faults = s.faults := rfl
@[simp] theorem State.setCheck_pm (p : Nat) (c : Check) : (s.setCheck p c).pm = s.pm := rfl
@[simp] theorem State.setCheck_pins (p : Nat) (c : Check) : (s.setCheck p c).pins = s.pins := rfl
@[simp] theorem State.setCheck_free (p : Nat) (c : Check) : (s.setCheck p c).free = s.free := rfl

@[simp] theorem State.answerReg_pending (v : Reg) : (s.answerReg v).pending = s.pending := rfl
@[simp] theorem State.answerReg_time (v : Reg) : (s.answerReg v).time = s.time := rfl
@[simp] theorem State.answerReg_ptp (v : Reg) : (s.answerReg v).ptp = s.ptp := rfl
@[simp] theorem State.answerReg_pps (v : Reg) : (s.answerReg v).pps = s.pps := rfl
@[simp] theorem State.answerReg_chars (v : Reg) : (s.answerReg v).chars = s.chars := rfl
@[simp] theorem State.answerReg_budget (v : Reg) : (s.answerReg v).budget = s.budget := rfl
@[simp] theorem State.answerReg_ll (v : Reg) : (s.answerReg v).ll = s.ll := rfl
@[simp] theorem State.answerReg_iq (v : Reg) : (s.answerReg v).iq = s.iq := rfl
@[simp] theorem State.answerReg_tiles (v : Reg) : (s.answerReg v).tiles = s.tiles := rfl
@[simp] theorem State.answerReg_layout (v : Reg) : (s.answerReg v).layout = s.layout := rfl
@[simp] theorem State.answerReg_cloud (v : Reg) : (s.answerReg v).cloud = s.cloud := rfl
@[simp] theorem State.answerReg_ego (v : Reg) : (s.answerReg v).ego = s.ego := rfl
@[simp] theorem State.answerReg_buoys (v : Reg) : (s.answerReg v).buoys = s.buoys := rfl
@[simp] theorem State.answerReg_solver (v : Reg) : (s.answerReg v).solver = s.solver := rfl
@[simp] theorem State.answerReg_calib (v : Reg) : (s.answerReg v).calib = s.calib := rfl
@[simp] theorem State.answerReg_kv (v : Reg) : (s.answerReg v).kv = s.kv := rfl
@[simp] theorem State.answerReg_mem (v : Reg) : (s.answerReg v).mem = s.mem := rfl
@[simp] theorem State.answerReg_criser (v : Reg) : (s.answerReg v).criser = s.criser := rfl
@[simp] theorem State.answerReg_dev (v : Reg) : (s.answerReg v).dev = s.dev := rfl
@[simp] theorem State.answerReg_chain (v : Reg) : (s.answerReg v).chain = s.chain := rfl
@[simp] theorem State.answerReg_boot (v : Reg) : (s.answerReg v).boot = s.boot := rfl
@[simp] theorem State.answerReg_faults (v : Reg) : (s.answerReg v).faults = s.faults := rfl
@[simp] theorem State.answerReg_pm (v : Reg) : (s.answerReg v).pm = s.pm := rfl
@[simp] theorem State.answerReg_free (v : Reg) : (s.answerReg v).free = s.free := rfl

@[simp] theorem State.advance_pending (id group n : Nat) : (s.advance id group n).pending = s.pending := rfl
@[simp] theorem State.advance_time (id group n : Nat) : (s.advance id group n).time = s.time := rfl
@[simp] theorem State.advance_ptp (id group n : Nat) : (s.advance id group n).ptp = s.ptp := rfl
@[simp] theorem State.advance_pps (id group n : Nat) : (s.advance id group n).pps = s.pps := rfl
@[simp] theorem State.advance_chars (id group n : Nat) : (s.advance id group n).chars = s.chars := rfl
@[simp] theorem State.advance_budget (id group n : Nat) : (s.advance id group n).budget = s.budget := rfl
@[simp] theorem State.advance_ll (id group n : Nat) : (s.advance id group n).ll = s.ll := rfl
@[simp] theorem State.advance_iq (id group n : Nat) : (s.advance id group n).iq = s.iq := rfl
@[simp] theorem State.advance_tiles (id group n : Nat) : (s.advance id group n).tiles = s.tiles := rfl
@[simp] theorem State.advance_layout (id group n : Nat) : (s.advance id group n).layout = s.layout := rfl
@[simp] theorem State.advance_cloud (id group n : Nat) : (s.advance id group n).cloud = s.cloud := rfl
@[simp] theorem State.advance_ego (id group n : Nat) : (s.advance id group n).ego = s.ego := rfl
@[simp] theorem State.advance_buoys (id group n : Nat) : (s.advance id group n).buoys = s.buoys := rfl
@[simp] theorem State.advance_solver (id group n : Nat) : (s.advance id group n).solver = s.solver := rfl
@[simp] theorem State.advance_calib (id group n : Nat) : (s.advance id group n).calib = s.calib := rfl
@[simp] theorem State.advance_kv (id group n : Nat) : (s.advance id group n).kv = s.kv := rfl
@[simp] theorem State.advance_mem (id group n : Nat) : (s.advance id group n).mem = s.mem := rfl
@[simp] theorem State.advance_criser (id group n : Nat) : (s.advance id group n).criser = s.criser := rfl
@[simp] theorem State.advance_chain (id group n : Nat) : (s.advance id group n).chain = s.chain := rfl
@[simp] theorem State.advance_boot (id group n : Nat) : (s.advance id group n).boot = s.boot := rfl
@[simp] theorem State.advance_faults (id group n : Nat) : (s.advance id group n).faults = s.faults := rfl
@[simp] theorem State.advance_pm (id group n : Nat) : (s.advance id group n).pm = s.pm := rfl
@[simp] theorem State.advance_pins (id group n : Nat) : (s.advance id group n).pins = s.pins := rfl
@[simp] theorem State.advance_free (id group n : Nat) : (s.advance id group n).free = s.free := rfl

@[simp] theorem State.dropLaunch_pending (id : Nat) : (s.dropLaunch id).pending = s.pending := rfl
@[simp] theorem State.dropLaunch_time (id : Nat) : (s.dropLaunch id).time = s.time := rfl
@[simp] theorem State.dropLaunch_ptp (id : Nat) : (s.dropLaunch id).ptp = s.ptp := rfl
@[simp] theorem State.dropLaunch_pps (id : Nat) : (s.dropLaunch id).pps = s.pps := rfl
@[simp] theorem State.dropLaunch_chars (id : Nat) : (s.dropLaunch id).chars = s.chars := rfl
@[simp] theorem State.dropLaunch_budget (id : Nat) : (s.dropLaunch id).budget = s.budget := rfl
@[simp] theorem State.dropLaunch_ll (id : Nat) : (s.dropLaunch id).ll = s.ll := rfl
@[simp] theorem State.dropLaunch_iq (id : Nat) : (s.dropLaunch id).iq = s.iq := rfl
@[simp] theorem State.dropLaunch_tiles (id : Nat) : (s.dropLaunch id).tiles = s.tiles := rfl
@[simp] theorem State.dropLaunch_layout (id : Nat) : (s.dropLaunch id).layout = s.layout := rfl
@[simp] theorem State.dropLaunch_cloud (id : Nat) : (s.dropLaunch id).cloud = s.cloud := rfl
@[simp] theorem State.dropLaunch_ego (id : Nat) : (s.dropLaunch id).ego = s.ego := rfl
@[simp] theorem State.dropLaunch_buoys (id : Nat) : (s.dropLaunch id).buoys = s.buoys := rfl
@[simp] theorem State.dropLaunch_solver (id : Nat) : (s.dropLaunch id).solver = s.solver := rfl
@[simp] theorem State.dropLaunch_calib (id : Nat) : (s.dropLaunch id).calib = s.calib := rfl
@[simp] theorem State.dropLaunch_kv (id : Nat) : (s.dropLaunch id).kv = s.kv := rfl
@[simp] theorem State.dropLaunch_mem (id : Nat) : (s.dropLaunch id).mem = s.mem := rfl
@[simp] theorem State.dropLaunch_criser (id : Nat) : (s.dropLaunch id).criser = s.criser := rfl
@[simp] theorem State.dropLaunch_chain (id : Nat) : (s.dropLaunch id).chain = s.chain := rfl
@[simp] theorem State.dropLaunch_boot (id : Nat) : (s.dropLaunch id).boot = s.boot := rfl
@[simp] theorem State.dropLaunch_faults (id : Nat) : (s.dropLaunch id).faults = s.faults := rfl
@[simp] theorem State.dropLaunch_pm (id : Nat) : (s.dropLaunch id).pm = s.pm := rfl
@[simp] theorem State.dropLaunch_pins (id : Nat) : (s.dropLaunch id).pins = s.pins := rfl
@[simp] theorem State.dropLaunch_free (id : Nat) : (s.dropLaunch id).free = s.free := rfl

end Sys2Proof.Machine
end

