-- ==== Sys2Proof/Laws/Frames.lean ====
section
/-! SUPPORT. What each shared operation may change: one frame for each, cited instead of unfolding it. -/
namespace Sys2Proof.Machine

variable {ps qs : List Part} {s t u : State}

theorem Part.same_refl (p : Part) (s : State) : p.same s s := by cases p <;> simp [Part.same]

theorem Part.same_trans {p : Part} (h : p.same s t) (k : p.same t u) : p.same s u := by
  cases p <;> simp_all [Part.same]

theorem FrameOf.refl (ps : List Part) (s : State) : FrameOf ps s s := ⟨rfl, fun p _ => p.same_refl s⟩

theorem FrameOf.trans (h : FrameOf ps s t) (k : FrameOf ps t u) : FrameOf ps s u :=
  ⟨k.1.trans h.1, fun p hp => Part.same_trans (h.2 p hp) (k.2 p hp)⟩

theorem FrameOf.mono (h : FrameOf ps s t) (hq : ∀ p ∈ ps, p ∈ qs) : FrameOf qs s t :=
  ⟨h.1, fun p hp => h.2 p fun hm => hp (hq p hm)⟩

theorem FrameOf.foldl {α : Type} {f : State → α → State} (hf : ∀ s a, FrameOf ps s (f s a)) (l : List α) (s : State) :
    FrameOf ps s (l.foldl f s) := by
  induction l generalizing s with
  | nil => exact .refl _ _
  | cons a l ih => exact (hf s a).trans (ih _)

theorem FrameOf.ite {c : Prop} [Decidable c] (h : c → FrameOf ps s t) (k : ¬c → FrameOf ps s u) :
    FrameOf ps s (if c then t else u) := by
  split
  · exact h ‹_›
  · exact k ‹_›

/-- A command's frame, by construction of its outcome. -/
theorem only_frame (s t : State) (ps : List Part) : FrameOf ps s (s.only t ps) := by
  refine ⟨rfl, fun p hp => ?_⟩
  have h : ps.contains p = false := by simpa using hp
  cases p <;> simp_all [Part.same, State.only]

theorem countOne_frame (s : State) (i ev n : Nat) : FrameOf [.pm] s (s.countOne i ev n) := by
  unfold State.countOne
  refine ⟨by dsimp only; split <;> rfl, fun p hp => ?_⟩
  dsimp only
  split
  · exact p.same_refl s
  · cases p <;> first | exact absurd (by decide) hp | simp [Part.same]

theorem count_frame (s : State) (b ev n : Nat) : FrameOf [.pm] s (s.count b ev n) := by
  unfold State.count
  exact .ite (fun _ => .foldl (fun s c => countOne_frame s _ _ _) _ _) fun _ => .refl _ _

theorem countTile_frame (s : State) (i ev n : Nat) : FrameOf [.pm] s (s.countTile i ev n) := by
  unfold State.countTile
  exact .ite (fun _ => .foldl (fun s c => countOne_frame s _ _ _) _ _) fun _ => .refl _ _

theorem putFlits_frame (s : State) (p : Nat) (fs : List Flit) : FrameOf [.chain, .pm, .pins] s (s.putFlits p fs) := by
  unfold State.putFlits
  refine .trans ?_ ((count_frame _ _ _ _).mono (by decide))
  exact ⟨rfl, fun p hp => by cases p <;> first | exact absurd (by decide) hp | simp [Part.same]⟩

theorem sendMsg_frame (s : State) (p c : Nat) (bs : List Byte) (x : Option Sent) :
    FrameOf [.chain, .pm, .pins] s (s.sendMsg p c bs x) := by
  unfold State.sendMsg
  dsimp only
  split
  · exact putFlits_frame _ _ _
  · refine .ite (fun _ => ?_) fun _ => .refl _ _
    exact ⟨rfl, fun p hp => by cases p <;> first | exact absurd (by decide) hp | simp [Part.same]⟩

theorem recvFlits_frame (s : State) (p n : Nat) : FrameOf [.pm] s (s.recvFlits p n) := count_frame _ _ _ _

theorem emit_frame (s : State) (x : Sent) : FrameOf [.pins] s (s.emit x) :=
  ⟨rfl, fun p hp => by cases p <;> first | exact absurd (by decide) hp | simp [Part.same]⟩

theorem take_frame (s : State) (n : Nat) : FrameOf [.free] s (s.take n).2 :=
  ⟨rfl, fun p hp => by cases p <;> first | exact absurd (by decide) hp | simp [Part.same]⟩

/-- A change of the protocol's own state. -/
theorem criser_frame (s : State) (c : Criser) : FrameOf [.criser] s { s with criser := c } :=
  ⟨rfl, fun p hp => by cases p <;> first | exact absurd (by decide) hp | simp [Part.same]⟩

theorem setChan_frame (s : State) (i : Nat) (c : Channel) : FrameOf [.criser] s (s.setChan i c) := criser_frame _ _

theorem rateMark_frame (s : State) (k o : Nat) : FrameOf [.criser] s (s.rateMark k o) := criser_frame _ _

theorem noteToLead_frame (s : State) (m : List Word) : FrameOf [.chain, .pm, .pins] s (s.noteToLead m) := by
  unfold State.noteToLead
  exact .ite (fun _ => sendMsg_frame _ _ _ _ _) fun _ => .refl _ _

theorem ringWords_frame (s : State) (c : Channel) (msg : List Word) : FrameOf [.free] s (s.ringWords c msg).2 := by
  unfold State.ringWords
  split
  · exact take_frame s _
  · exact .refl _ _

theorem writeNote_frame (s : State) (n : Note) : FrameOf noteParts s (s.writeNote n) := by
  unfold State.writeNote
  dsimp only
  refine .ite (fun _ => .refl _ _) fun _ => ?_
  generalize b2n _ = k
  refine .trans ((take_frame s k).mono (by decide)) ?_
  refine .ite (fun _ => ?_) fun _ => ?_
  · exact .trans ((criser_frame _ _).mono (by decide)) ((noteToLead_frame _ _).mono (by decide))
  · exact .trans ((ringWords_frame _ _ _).mono (by decide)) ((criser_frame _ _).mono (by decide))

theorem notify_frame (s : State) (op : Nat) (ws : List Word) : FrameOf noteParts s (s.notify op ws) := by
  unfold State.notify
  split
  · exact (criser_frame _ _).mono (by decide)
  · exact .ite (fun _ => (criser_frame _ _).mono (by decide)) fun _ => writeNote_frame _ _

theorem notifyLimited_frame (s : State) (op ev obj n : Nat) (ws : List Word) :
    FrameOf noteParts s (s.notifyLimited op ev obj n ws) := by
  unfold State.notifyLimited
  exact .ite (fun _ => .trans ((rateMark_frame _ _ _).mono (by decide)) (notify_frame _ _ _)) fun _ => .refl _ _

theorem event_frame (s : State) (op : Nat) (w0 w3 : Word) : FrameOf noteParts s (s.event op w0 w3) := notify_frame _ _ _

theorem eventLimited_frame (s : State) (op ev obj n : Nat) (w0 w3 : Word) :
    FrameOf noteParts s (s.eventLimited op ev obj n w0 w3) := notifyLimited_frame _ _ _ _ _ _

theorem log_frame (s : State) (cls action unit target addr detail : Nat) (seen : Option Stamp) :
    FrameOf logParts s (s.log cls action unit target addr detail seen) := by
  unfold State.log
  refine .ite (fun _ => .refl _ _) fun _ => ?_
  refine .trans ?_ ((notifyLimited_frame _ _ _ _ _ _).mono (by decide))
  exact ⟨rfl, fun p hp => by cases p <;> first | exact absurd (by decide) hp | simp [Part.same]⟩

theorem beginCmd_frame (s : State) (i : Nat) : FrameOf [.criser, .pm] s (s.beginCmd i) :=
  .trans ((setChan_frame _ _ _).mono (by decide)) ((count_frame _ _ _ _).mono (by decide))

theorem begun_frame (s : State) (ch : Fin 33) : FrameOf [.criser, .pm] s (s.begun ch) :=
  .trans (beginCmd_frame _ _) ((criser_frame _ _).mono (by decide))

theorem flushNotes_frame (l : List (Option Nat × Note)) (ks : List Nat) (s : State) :
    FrameOf noteParts s (flushNotes l ks s).1 := by
  induction l generalizing ks s with
  | nil => exact .refl _ _
  | cons p l ih =>
    obtain ⟨w, n⟩ := p
    unfold flushNotes
    split
    · exact ih _ _
    · exact (writeNote_frame _ _).trans (ih _ _)

theorem completed_frame (s : State) (o : Nat) : FrameOf noteParts s (s.completed o) := by
  unfold State.completed
  dsimp only
  generalize List.map _ s.criser.later = ns
  refine .trans ((criser_frame s { s.criser with later := [] }).mono (by decide)) ?_
  generalize ({ s with criser := { s.criser with later := [] } } : State) = u
  exact .trans (flushNotes_frame ns [] u) ((criser_frame _ _).mono (by decide))

theorem sendCompletion_frame (s : State) (i : Nat) (a : Await) (t : State) (h : s.sendCompletion i a = some t) :
    FrameOf noteParts s t := by
  unfold State.sendCompletion at h
  split at h
  · injection h with h
    subst h
    exact (sendMsg_frame _ _ _ _ _).mono (by decide)
  · obtain ⟨c, -, rfl⟩ := Option.map_eq_some_iff.1 h
    exact .trans ((ringWords_frame _ _ _).mono (by decide)) ((setChan_frame _ _ _).mono (by decide))

theorem complete_frame (s : State) (i : Nat) (a : Await) : FrameOf ansParts s (s.complete i a) := by
  unfold State.complete
  dsimp only
  refine .trans ((setChan_frame s _ _).mono (by decide)) (.ite (fun _ => .refl _ _) fun _ => ?_)
  split
  · exact .refl _ _
  · rename_i t h
    refine .trans ((sendCompletion_frame _ _ _ _ h).mono (by decide)) (.trans ((setChan_frame t i { t.chan i with await := none }).mono (by decide)) ?_)
    generalize t.setChan i _ = v
    refine .trans (.ite (fun _ => ?_) fun _ => .refl _ _) ((completed_frame _ _).mono (by decide))
    exact ⟨rfl, fun p hp => by cases p <;> first | exact absurd (by decide) hp | simp [Part.same]⟩

/-- Only a DEV_RESET asks for a reset; a completion changes nothing else of the device. -/
theorem complete_dev (s : State) (i : Nat) (a : Await) (h : a.cmd.opcode ≠ 6) : (s.complete i a).dev = s.dev := by
  have hn : ∀ (s : State) (o : Nat), (s.completed o).dev = s.dev := by
    intro s o
    have f := completed_frame s o
    have h1 := f.2 .dev (by decide)
    have h2 := f.2 .devState (by decide)
    cases hd : (s.completed o).dev; cases hs : s.dev
    simp_all [Part.same]
  unfold State.complete
  dsimp only
  split
  · rfl
  · split
    · rfl
    · rename_i t ht
      have f := sendCompletion_frame _ _ _ _ ht
      have h1 := f.2 .dev (by decide)
      have h2 := f.2 .devState (by decide)
      rw [hn]
      simp only [h, false_and, if_false]
      cases hd : t.dev; cases hs : s.dev
      simp_all [Part.same]

/-! ### Reading single parts out of a frame -/

theorem FrameOf.time (h : FrameOf ps s t) (hp : .time ∉ ps) : t.time = s.time := h.2 .time hp
theorem FrameOf.chars (h : FrameOf ps s t) (hp : .chars ∉ ps) : t.chars = s.chars := h.2 .chars hp
theorem FrameOf.iq (h : FrameOf ps s t) (hp : .iq ∉ ps) : t.iq = s.iq := h.2 .iq hp
theorem FrameOf.ll (h : FrameOf ps s t) (hp : .ll ∉ ps) : t.ll = s.ll := h.2 .ll hp
theorem FrameOf.cells (h : FrameOf ps s t) (hp : .cells ∉ ps) : t.mem.cells = s.mem.cells := h.2 .cells hp
theorem FrameOf.devState (h : FrameOf ps s t) (hp : .devState ∉ ps) : t.dev.state = s.dev.state := (h.2 .devState hp).1
theorem FrameOf.otp (h : FrameOf ps s t) (hp : .otp ∉ ps) : t.boot.otp = s.boot.otp := h.2 .otp hp
theorem FrameOf.faults (h : FrameOf ps s t) (hp : .faults ∉ ps) : t.faults = s.faults := h.2 .faults hp
theorem FrameOf.pins (h : FrameOf ps s t) (hp : .pins ∉ ps) : t.pins = s.pins := h.2 .pins hp

end Sys2Proof.Machine
end

