-- ==== Sys2Proof/Laws/Criser.lean ====
section
/-! SUPPORT. What serving a Criser command does, once for all commands. -/
namespace Sys2Proof.Machine

variable {s t u : State} {ch : Fin 33} {op need : Nat} {c : Cmd} {h : Cmd → State → Ans} {r : CrRes} {i : Instr} {ps : List Part}

/-- Taking a command from its queue changes nothing that decides whether its opcode is allowed. -/
theorem beginCmd_allows (s : State) (i op : Nat) : (s.beginCmd i).allows op = s.allows op := by
  have f := beginCmd_frame s i
  have hb := f.2 .boot (by decide)
  have hr : (s.beginCmd i).boot.romServes = s.boot.romServes := by
    have := congrArg Boot.romServes hb
    simpa using this
  unfold State.allows
  rw [f.devState (by decide), hr]

@[simp] theorem begun_time (s : State) (ch : Fin 33) : (s.begun ch).time = s.time :=
  (begun_frame s ch).time (by decide)

@[simp] theorem begun_hold (s : State) (ch : Fin 33) : (s.begun ch).criser.hold = some [] := rfl

theorem FrameOf.mem (h : FrameOf ps s t) (hp : .mem ∉ ps) (hc : .cells ∉ ps) : t.mem = s.mem := by
  have h1 := h.2 .mem hp
  have h2 := h.2 .cells hc
  cases hs : s.mem; cases ht : t.mem
  simp_all [Part.same]

theorem FrameOf.boot (h : FrameOf ps s t) (hp : .boot ∉ ps) (hc : .otp ∉ ps) : t.boot = s.boot := by
  have h1 := h.2 .boot hp
  have h2 := h.2 .otp hc
  cases hs : s.boot; cases ht : t.boot
  simp_all [Part.same]

theorem FrameOf.dev (h : FrameOf ps s t) (hp : .dev ∉ ps) (hc : .devState ∉ ps) : t.dev = s.dev := by
  have h1 := h.2 .dev hp
  have h2 := h.2 .devState hc
  cases hs : s.dev; cases ht : t.dev
  simp_all [Part.same]

@[simp] theorem begun_mem (s : State) (ch : Fin 33) : (s.begun ch).mem = s.mem := (begun_frame s ch).mem (by decide) (by decide)
@[simp] theorem begun_boot (s : State) (ch : Fin 33) : (s.begun ch).boot = s.boot :=
  (begun_frame s ch).boot (by decide) (by decide)
@[simp] theorem begun_dev (s : State) (ch : Fin 33) : (s.begun ch).dev = s.dev := (begun_frame s ch).dev (by decide) (by decide)

@[simp] theorem begun_ptp (s : State) (ch : Fin 33) : (s.begun ch).ptp = s.ptp :=
  (begun_frame s ch).2 .ptp (by decide)
@[simp] theorem begun_pps (s : State) (ch : Fin 33) : (s.begun ch).pps = s.pps :=
  (begun_frame s ch).2 .pps (by decide)
@[simp] theorem begun_chars (s : State) (ch : Fin 33) : (s.begun ch).chars = s.chars :=
  (begun_frame s ch).2 .chars (by decide)
@[simp] theorem begun_budget (s : State) (ch : Fin 33) : (s.begun ch).budget = s.budget :=
  (begun_frame s ch).2 .budget (by decide)
@[simp] theorem begun_ll (s : State) (ch : Fin 33) : (s.begun ch).ll = s.ll :=
  (begun_frame s ch).2 .ll (by decide)
@[simp] theorem begun_iq (s : State) (ch : Fin 33) : (s.begun ch).iq = s.iq :=
  (begun_frame s ch).2 .iq (by decide)
@[simp] theorem begun_tiles (s : State) (ch : Fin 33) : (s.begun ch).tiles = s.tiles :=
  (begun_frame s ch).2 .tiles (by decide)
@[simp] theorem begun_layout (s : State) (ch : Fin 33) : (s.begun ch).layout = s.layout :=
  (begun_frame s ch).2 .layout (by decide)
@[simp] theorem begun_cloud (s : State) (ch : Fin 33) : (s.begun ch).cloud = s.cloud :=
  (begun_frame s ch).2 .cloud (by decide)
@[simp] theorem begun_ego (s : State) (ch : Fin 33) : (s.begun ch).ego = s.ego :=
  (begun_frame s ch).2 .ego (by decide)
@[simp] theorem begun_buoys (s : State) (ch : Fin 33) : (s.begun ch).buoys = s.buoys :=
  (begun_frame s ch).2 .buoys (by decide)
@[simp] theorem begun_solver (s : State) (ch : Fin 33) : (s.begun ch).solver = s.solver :=
  (begun_frame s ch).2 .solver (by decide)
@[simp] theorem begun_calib (s : State) (ch : Fin 33) : (s.begun ch).calib = s.calib :=
  (begun_frame s ch).2 .calib (by decide)
@[simp] theorem begun_kv (s : State) (ch : Fin 33) : (s.begun ch).kv = s.kv :=
  (begun_frame s ch).2 .kv (by decide)
@[simp] theorem begun_chain (s : State) (ch : Fin 33) : (s.begun ch).chain = s.chain :=
  (begun_frame s ch).2 .chain (by decide)
@[simp] theorem begun_faults (s : State) (ch : Fin 33) : (s.begun ch).faults = s.faults :=
  (begun_frame s ch).2 .faults (by decide)
@[simp] theorem begun_pins (s : State) (ch : Fin 33) : (s.begun ch).pins = s.pins :=
  (begun_frame s ch).2 .pins (by decide)
@[simp] theorem begun_free (s : State) (ch : Fin 33) : (s.begun ch).free = s.free :=
  (begun_frame s ch).2 .free (by decide)

/-- A command that its chapter answers: the new state, its completion, and after it the notifications. -/
theorem serve_ok (b : s.Begins ch op need c) (hh : h c (s.begun ch) = .ok (u, r)) :
    s.serve ch op need h = s.answered u ch c r.status r.resp r.wait := by
  have happ : (s.beginCmd ch.val).apply op need c h = .ok (u, r) := by
    have ha := b.allowed
    have hs := b.short
    have he := b.enough
    simp only [State.apply, beginCmd_allows, ha, Bool.not_true, Bool.false_eq_true, if_false, Nat.not_lt.mpr hs,
      Nat.not_lt.mpr he]
    exact hh
  unfold State.serve
  simp only [b.front, b.opcode, b.kind, ne_eq, not_true_eq_false, or_self, if_false, happ]
  rfl

/-- A command that its chapter turns away: nothing has changed but its channel. -/
theorem serve_error {st arg : Nat} (b : s.Begins ch op need c) (hh : h c (s.begun ch) = .error (st, arg)) :
    s.serve ch op need h = (s.beginCmd ch.val).complete ch.val
      { completionOf s c st [] .room with arg := BitVec.ofNat 16 arg } := by
  have happ : (s.beginCmd ch.val).apply op need c h = .error (st, arg) := by
    have ha := b.allowed
    have hs := b.short
    have he := b.enough
    simp only [State.apply, beginCmd_allows, ha, Bool.not_true, Bool.false_eq_true, if_false, Nat.not_lt.mpr hs,
      Nat.not_lt.mpr he]
    exact hh
  unfold State.serve
  simp only [b.front, b.opcode, b.kind, ne_eq, not_true_eq_false, or_self, if_false, happ]
  simp only [completionOf]

/-- A command in a device state that does not allow it: WRONG_STATE, and nothing else changes (R356, R357). -/
theorem serve_wrongState (hf : s.front ch.val = some c) (ho : c.opcode = op) (hk : c.kind = 0) (ha : s.allows op = false) :
    s.serve ch op need h = (s.beginCmd ch.val).complete ch.val
      (completionOf s c 1 [] .room) := by
  unfold State.serve
  simp only [hf, ho, hk, ne_eq, not_true_eq_false, or_self, if_false, State.apply, beginCmd_allows, ha, Bool.not_false,
    if_true, wrongState, completionOf]
  rfl

/-- What an answered command may change beside what it did itself. -/
theorem answered_frame (s u : State) (ch : Fin 33) (c : Cmd) (n : Nat) (resp : List Word) (w : Wait) :
    FrameOf ansParts u (s.answered u ch c n resp w) :=
  .trans ((criser_frame u _).mono (by decide)) (complete_frame _ _ _)

@[simp] theorem answered_time (s u : State) (ch : Fin 33) (c : Cmd) (n : Nat) (r : List Word) (w : Wait) :
    (s.answered u ch c n r w).time = u.time := (answered_frame s u ch c n r w).2 .time (by decide)
@[simp] theorem answered_ptp (s u : State) (ch : Fin 33) (c : Cmd) (n : Nat) (r : List Word) (w : Wait) :
    (s.answered u ch c n r w).ptp = u.ptp := (answered_frame s u ch c n r w).2 .ptp (by decide)
@[simp] theorem answered_pps (s u : State) (ch : Fin 33) (c : Cmd) (n : Nat) (r : List Word) (w : Wait) :
    (s.answered u ch c n r w).pps = u.pps := (answered_frame s u ch c n r w).2 .pps (by decide)
@[simp] theorem answered_chars (s u : State) (ch : Fin 33) (c : Cmd) (n : Nat) (r : List Word) (w : Wait) :
    (s.answered u ch c n r w).chars = u.chars := (answered_frame s u ch c n r w).2 .chars (by decide)
@[simp] theorem answered_budget (s u : State) (ch : Fin 33) (c : Cmd) (n : Nat) (r : List Word) (w : Wait) :
    (s.answered u ch c n r w).budget = u.budget := (answered_frame s u ch c n r w).2 .budget (by decide)
@[simp] theorem answered_ll (s u : State) (ch : Fin 33) (c : Cmd) (n : Nat) (r : List Word) (w : Wait) :
    (s.answered u ch c n r w).ll = u.ll := (answered_frame s u ch c n r w).2 .ll (by decide)
@[simp] theorem answered_iq (s u : State) (ch : Fin 33) (c : Cmd) (n : Nat) (r : List Word) (w : Wait) :
    (s.answered u ch c n r w).iq = u.iq := (answered_frame s u ch c n r w).2 .iq (by decide)
@[simp] theorem answered_tiles (s u : State) (ch : Fin 33) (c : Cmd) (n : Nat) (r : List Word) (w : Wait) :
    (s.answered u ch c n r w).tiles = u.tiles := (answered_frame s u ch c n r w).2 .tiles (by decide)
@[simp] theorem answered_layout (s u : State) (ch : Fin 33) (c : Cmd) (n : Nat) (r : List Word) (w : Wait) :
    (s.answered u ch c n r w).layout = u.layout := (answered_frame s u ch c n r w).2 .layout (by decide)
@[simp] theorem answered_cloud (s u : State) (ch : Fin 33) (c : Cmd) (n : Nat) (r : List Word) (w : Wait) :
    (s.answered u ch c n r w).cloud = u.cloud := (answered_frame s u ch c n r w).2 .cloud (by decide)
@[simp] theorem answered_ego (s u : State) (ch : Fin 33) (c : Cmd) (n : Nat) (r : List Word) (w : Wait) :
    (s.answered u ch c n r w).ego = u.ego := (answered_frame s u ch c n r w).2 .ego (by decide)
@[simp] theorem answered_buoys (s u : State) (ch : Fin 33) (c : Cmd) (n : Nat) (r : List Word) (w : Wait) :
    (s.answered u ch c n r w).buoys = u.buoys := (answered_frame s u ch c n r w).2 .buoys (by decide)
@[simp] theorem answered_solver (s u : State) (ch : Fin 33) (c : Cmd) (n : Nat) (r : List Word) (w : Wait) :
    (s.answered u ch c n r w).solver = u.solver := (answered_frame s u ch c n r w).2 .solver (by decide)
@[simp] theorem answered_calib (s u : State) (ch : Fin 33) (c : Cmd) (n : Nat) (r : List Word) (w : Wait) :
    (s.answered u ch c n r w).calib = u.calib := (answered_frame s u ch c n r w).2 .calib (by decide)
@[simp] theorem answered_kv (s u : State) (ch : Fin 33) (c : Cmd) (n : Nat) (r : List Word) (w : Wait) :
    (s.answered u ch c n r w).kv = u.kv := (answered_frame s u ch c n r w).2 .kv (by decide)
@[simp] theorem answered_faults (s u : State) (ch : Fin 33) (c : Cmd) (n : Nat) (r : List Word) (w : Wait) :
    (s.answered u ch c n r w).faults = u.faults := (answered_frame s u ch c n r w).2 .faults (by decide)
@[simp] theorem answered_mem (s u : State) (ch : Fin 33) (c : Cmd) (n : Nat) (r : List Word) (w : Wait) :
    (s.answered u ch c n r w).mem = u.mem := (answered_frame s u ch c n r w).mem (by decide) (by decide)
@[simp] theorem answered_boot (s u : State) (ch : Fin 33) (c : Cmd) (n : Nat) (r : List Word) (w : Wait) :
    (s.answered u ch c n r w).boot = u.boot := (answered_frame s u ch c n r w).boot (by decide) (by decide)
theorem answered_dev (s u : State) (ch : Fin 33) (c : Cmd) (n : Nat) (r : List Word) (w : Wait) (h : c.opcode ≠ 6) :
    (s.answered u ch c n r w).dev = u.dev := complete_dev _ _ _ h

theorem tells_of (he : exec i s = fin s ansParts (s.serve ch op need h)) (b : s.Begins ch op need c)
    {resp : List Word} (hh : h c (s.begun ch) = .ok (s.begun ch, { resp := resp })) : Tells i s ch c resp := by
  unfold Tells
  rw [he, serve_ok b hh]
  rfl

/-- The protocol's own state is as it was but for the notifications held and the times of those sent. -/
def Holding (s t : State) : Prop :=
  t.criser = { s.criser with hold := t.criser.hold, rate := t.criser.rate } ∧ t.criser.hold.isSome = s.criser.hold.isSome

theorem Holding.refl (s : State) : Holding s s := ⟨rfl, rfl⟩
theorem Holding.of_eq (h : t.criser = s.criser) : Holding s t := ⟨by rw [h], by rw [h]⟩
theorem Holding.trans (h : Holding s t) (k : Holding t u) : Holding s u := by
  refine ⟨?_, k.2.trans h.2⟩
  rw [k.1, h.1]

theorem notify_held (hs : s.criser.hold.isSome) (op : Nat) (ws : List Word) : Holding s (s.notify op ws) := by
  obtain ⟨ns, hn⟩ := Option.isSome_iff_exists.mp hs
  simp [State.notify, hn, Holding]

theorem notifyLimited_held (hs : s.criser.hold.isSome) (op ev obj n : Nat) (ws : List Word) :
    Holding s (s.notifyLimited op ev obj n ws) := by
  unfold State.notifyLimited
  split
  · have h1 : Holding s (s.rateMark (op * 256 + ev) obj) := ⟨rfl, rfl⟩
    exact h1.trans (notify_held (s := s.rateMark _ _) hs _ _)
  · exact .refl _

theorem event_held (hs : s.criser.hold.isSome) (op : Nat) (w0 w3 : Word) : Holding s (s.event op w0 w3) := notify_held hs _ _

theorem acts_of {P : State → Prop} (he : exec i s = fin s ps (s.serve ch op need h)) (b : s.Begins ch op need c)
    (hh : h c (s.begun ch) = .ok (u, r)) (hc : Holding (s.begun ch) u) (ho : op ≠ 6) (hp : ps.contains .criser)
    (hd : ps.contains .devState ∨ u.dev.state = s.dev.state) (ht : u.time.counter = s.time.counter)
    (hP : P (s.only (s.answered u ch c r.status r.resp r.wait) ps)) : Acts i s ch c P r.resp r.status r.wait := by
  have hdev : (s.answered u ch c r.status r.resp r.wait).dev = u.dev :=
    complete_dev _ _ _ (by show c.opcode ≠ 6; rw [b.opcode]; exact ho)
  refine ⟨_, u, by rw [he, serve_ok b hh]; rfl, by simp only [State.only_criser, hp, if_true], hc.1, ?_, ht, hP⟩
  rw [State.only_state, hdev]
  rcases hd with hd | hd
  · simp only [hd, if_true]
  · split
    · rfl
    · exact hd

end Sys2Proof.Machine
end

