-- ==== Sys2Proof/Laws/Tasks.lean ====
section
/-! SUPPORT. What a unit's accesses to memory may change, and what they keep. -/
namespace Sys2Proof.Machine

variable {α β : Type} {ps : List Part} {s t : State}

/-- A computation over memory keeps all but the named parts. -/
def TaskM.Keeps (ps : List Part) (x : TaskM α) : Prop := ∀ s, FrameOf ps s (x.go s).2

theorem go_pure (a : α) (s : State) : (pure a : TaskM α).go s = (.ok a, s) := rfl

theorem go_throw (e : MemFault) (s : State) : (throw e : TaskM α).go s = (.error e, s) := rfl

theorem go_get (s : State) : (get : TaskM State).go s = (.ok s, s) := rfl

theorem go_set (s t : State) : (set t : TaskM PUnit).go s = (.ok ⟨⟩, t) := rfl

theorem go_modify (f : State → State) (s : State) : (modify f : TaskM PUnit).go s = (.ok ⟨⟩, f s) := rfl

theorem go_bind (x : TaskM α) (f : α → TaskM β) (s : State) :
    (x >>= f).go s = match x.go s with | (.ok a, t) => (f a).go t | (.error e, t) => (.error e, t) := by
  show (ExceptT.bindCont f (x.run s).1).run (x.run s).2 = _
  unfold TaskM.go
  rcases h : (x.run s) with ⟨r, u⟩
  cases r <;> rfl

theorem TaskM.Keeps.pure (a : α) : (Pure.pure a : TaskM α).Keeps ps := fun s => .refl _ s

theorem TaskM.Keeps.bind {x : TaskM α} {f : α → TaskM β} (hx : x.Keeps ps) (hf : ∀ a, (f a).Keeps ps) :
    (x >>= f).Keeps ps := by
  intro s
  rw [go_bind]
  have h := hx s
  rcases hr : x.go s with ⟨r, u⟩
  rw [hr] at h
  cases r with
  | error e => exact h
  | ok a => exact h.trans (hf a u)

/-- After a read of the state the rest may use that it is the state. -/
theorem TaskM.Keeps.get_bind {f : State → TaskM β} (hf : ∀ s, FrameOf ps s ((f s).go s).2) :
    ((get : TaskM State) >>= f).Keeps ps := by
  intro s
  rw [go_bind, go_get]
  exact hf s

theorem keeps_modify {f : State → State} (hf : ∀ s, FrameOf ps s (f s)) : (modify f : TaskM PUnit).Keeps ps := fun s => hf s

theorem TaskM.Keeps.forIn {l : List β} {b : α} {f : β → α → TaskM (ForInStep α)} (hf : ∀ x a, (f x a).Keeps ps) :
    (forIn l b f : TaskM α).Keeps ps := by
  induction l generalizing b with
  | nil => exact .pure _
  | cons x l ih =>
    rw [List.forIn_cons]
    refine .bind (hf x b) fun r => ?_
    cases r with
    | done a => exact .pure _
    | yield a => exact ih

theorem TaskM.Keeps.forM {l : List β} {f : β → TaskM PUnit} (hf : ∀ x, (f x).Keeps ps) : (l.forM f : TaskM PUnit).Keeps ps := by
  induction l with
  | nil => exact .pure _
  | cons x l ih => exact TaskM.Keeps.bind (hf x) fun _ => ih

theorem TaskM.Keeps.mono {qs : List Part} {x : TaskM α} (h : x.Keeps ps) (hq : ∀ p ∈ ps, p ∈ qs) : x.Keeps qs :=
  fun s => (h s).mono hq

/-! ### The shared operations -/

/-- What a read may change: counts and times of memory, spare rows, and the notifications of an error met. -/
def readParts : List Part := logParts ++ [.mem]

theorem mem_frame (s : State) (m : Mem) (h : m.cells = s.mem.cells) : FrameOf [.mem] s { s with mem := m } :=
  ⟨rfl, fun p hp => by cases p <;> first | exact absurd (by decide) hp | simp [Part.same, h]⟩

theorem faults_frame (s : State) (f : Faults) : FrameOf [.faults] s { s with faults := f } :=
  ⟨rfl, fun p hp => by cases p <;> first | exact absurd (by decide) hp | simp [Part.same]⟩

theorem wearHalf_frame (s : State) (c u a b : Nat) : FrameOf logParts s (s.wearHalf c u a b) := by
  unfold State.wearHalf
  exact .ite (fun _ => .refl _ _) fun _ => .trans ((faults_frame _ _).mono (by decide)) (log_frame _ _ _ _ _ _ _ _)

theorem spareBank_frame (s : State) (b : Nat) : FrameOf logParts s (s.spareBank b) := by
  unfold State.spareBank
  dsimp only
  refine .ite (fun _ => .refl _ _) fun _ => .ite (fun _ => ?_) fun _ => (faults_frame _ _).mono (by decide)
  exact .trans ((faults_frame _ _).mono (by decide)) (log_frame _ _ _ _ _ _ _ _)

theorem spareNearRow_frame (s : State) (b t r : Nat) : FrameOf logParts s (s.spareNearRow b t r) := by
  unfold State.spareNearRow
  dsimp only
  refine .ite (fun _ => .refl _ _) fun _ => .ite (fun _ => spareBank_frame _ _) fun _ => ?_
  have h : ∀ (c : Prop) [Decidable c] (u : State), FrameOf logParts s u →
      FrameOf logParts s (if c then u.spareBank b else u) :=
    fun c _ u hu => .ite (fun _ => hu.trans (spareBank_frame _ _)) fun _ => hu
  exact h _ _ (.trans (.trans ((faults_frame _ _).mono (by decide)) (log_frame _ _ _ _ _ _ _ _)) (wearHalf_frame _ _ _ _ _))

theorem meetUe_frame (s : State) (da : Nat) : FrameOf readParts s (s.meetUe da) := by
  unfold State.meetUe
  dsimp only
  have h : ∀ (c : Prop) [Decidable c] (u : State) (a b d : Nat), FrameOf readParts s u →
      FrameOf readParts s (if c then u.spareNearRow a b d else u) :=
    fun c _ u a b d hu => .ite (fun _ => hu.trans ((spareNearRow_frame _ _ _ _).mono (by decide))) fun _ => hu
  have e : ∀ m : Mem, m.cells = s.mem.cells →
      FrameOf readParts s (State.eventLimited { s with mem := m } 0x8F0 1 0 1 (wd 1) (wd da)) :=
    fun m hm => .trans ((mem_frame s m hm).mono (by decide)) ((eventLimited_frame _ _ _ _ _ _ _).mono (by decide))
  exact h _ _ _ _ _ (e _ rfl)

theorem meetCe_frame (s : State) (n : Nat) : FrameOf [.mem] s (s.meetCe n) := by
  unfold State.meetCe
  exact .ite (fun _ => .refl _ _) fun _ => mem_frame _ _ rfl

theorem touchLpddr_frame (s : State) (da n : Nat) (w : Bool) : FrameOf [.mem, .pm] s (s.touchLpddr da n w) := by
  unfold State.touchLpddr
  have e : ∀ m : Mem, m.cells = s.mem.cells → FrameOf [.mem, .pm] s { s with mem := m } :=
    fun m hm => (mem_frame s m hm).mono (by decide)
  have f : ∀ (m : Mem) (g : State → Nat → State) (l : List Nat), m.cells = s.mem.cells →
      (∀ u k, FrameOf [.mem, .pm] u (g u k)) → FrameOf [.mem, .pm] s (l.foldl g { s with mem := m }) :=
    fun m g l hm hg => (e m hm).trans (.foldl hg l _)
  exact f _ _ _ rfl fun u g => .ite (fun _ => .refl _ _) fun _ => (count_frame _ _ _ _).mono (by decide)

theorem touch_frame (s : State) (pl : Place) (da n : Nat) (w : Bool) : FrameOf [.mem, .pm] s (s.touch pl da n w) := by
  unfold State.touch
  exact .ite (fun _ => touchLpddr_frame _ _ _ _) fun _ =>
    .ite (fun _ => (count_frame _ _ _ _).mono (by decide)) fun _ => .refl _ _

theorem readRaw_keeps (va len : Nat) (need : Need) : (readRaw va len need).Keeps readParts := by
  unfold readRaw
  refine .bind (.forIn fun p out => .get_bind fun s => ?_) fun _ => .pure _
  split
  · exact .refl _ _
  · split
    · exact .refl _ _
    · exact .refl _ _
    · split
      · rw [go_bind, go_set]
        exact .trans ((touch_frame _ _ _ _ _).mono (by decide)) (meetUe_frame _ _)
      · simp only [go_bind, go_set]
        exact .trans ((meetCe_frame _ _).mono (by decide)) ((touch_frame _ _ _ _ _).mono (by decide))

theorem freeIn_frame (s : State) (runs : List (Nat × Nat)) (va : Nat) (bs : List Byte) :
    FrameOf [.free] s (s.freeIn runs va bs).2 := by
  unfold State.freeIn
  split
  · exact .refl _ _
  · exact take_frame _ _

/-- Where nothing is free the bytes stand as they are. -/
theorem freeIn_nil (s : State) (va : Nat) (bs : List Byte) : s.freeIn [] va bs = (bs, s) := rfl

/-- An access for no launch meets bytes as memory holds them, where no package is spoilt. -/
theorem spoil_none (s : State) (va : Nat) (bs : List Byte) (hs : s.mem.spoilt = 0) (hw : s.mem.who = none) :
    s.spoil va bs = (bs, s) := by
  unfold State.spoil
  rw [hs, hw]
  split <;> rfl

theorem spoil_frame (s : State) (va : Nat) (bs : List Byte) : FrameOf [.free, .mem] s (s.spoil va bs).2 := by
  unfold State.spoil
  split
  · exact .refl _ _
  · dsimp only
    split
    · exact (freeIn_frame _ _ _ _).mono (by decide)
    · exact .trans ((freeIn_frame _ _ _ _).mono (by decide)) (.mono (ps := [.mem]) (mem_frame _ _ rfl) (by decide))

theorem readM_keeps (va len : Nat) (need : Need) : (readM va len need).Keeps readParts := by
  unfold readM
  refine .bind (readRaw_keeps va len need) fun bs => .get_bind fun s => ?_
  exact (spoil_frame s va bs).mono (by decide)

theorem readWords_keeps (va n : Nat) (need : Need) : (readWords va n need).Keeps readParts :=
  .bind (readM_keeps va (8 * n) need) fun _ => .pure _

theorem checkWrite_keeps (va len : Nat) : (checkWrite va len).Keeps readParts := by
  unfold checkWrite
  refine .bind (.forIn fun p out => .get_bind fun s => ?_) fun _ => .pure _
  split
  · exact .refl _ _
  · split
    · rw [go_bind, go_set]
      exact .trans ((touch_frame _ _ _ _ _).mono (by decide)) (meetUe_frame _ _)
    · exact .refl _ _

theorem writeAt_frame (ps : List (Nat × Nat × Place)) (bs : List Byte) (s : State) :
    FrameOf [.mem, .cells, .pm] s (s.writeAt ps bs) := by
  induction ps generalizing bs s with
  | nil => cases bs <;> exact .refl _ _
  | cons p ps ih =>
    obtain ⟨da, n, pl⟩ := p
    unfold State.writeAt
    refine .ite (fun _ => ih _ _) fun _ => .trans ?_ (ih _ _)
    refine .trans ?_ ((touch_frame _ _ _ _ _).mono (by decide))
    refine .trans ((meetCe_frame s (partWords s.mem.ceWords da n).length).mono (by decide)) ?_
    exact ⟨rfl, fun p hp => by cases p <;> first | exact absurd (by decide) hp | simp [Part.same]⟩

theorem writePieces_keeps (ps : List (Nat × Nat)) (bs : List Byte) :
    (writePieces ps bs).Keeps (readParts ++ [.cells]) := by
  induction ps generalizing bs with
  | nil => exact .pure _
  | cons p ps ih =>
    exact .bind ((checkWrite_keeps p.1 p.2).mono (by decide)) fun qs =>
      .bind (keeps_modify fun s => (writeAt_frame qs (bs.take p.2) s).mono (by decide)) fun _ => ih (bs.drop p.2)

theorem pm_frame (s : State) (p : Pm) : FrameOf [.pm] s { s with pm := p } :=
  ⟨rfl, fun p hp => by cases p <;> first | exact absurd (by decide) hp | simp [Part.same]⟩

theorem outsideLaunch_frame (s : State) : FrameOf [.mem] s s.outsideLaunch := mem_frame _ _ rfl

theorem keepIdle_frame (s t : State) : FrameOf [.mem] t (s.keepIdle t) := mem_frame _ _ rfl

theorem backIn_frame (s t : State) : FrameOf [.mem] t (s.backIn t) := mem_frame _ _ rfl

theorem cells_frame (s : State) (m : Mem) : FrameOf [.mem, .cells] s { s with mem := m } :=
  ⟨rfl, fun p hp => by cases p <;> first | exact absurd (by decide) hp | simp [Part.same]⟩

theorem freeAt_frame (s : State) (ps : List (Nat × Nat)) : FrameOf [.free, .mem, .cells] s (s.freeAt ps) := by
  unfold State.freeAt
  refine .foldl (fun s p => ?_) _ _
  split
  · exact .trans ((take_frame _ _).mono (by decide)) ((cells_frame _ _).mono (by decide))
  · exact .trans ((take_frame _ _).mono (by decide)) ((cells_frame _ _).mono (by decide))
  · exact .refl _ _

theorem taint_frame (s : State) (ids : List Nat) : FrameOf [.free, .mem, .cells] s (s.taint ids) := by
  unfold State.taint
  dsimp only
  split
  · exact .refl _ _
  · exact .trans (freeAt_frame _ _) (.mono (ps := [.mem]) (mem_frame _ _ rfl) (by decide))

theorem meetRing_frame (s : State) : FrameOf (readParts ++ [.cells]) s s.meetRing := by
  unfold State.meetRing
  exact .trans ((freeAt_frame _ _).mono (by decide)) ((pm_frame _ _).mono (by decide))

theorem stored_frame (s : State) (va : Nat) (bs : List Byte) : FrameOf (readParts ++ [.cells]) s (s.stored va bs).2 := by
  unfold State.stored
  split
  · exact .refl _ _
  · split
    · exact (meetRing_frame s).trans ((take_frame _ _).mono (by decide))
    · split
      · exact .refl _ _
      · rename_i i _
        dsimp only
        have h : FrameOf (readParts ++ [.cells]) s (if (s.others i s.mem.reads).isEmpty = true then s else
            s.taint (usersOf (s.others i s.mem.reads) (s.places [(va, bs.length)]))) :=
          .ite (fun _ => .refl _ _) fun _ => (taint_frame _ _).mono (by decide)
        generalize (if (s.others i s.mem.reads).isEmpty = true then s else
            s.taint (usersOf (s.others i s.mem.reads) (s.places [(va, bs.length)]))) = u at h ⊢
        split
        · exact h.trans (.mono (ps := [.free]) (take_frame _ _) (by decide))
        · exact h.trans (.mono (ps := [.free]) (freeIn_frame _ _ _ _) (by decide))

theorem writeM_keeps (va : Nat) (bs : List Byte) : (writeM va bs).Keeps (readParts ++ [.cells]) := by
  unfold writeM
  refine .get_bind fun s => ?_
  rw [go_bind, go_set]
  exact (stored_frame s va bs).trans (writePieces_keeps _ _ _)

theorem keeperRead_frame (s : State) (va len : Nat) (need : Need) : FrameOf readParts s (s.keeperRead va len need).2 := by
  unfold State.keeperRead
  have h := ((outsideLaunch_frame s).mono (qs := readParts) (by decide)).trans (readM_keeps va len need s.outsideLaunch)
  split <;> (rename_i t e; rw [e] at h; exact h.trans ((keepIdle_frame _ _).mono (by decide)))

theorem keeperWrite_frame (s : State) (va : Nat) (bs : List Byte) :
    FrameOf (readParts ++ [.cells]) s (s.keeperWrite va bs).2 := by
  unfold State.keeperWrite
  have h := ((outsideLaunch_frame s).mono (qs := readParts ++ [.cells]) (by decide)).trans
    (writeM_keeps va bs s.outsideLaunch)
  split <;> (rename_i t e; rw [e] at h; exact h.trans ((keepIdle_frame _ _).mono (by decide)))

end Sys2Proof.Machine
end

