-- ==== Sys2Proof/Laws/Memory.lean ====
section
/-! SUPPORT. Every memory operation keeps the canonical form of the list of cells. -/
namespace Sys2Proof.Machine

/-- The list of cells starts above an address, or is empty. -/
def above (a : Nat) : List Host.Cell → Prop
  | [] => True
  | (k, _) :: _ => a < k

theorem memWf_cons_iff (k : Nat) (b : Byte) (r : List Host.Cell) :
    memWf ((k, b) :: r) = true ↔ b ≠ 0 ∧ above k r ∧ memWf r = true := by
  cases r with
  | nil => simp [memWf, above]
  | cons c r => obtain ⟨c, d⟩ := c; simp [memWf, above, and_assoc]

theorem memSet_above {m : List Host.Cell} {k a : Nat} (v : Byte) (h : above k m) (ha : k < a) (hm : memWf m = true) :
    above k (memSet m a v) := by
  cases m with
  | nil => unfold memSet; split <;> simp [above, ha]
  | cons c r =>
    obtain ⟨c, d⟩ := c
    have hc : k < c := h
    unfold memSet
    split
    · split <;> simp [above, ha, hc]
    · split
      · split
        · have hr := ((memWf_cons_iff c d r).mp hm).2.1
          cases r with
          | nil => trivial
          | cons e r => exact Nat.lt_trans hc hr
        · exact ha
      · exact hc

theorem memSet_wf {m : List Host.Cell} (a : Nat) (v : Byte) (hm : memWf m = true) : memWf (memSet m a v) = true := by
  induction m with
  | nil =>
    unfold memSet
    split
    · rfl
    · rename_i hv
      simpa [memWf] using fun h : v = 0#8 => hv h
  | cons c r ih =>
    obtain ⟨c, d⟩ := c
    obtain ⟨hd, hr, hw⟩ := (memWf_cons_iff c d r).mp hm
    unfold memSet
    split
    · split
      · exact hm
      · rename_i hv
        exact (memWf_cons_iff _ _ _).mpr ⟨hv, by assumption, hm⟩
    · split
      · rename_i he
        subst he
        split
        · exact hw
        · rename_i hv
          exact (memWf_cons_iff _ _ _).mpr ⟨hv, hr, hw⟩
      · rename_i h1 h2
        exact (memWf_cons_iff _ _ _).mpr ⟨hd, memSet_above v hr (by omega) hw, ih hw⟩

theorem memPut_wf {m : List Host.Cell} (a : Nat) (bs : List Byte) (hm : memWf m = true) : memWf (memPut m a bs) = true := by
  induction bs generalizing m a with
  | nil => exact hm
  | cons b bs ih => exact ih _ (memSet_wf a b hm)

theorem filter_above {m : List Host.Cell} {k : Nat} (p : Host.Cell → Bool) (h : above k m) (hm : memWf m = true) :
    above k (m.filter p) := by
  induction m generalizing k with
  | nil => trivial
  | cons c r ih =>
    obtain ⟨c, d⟩ := c
    obtain ⟨_, hr, hw⟩ := (memWf_cons_iff c d r).mp hm
    rw [List.filter_cons]
    split
    · exact h
    · refine ih ?_ hw
      cases r with
      | nil => trivial
      | cons e r => exact Nat.lt_trans h hr

/-- Leaving cells out keeps the canonical form (a reset, a frame that begins). -/
theorem filter_wf {m : List Host.Cell} (p : Host.Cell → Bool) (hm : memWf m = true) : memWf (m.filter p) = true := by
  induction m with
  | nil => rfl
  | cons c r ih =>
    obtain ⟨c, d⟩ := c
    obtain ⟨hd, hr, hw⟩ := (memWf_cons_iff c d r).mp hm
    rw [List.filter_cons]
    split
    · exact (memWf_cons_iff _ _ _).mpr ⟨hd, filter_above p hr hw, ih hw⟩
    · exact ih hw

/-- Freeing the slots of a buoy table keeps the canonical form. -/
theorem freeSlots_wf {m : List Host.Cell} (ps : List (Nat × Nat × Place)) (hm : memWf m = true) :
    memWf (freeSlots m ps) = true ∧ ∀ k, above k m → above k (freeSlots m ps) := by
  induction m with
  | nil => exact ⟨rfl, fun _ _ => trivial⟩
  | cons c r ih =>
    obtain ⟨c, d⟩ := c
    obtain ⟨hd, hr, hw⟩ := (memWf_cons_iff c d r).mp hm
    obtain ⟨iw, ia⟩ := ih hw
    have below : ∀ k, above k ((c, d) :: r) → above k r := fun k hk => by
      cases r with
      | nil => trivial
      | cons e r => exact Nat.lt_trans hk hr
    unfold freeSlots
    rw [List.filterMap_cons]
    split
    · exact ⟨iw, fun k hk => ia k (below k hk)⟩
    · rename_i b hb
      split at hb
      · split at hb
        · cases hb
        · rename_i hz
          cases hb
          exact ⟨(memWf_cons_iff _ _ _).mpr ⟨hz, ia c hr, iw⟩, fun _ hk => hk⟩
      · cases hb
        exact ⟨(memWf_cons_iff _ _ _).mpr ⟨hd, ia c hr, iw⟩, fun _ hk => hk⟩

theorem touch_cells (s : State) (pl : Place) (da n : Nat) (w : Bool) : (s.touch pl da n w).mem.cells = s.mem.cells := by
  have h := (touch_frame s pl da n w).2 .cells (by decide)
  simpa [Part.same] using h

/-- A unit's write keeps the canonical form. -/
theorem writeAt_wf (ps : List (Nat × Nat × Place)) (bs : List Byte) (s : State) (hm : memWf s.mem.cells = true) :
    memWf (s.writeAt ps bs).mem.cells = true := by
  induction ps generalizing bs s with
  | nil => exact hm
  | cons p ps ih =>
    obtain ⟨da, n, pl⟩ := p
    unfold State.writeAt
    split
    · exact ih _ _ hm
    · exact ih _ _ (by rw [touch_cells]; exact memPut_wf _ _ hm)

/-- The state after reset lists no cell. -/
theorem reset_memory_wf : memWf State.reset.mem.cells = true := rfl

end Sys2Proof.Machine
end

