-- ==== Sys2Proof/Tests/Slice0.lean ====
section
/-! SUPPORT. The package's own tests: operands that WellFormed refuses, states that meet the hypotheses of the statements, and
single steps whose results are worked out from the spec. -/
set_option Elab.async false

open Sys2Proof Sys2Proof.Machine

namespace Sys2Proof.Tests

/-! ### Ill-formed operands -/

theorem test_wf_bar2 : (Instr.bar2Write 0 []).wf = false ∧ (Instr.bar2Read 0 4097).wf = false ∧
    (Instr.bar2Write (BitVec.ofNat 34 (2 ^ 34 - 1)) [1, 2]).wf = false ∧ (Instr.bar2Read (BitVec.ofNat 34 (2 ^ 34 - 8)) 8).wf = true := by
  decide

theorem test_wf_registers : (Instr.mbInboundWrite 0 4 true 0).wf = false ∧ (Instr.mbInboundWrite 0 2 false 0).wf = false ∧
    (Instr.mbInboundWrite 0 4 false 0).wf = true ∧ (Instr.regWriteOther (.list 2) 4 (some 0)).wf = false ∧
    (Instr.regWriteOther (.list 4) 8 (some 0)).wf = false ∧ (Instr.regWriteOther (.list 4) 4 none).wf = false ∧
    (Instr.regWriteOther (.list 4) 4 (some 0)).wf = true := by decide

theorem test_wf_frames : (Instr.csiLongPacket 0 0 0 (List.replicate 65536 0) true).wf = false ∧
    (Instr.ethFrameRx 0 (List.replicate 59 0)).wf = false ∧ (Instr.ethFrameRx 0 (List.replicate 60 0)).wf = true := by
  decide +kernel

theorem test_wf_can : (Instr.canFrameRx 0 { ide := false, rtr := false, fdf := false, brs := false, id := 2048, data := [] }).wf = false ∧
    (Instr.canFrameRx 0 { ide := false, rtr := false, fdf := true, brs := false, id := 1, data := List.replicate 9 0 }).wf = false ∧
    (Instr.canFrameRx 0 { ide := true, rtr := false, fdf := true, brs := true, id := 2048, data := List.replicate 64 0 }).wf = true := by decide

theorem test_wf_tensor : (Instr.tensorRequestRx 1 (.read 0 513)).wf = false ∧ (Instr.tensorRequestRx 1 (.write 0 [])).wf = false ∧
    (Instr.tensorRequestRx 1 (.read 0 512)).wf = true := by decide

theorem test_wf_others : (Instr.cnEnumerate 0 (.answers (List.replicate 64 { number := 0, lpddrGib := 0, state := 0, cause := 0 }))).wf = false ∧
    (Instr.arrayCycleCount [(102, 0)]).wf = false ∧ (Instr.arrayCycleCount [(101, 255)]).wf = true ∧
    (Instr.launchStart 17 0).wf = false ∧ (Instr.preemption 0x24 0).wf = false ∧ (Instr.launchStart 0x23 0).wf = true := by decide


theorem test_wf_links :
    let lane := fun n : Nat => (LaneTraining.mk 8 (List.replicate n 0))
    (Instr.chainTrainingDone 0 { delay := 0, asym := 0, out := lane 8, inn := lane 9 } ⟨none, false⟩).wf = false ∧
    (Instr.chainTrainingDone 0 { delay := 0, asym := 0, out := lane 9, inn := lane 9 } ⟨none, false⟩).wf = true ∧
    (Instr.laneSpared 0 ⟨true, 0, 65⟩).wf = false ∧ (Instr.laneSpared 0 ⟨true, 0, 64⟩).wf = true := by decide

/-! ### States to test on -/

/-- A device in a state with its clocks running, and one region of 16 MiB at VA 0x1000_0000 on the first bank of near SRAM. -/
def lab (st : DevState) : State :=
  { ({} : State) with
    dev := { ({} : Dev) with state := st }
    boot := { ({} : Boot) with
      linkUp := true, resetN := true, railsOut := [], dom := Vector.replicate 5 { up := true }
      fw := some { version := 1, rootSlot := 0, rollback := 3, digest := 0, slot := 0 } }
    mem := { ({} : Mem) with
      regions := [(0, pack [(15, 63, 60), (24, 56, 52), (0x10000000, 47, 0)], wd 0x4000000000, pack [(1, 31, 0)])] } }

/-- Words at an offset of the region's memory. -/
def poke (s : State) (off : Nat) (ws : List Nat) : State :=
  { s with mem := { s.mem with
    cells := memPut s.mem.cells (0x4000000000 + off) (wordBytes (ws.map (BitVec.ofNat 64))) } }

/-- A command as it is taken from an inbound buffer. -/
def cmd (op : Nat) (ws : List Nat) : Cmd :=
  { opcode := op, kind := 0, len := ws.length, seq := 0, tag := 0, words := ws.map (BitVec.ofNat 64), order := 0
    ringAt := 0, acceptedAt := 0 }

/-- A state with one command waiting on channel 0. -/
def talk (s : State) (op : Nat) (ws : List Nat) : State := s.setChan 0 { queue := [cmd op ws] }

/-- The command begins on channel 0, and its words and the state meet a condition. -/
def meets (s : State) (op need : Nat) (ws : List Nat) (p : State → (Nat → Word) → Bool := fun _ _ => true) : Bool :=
  let t := talk s op ws
  let c := cmd op ws
  t.front 0 == some c && t.allows op && decide (c.len ≤ 255) && decide (need ≤ c.len) && p t (wAt c.words)

/-- A test of `meets` gives a state and a command that begins there. -/
theorem begins_of_meets {s : State} {op need : Nat} {ws : List Nat} {p : State → (Nat → Word) → Bool}
    (h : meets s op need ws p = true) :
    (talk s op ws).Begins 0 op need (cmd op ws) ∧ p (talk s op ws) (wAt (cmd op ws).words) = true := by
  simp only [meets, Bool.and_eq_true, beq_iff_eq, decide_eq_true_eq] at h
  exact ⟨⟨h.1.1.1.1, rfl, rfl, h.1.1.1.2, h.1.1.2, h.1.2⟩, h.2⟩

/-- A launch that runs at a unit, its list at the start of the region. -/
def launchAt (target g : Nat) : Launch :=
  { id := 7, char := 4, entry := 0, ego := false, cls := 1, telemetry := false, target := BitVec.ofNat 8 target, power := 0
    shedStep := 0, listVa := 0x10000000, slotAt := 0, deadline := none, issued := true
    runs := [{ group := g, pc := 0x10000000, status := .running, started := true }] }

/-- A state with one launch, and words at the start of the region. -/
def with1 (l : Launch) (ws : List Nat) (s : State := lab .running) : State :=
  poke { s with dev := { s.dev with launches := [l] } } 0 ws

/-- The launch that runs at a unit, the words of the command it begins, and the state after they are read. -/
def fetch (s : State) (target group size : Nat) : Option (Launch × List Word × State) :=
  match s.runningAt target group with
  | none => none
  | some l => if l.ego then none else
    match l.heldAt target group with
    | some h => some (l, h.words, { s with mem := { s.mem with regions := h.regions.getD s.mem.regions } }.byLaunch l.id)
    | none => match (readWords (l.pcOf target group) (size / 8) .ls).go s with
      | (.ok ws, t) => some (l, ws, t.byLaunch l.id)
      | _ => none

/-- The unit stands at a command, and its launch, its words and the state after the read meet a condition. -/
def stands (s : State) (target group size op : Nat) (p : Launch → List Word → State → Bool := fun _ _ _ => true) : Bool :=
  match fetch s target group size with
  | some (l, ws, t) => decide (bits (wAt ws 0) 63 56 = op) && p l ws t
  | none => false

/-- A test of `stands` gives a unit that runs a command. -/
theorem runs_of_stands {s : State} {target group size op : Nat} {p : Launch → List Word → State → Bool}
    (h : stands s target group size op p = true) :
    ∃ l ws t, s.Runs t target group size op l ws ∧ p l ws t = true := by
  unfold stands fetch at h
  split at h
  · rename_i l ws t hf
    split at hf
    · cases hf
    · rename_i m hm
      split at hf
      · cases hf
      · rename_i he
        have ho : ∀ {ws' t'}, (bits (wAt ws' 0) 63 56 = op) → _ → State.Runs s t' target group size op m ws' :=
          fun hb hf' => ⟨hm, by simpa using he, hf', hb⟩
        split at hf
        · rename_i g hg
          cases hf
          simp only [Bool.and_eq_true, decide_eq_true_eq] at h
          exact ⟨_, _, _, ho h.1 (.inr ⟨_, hg, rfl, rfl⟩), h.2⟩
        · rename_i hg
          split at hf
          · rename_i vs u hv
            cases hf
            simp only [Bool.and_eq_true, decide_eq_true_eq] at h
            exact ⟨_, _, _, ho h.1 (.inl ⟨hg, _, hv, rfl⟩), h.2⟩
          · cases hf
  · cases h

/-- A computation over memory that makes no fault. -/
def fine {α : Type} (x : Except MemFault α × State) : Bool :=
  match x.1 with
  | .ok _ => true
  | .error _ => false

/-- A computation over memory that makes no fault, its value and state meeting a condition. -/
def gives {α : Type} (x : Except MemFault α × State) (p : α → State → Bool) : Bool :=
  match x.1 with
  | .ok a => p a x.2
  | .error _ => false

/-- A list command of one code, the other words given. -/
def op1 (op : Nat) (w0 : Nat := 0) (ws : List Nat := []) : List Nat := (op * 2 ^ 56 + w0) :: ws


/-- A command's next state meets a condition. -/
def after (c : Instr) (s : State) (p : State → Bool) : Bool :=
  match exec c s with
  | .next t => p t
  | _ => false

/-- A characteristic with two entries, the first of kind LIST on target 0x20 at offset 0. -/
def char1 (st : CharState) (w0 : Nat := 0x1020000000000000) (w1 : Nat := 0) : Machine.Char :=
  { ({} : Machine.Char) with state := st, periodUs := 1000, table := [(BitVec.ofNat 64 w0, BitVec.ofNat 64 w1)] }
def withChar (c : Machine.Char) (s : State := lab .running) : State := s.setChar 0 c

/-- A launch that has not begun. -/
def ready (target g : Nat) (st : RunStatus := .waiting) (issued : Bool := true) : Launch :=
  { launchAt target g with issued := issued, runs := [{ group := g, pc := 0x10000000, status := st }] }

/-- A light-list entry from its words w0, w4 and w5, ACTIVE, its queue enabled; and the device with it at an index. -/
def entry1 (w0 w4 w5 : Nat) : Entry :=
  { ({} : Entry) with state := .active, w := #v[BitVec.ofNat 64 w0, 0, 0, 0, BitVec.ofNat 64 w4, BitVec.ofNat 64 w5] }
def withEntry (i : Nat) (e : Entry) (st : DevState := .running) : State :=
  { (lab st).setEntry i e with iq := Vector.replicate 64 { depthCode := 11 } }
def frame1 : Frame := { buf := 0, bytes := 0, lines := 0, trunc := false, crcErr := false, stopped := false, unit := {}, noStrobe := false }
/-! ### The hypotheses of the statements hold somewhere -/

theorem test_hyps_FusesAndLeavesNeverGoBack : State.reset.SecInv ∧ step State.reset = .next (idle State.reset) ∧
    ({ lab .running with boot := { (lab .running).boot with blockOpen := true, nextLeaf := 1024, otp := { blocks := 1024, rollback := 64 } } } : State).SecInv := by
  refine ⟨?_, rfl, ?_⟩ <;> unfold State.SecInv <;> decide +kernel

/-- A queue whose first ring is full with an open gap marker, and a channel whose ring is full, meet the invariant. -/
theorem test_hyps_StepsKeepMemoryAndQueues : State.reset.DataInv ∧
    ({ poke (lab .running) 8 [7] with
        iq := (lab .running).iq.set 3 { ({} : Queue) with depthCode := 4, rings := Vector.replicate 4 { ({} : Ring) with
          words := List.replicate ({ ({} : Queue) with depthCode := 4 }).ringDepth 0, gapOpen := true } }
        criser := { ({} : Criser) with ch := Vector.replicate 33 { ({} : Channel) with outWr := 256 } } } : State).DataInv ∧
    ¬ ({ lab .running with criser := { ({} : Criser) with ch := Vector.replicate 33 { ({} : Channel) with outWr := 257 } } } :
      State).DataInv ∧
    step State.reset = .next (idle State.reset) := by
  refine ⟨?_, ?_, ?_, rfl⟩ <;> unfold State.DataInv Channel.fits Queue.fits <;> decide +kernel

theorem test_hyps_DeviceStateFollowsItsTable : step { State.reset with pending := [.powerOn] } = exec .powerOn State.reset ∧
    DevState.mayBecome .faultHalt .standby = false ∧ DevState.mayBecome .dark .optionLoad = true := by
  refine ⟨rfl, ?_, ?_⟩ <;> decide

theorem test_hyps_IdleIsOneKeeperEdge : State.reset.pending = [] ∧ State.reset.boot.dom[0].up = false ∧
    (lab .standby).pending = [] ∧ (lab .standby).boot.dom[0].up = true := by decide +kernel

theorem test_hyps_MemoryReadsAndWrites : memWf [(2, 1), (5, 255)] = true ∧ memWf (lab .running).mem.cells = true ∧
    (∀ p ∈ [(8, 4, Place.near), (0, 8, Place.gather)], p.2.2 = .gather ∨ p.2.2 = .scatter ∨ 12 < p.1 ∨ p.1 + p.2.1 ≤ 12) ∧
    place true (nearBase 63 3 4095) = .near ∧ nearOf (nearBase 63 3 4095) = (63, 3, 4095) := by decide +kernel

/-- The premises of TimeReads and TimeAndPtpSettings. -/
theorem test_hyps_time : meets (lab .standby) 0x104 0 [] ∧ meets (lab .faultHalt) 0x112 1 [3] ∧ meets (lab .fog) 0x100 0 [] ∧
    meets (lab .running) 0x101 1 [3] (fun _ w => bits (w 0) 3 0 ≤ 3) ∧
    meets (lab .armed) 0x102 3 [31 + 31 * 256, 10 * 2 ^ 32 + 1000, 10] (fun _ w => decide (10 ≤ bits (w 1) 63 32 ∧
      bits (w 1) 63 32 ≤ bits (w 1) 31 0 ∧ 1000 ≤ bits (w 1) 31 0 ∧ bits (w 1) 31 0 ≤ 1000000000 ∧ 10 ≤ bits (w 2) 31 0)) ∧
    meets (lab .armed) 0x102 3 [0, 1000000 * 2 ^ 32 + 1000000000, 60000] (fun _ w => decide (bits (w 1) 63 32 ≤ 1000000 ∧
      bits (w 1) 31 0 ≤ 1000000000 ∧ bits (w 2) 31 0 ≤ 60000)) ∧
    meets (lab .standby) 0x120 4 [0x103, 500000000, 2 ^ 32 - 500000000, 0] (fun _ w => decide (1000 ≤ bits (w 1) 31 0 ∧
      bits (w 1) 31 0 ≤ 500000000 ∧ -500000000 ≤ sgn 32 (bits (w 2) 31 0) ∧ sgn 32 (bits (w 2) 31 0) ≤ 500000000)) ∧
    meets (lab .standby) 0x121 1 [7] ∧
    meets (lab .armed) 0x103 3 [1, 2 ^ 64 - 1, 0] (fun _ w => bit (w 0) 0) ∧
    meets (lab .armed) 0x103 3 [0, 5, 999999999] (fun _ w => decide (bit (w 0) 0 = false ∧ bits (w 2) 31 0 ≤ 999999999)) ∧
    meets (lab .armed) 0x103 3 [0, 5, 1000000000] (fun _ w => decide (bit (w 0) 0 = false ∧ 999999999 < bits (w 2) 31 0)) ∧
    meets (lab .running) 0x101 1 [4] (fun _ w => decide (3 < bits (w 0) 3 0)) ∧
    meets (lab .armed) 0x102 3 [0, 1000 * 2 ^ 32 + 999, 10] (fun _ w => decide (bits (w 1) 31 0 < bits (w 1) 63 32)) ∧
    meets (lab .armed) 0x102 3 [0, 1000 * 2 ^ 32 + 1000, 9] (fun _ w => decide (bits (w 2) 31 0 < 10)) ∧
    meets (lab .standby) 0x120 4 [0, 999, 0, 0] (fun _ w => decide (bits (w 1) 31 0 < 1000)) ∧
    meets (lab .standby) 0x120 4 [0, 1000, 500000001, 0] (fun _ w => decide (500000000 < sgn 32 (bits (w 2) 31 0))) ∧
    meets (lab .standby) 0x110 3 [0x13, 0, 0] (fun _ w => decide (2 < bits (w 0) 1 0)) ∧
    meets (lab .standby) 0x110 3 [0x12, 2 ^ 24, 0] (fun _ w => decide (bits (w 1) 31 24 < 2)) ∧
    meets (lab .standby) 0x110 3 [0x12, 2 * 2 ^ 24 + 252 * 2 ^ 16 + 253 * 256 + 252, 9] (fun _ w => decide (
      bits (w 0) 5 4 ≤ 1 ∧ bits (w 0) 1 0 ≤ 2 ∧ 2 ≤ bits (w 1) 31 24 ∧ -4 ≤ sgn 8 (bits (w 1) 23 16) ∧
      -3 ≤ sgn 8 (bits (w 1) 15 8) ∧ -4 ≤ sgn 8 (bits (w 1) 7 0))) ∧
    meets (lab .standby) 0x110 3 [0x12, 255 * 2 ^ 24 + 5 * 2 ^ 16 + 4 * 256 + 1, 9] (fun _ w => decide (
      sgn 8 (bits (w 1) 23 16) ≤ 5 ∧ sgn 8 (bits (w 1) 15 8) ≤ 4 ∧ sgn 8 (bits (w 1) 7 0) ≤ 1)) ∧
    meets (lab .running) 0x111 4 [0x103, 0, 0, 0] := by decide +kernel

/-- A servo in a state, with one sample of the PTP source. -/
def servo (st : ServoState) (o : Int) : State :=
  { lab .running with time := { ({} : Time) with source := .ptp, samples := [{ src := .ptp, o := o }], state := st } }

theorem test_hyps_ServoTakesOffsets :
    (∀ st ∈ [ServoState.free, .acquiring, .locked, .settling, .holdover], ∀ o ∈ [(1000000 * 65536 : Int), -1000000 * 65536 - 1],
      (servo st o).time.samples = [{ src := (servo st o).time.source, o := o }] ∧ (servo st o).faults.keeperDead = false ∧
        (servo st o).time.state = st ∧ (o.natAbs ≤ (servo st o).time.stepNs * 65536 ↔ o = 1000000 * 65536)) ∧
    (let s := { servo .locked 0 with time := { (servo .locked 0).time with counter := 2000 * cycMs } };
      s.time.holdFrom + s.time.holdoverMs * cycMs ≤ s.time.counter) := by decide +kernel

/-- Eight small offsets lock the servo (R41), and an offset beyond the step threshold is refused and counted (R43). -/
theorem test_servo : ((servo .settling 0).servo 0).time.lockRun = 1 ∧
    (({ servo .settling 0 with time := { (servo .settling 0).time with lockRun := 7 } } : State).servo 0).time.state = .locked ∧
    ((servo .locked 0).servo (1000000 * 65536 + 1)).time.refused = 1 := by decide +kernel

/-- The loop of R39 by hand: an offset of 2^19 units at ki 19 and kp 15 takes 1 from the integral term and 17 from F. -/
theorem test_loop : ((servo .locked 0).loop (2 ^ 19)).time.iAcc = -1 ∧ ((servo .locked 0).loop (2 ^ 19)).time.freq = -17 := by
  decide +kernel

/-- Header of a PTP message, and a port that hears it. -/
def hdr : PtpHdr := { udp := false, domain := 0, seq := 5, corr := 0, srcId := 9, srcPort := 1 }
def ptpLab (q : PtpPort) : State :=
  { lab .running with ptp := { ({} : Ptp) with role := 1, ports := Vector.replicate 4 { q with enable := true, parent := 9, parentPort := 1 } }
                      time := { ({} : Time) with source := .ptp } }
def rxStamp : FrameStamp := { t := 3, flags := 0, late := false, tx := false }

theorem test_hyps_PtpReception :
    (ptpLab {}).portsUp ∧ (ptpLab {}).pairAway ((ptpLab {}).stampPair 3) = false ∧ (ptpLab {}).ptpHears 3 hdr ∧
    (ptpLab {}).ptpHears 3 { hdr with udp := true } = false ∧
    (let s := ptpLab { state := .slave, stamp := some rxStamp };
      s.ptpHears 0 hdr ∧ (s.ptpPort 0).stamp = some rxStamp ∧ rxStamp.tx = false ∧ rxStamp.late = false ∧ (s.ptpPort 0).follows ∧
        hdr.srcId = (s.ptpPort 0).parent ∧ hdr.srcPort = (s.ptpPort 0).parentPort) ∧
    (let s := ptpLab { state := .slave, sync := some { seq := 5, t2 := 0, corr := 0 }, pathDelay := some 4 };
      s.ptpHears 0 hdr ∧ ((s.ptpPort 0).sync.map (·.seq)) = some hdr.seq ∧ rxStamp.stale = false ∧
        (s.ptpPort 0).pathDelay = some 4 ∧ s.time.source = .ptp) ∧
    (let s := ptpLab { state := .master, stamp := some rxStamp };
      s.ptpHears 0 hdr ∧ (s.ptpPort 0).stamp = some rxStamp ∧ (s.ptpPort 0).stateNow s.time.counter = .master) ∧
    (let s := ptpLab { state := .uncalibrated, stamp := some rxStamp, delayReq := some (5, 1), lastSync := some (1, 2) };
      s.ptpHears 0 hdr ∧ (s.ptpPort 0).follows ∧ (s.ptpPort 0).delayReq = some (hdr.seq, 1) ∧
        (s.ptpPort 0).lastSync = some (1, 2) ∧ (1 : BitVec 16).toNat = 0 + 1) ∧
    (let s := ptpLab { state := .listening };
      s.ptpHears 0 hdr ∧ hdr.srcId ≠ s.clockId ∧ (s.ptpPort 0).state ≠ .disabled) := by decide +kernel

/-- Another clock's Announce of a better class wins, and a port that heard none of it becomes master by M3, one that listens
listens on (IEEE 1588, log entry 12). -/
theorem test_best_master :
    let a := fun (cls : BitVec 8) (port : BitVec 16) => Announce.mk { hdr with srcPort := port } 9 0 0 cls 0x21 1 0 true true 37
    let p := { ({} : PtpPort) with best := some (a 6 1), state := .uncalibrated }
    let s := { lab .running with ptp := { ({} : Ptp) with role := 1, ports := (Vector.replicate 4 ({} : PtpPort)).set 2 p } }
    (s.ebest.map (·.1)) = some 2 ∧ s.ptp.slaveOnly = false ∧ 127 < s.ptp.clockClass.toNat ∧
    s.ownSet.beats (s.heardSet 2 (a 6 1)) = false ∧ s.ownSet.beats (s.heardSet 2 (a 250 1)) = true ∧
    s.decide_ 1 { s.ptpPort 1 with state := .listening } = .listen ∧ s.decide_ 1 { s.ptpPort 1 with state := .slave } = .m3 ∧
    s.decide_ 2 (s.ptpPort 2) = .s1 ∧
    (s.heardSet 1 (a 6 1)).compare (s.heardSet 1 (a 6 2)) = ((s.heardSet 1 (a 6 2)).compare (s.heardSet 1 (a 6 1))).flip := by
  decide +kernel

theorem test_hyps_PtpTransmission :
    (let s := ptpLab { state := .master };
      s.portsUp ∧ (s.ptpPort 0).stateNow s.time.counter = .master ∧ s.due (s.ptpPort 0).sentAt.1 s.ptp.logSync ∧
        s.due (s.ptpPort 0).sentAt.2.2 s.ptp.logAnnounce ∧ (∀ j < 4, (s.ptpPort j).follows = false)) ∧
    (let s := ptpLab { state := .slave };
      s.portsUp ∧ (s.ptpPort 0).follows ∧ s.due (s.ptpPort 0).sentAt.2.1 s.ptp.logDelayReq ∧
        (s.ptpPort 0).annFrom + s.ptp.announceTimeout.toNat * cycOfLog s.ptp.logAnnounce ≤ s.time.counter) := by decide +kernel

/-- A MASTER port's first Sync goes out, and the port says so; with LOG_SYNC 0 the next is due a second later, 1,280,000,000
cycles of 0.78125 ns (R15, R49). -/
theorem test_sync_interval :
    (let s := ptpLab { state := .master };
      cycOfLog 0 = 1280000000 ∧ s.due (some 5) 0 = false ∧
        after (.ptpSyncTx 0) s fun t =>
          decide ((t.ptpPort 0).sentAt.1 = some 0 ∧ (t.ptpPort 0).seqs.1 = 1 ∧ t.pins.sent.length = 1)) := by decide +kernel

theorem test_hyps_PpsPins :
    (let s := { lab .running with pps := { ({} : Pps) with inEnable := true, label := some 4, lastAccepted := some 0 }
                                  time := { ({} : Time) with counter := 1920000000, source := .ppsIn } };
      s.pps.inEnable ∧ s.mailOpen ∧ s.pps.label = some 4 ∧ s.pps.lastAccepted = some 0 ∧ 0 + 640000000 ≤ s.time.counter ∧
        s.time.source = .ppsIn ∧ s.pps.lostSent = false ∧ s.pps.lostFrom + 1920000000 ≤ s.time.counter) ∧
    (let s := { lab .running with pps := { ({} : Pps) with outEnable := true, outUptime := true } };
      s.pps.outEnable ∧ s.pps.out = false ∧ (s.time.uptime = false ∨ s.pps.outUptime = true) ∧
        (s.time.line + s.pps.outPhase * 2 ^ 48) % sec48 < s.time.rate) ∧
    (let s := { lab .running with pps := { ({} : Pps) with out := true, outWidth := 1000 }
                                  time := { ({} : Time) with counter := 1280 } };
      s.pps.out ∧ s.pps.outWidth * 1280 ≤ (s.time.counter - s.pps.outRise) * 1000) := by decide +kernel
theorem test_hyps_CharacteristicsLoadAndRun :
    meets (poke (lab .standby) 0 [0x1020000000000000, 0x10000000]) 0x200 2 [2 ^ 32 + 1000, 0x10000000] (fun t w =>
      decide (1 ≤ bits (w 0) 42 32 ∧ 1000 ≤ bits (w 0) 19 0 ∧ bits (w 1) 47 0 % 16 = 0 ∧ (t.char 0).state = .empty) &&
      match ((t.begun 0).keeperRead (bits (w 1) 47 0) 16 .ls).1 with
      | some bs => tableOk 1000 [(wAt (bytesWords 2 bs) 0, wAt (bytesWords 2 bs) 1)]
      | none => false) ∧
    meets (lab .armed) 0x200 2 [3 * 2 ^ 48 + 1024 * 2 ^ 32 + 1000000, 0x10FFD000] (fun t w =>
      decide (bits (w 0) 42 32 ≤ 1024 ∧ bits (w 0) 19 0 ≤ 1000000 ∧ (t.char 3).state = .empty) &&
      ((t.begun 0).keeperRead (bits (w 1) 47 0) (16 * 1024) .ls).1.isNone) ∧
    meets (withChar (char1 .loaded)) 0x201 3 [0, 5, 999999999] (fun t w => decide (bits (w 2) 31 0 < 1000000000 ∧ (t.char 0).state = .loaded)) ∧
    meets (withChar (char1 .pending)) 0x202 1 [0] (fun t _ => (t.char 0).state = .pending) ∧
    meets (withChar (char1 .running)) 0x202 1 [256] (fun t w => (t.char 0).state = .running ∧ bit (w 0) 8 = true) ∧
    meets (lab .running) 0x202 1 [3] (fun t _ => (t.char 3).state = .empty) ∧ meets (lab .fog) 0x203 1 [0] ∧
    (let s := withChar (char1 .pending); s.keeperUp ∧ (s.char 0).state = .pending ∧ (s.char 0).start ≤ s.time.line) ∧
    (let s := { withChar { char1 .running with next := 1, stopAtEnd := true } with time := { ({} : Time) with line := ms48 } };
      s.keeperUp ∧ (s.char 0).state = .running ∧ (s.char 0).table.length ≤ (s.char 0).next ∧
        (s.char 0).periodStart + (s.char 0).period48 ≤ s.time.line) := by decide +kernel

theorem test_hyps_SlotsFallDue :
    (withChar (char1 .running)).slotDue 0 0 1 = true ∧ (withChar (char1 .running) (lab .fog)).slotDue 0 0 1 = true ∧
    (withChar (char1 .running 0x3020000000000000) (lab .fog)).slotDue 0 0 3 = true ∧
    (let l := { launchAt 0x20 16 with char := 0 }; let s := { withChar (char1 .running) with dev := { (lab .running).dev with launches := [l] } };
      s.slotDue 0 0 1 ∧ s.dev.launches.find? (fun m => m.char == 0 && m.entry == 0) = some l ∧ l.inFlight) ∧
    (withChar (char1 .running 0x2000000000000000 0x101)).slotDue 0 0 2 = true ∧
    (withChar (char1 .running 0x4000000000000000)).slotDue 0 0 4 = true ∧ (withChar (char1 .running 0)).slotDue 0 0 0 = true ∧
    (let s := { lab .running with pins := { ({} : Pins) with falls := #v[some (0, 1), none, none, none, none, none, none, none] } };
      s.pins.falls[(0 : Fin 8)] = some (0, 1) ∧ (0 : Int) ≤ s.time.line) := by decide +kernel

theorem test_hyps_LaunchesRun :
    (let s := with1 (ready 0x20 16 .waiting false) []; let l := ready 0x20 16 .waiting false;
      firstOf (s.dev.launches.filter s.mayIssue) = some l ∧ (s.runsOf l).all (·.status = .done) = false) ∧
    (let s := with1 (ready 0x23 16) []; s.runningAt 0x23 16 = none ∧ s.inService 0x23 16 ∧ unitGroup 0x23 0 = 16 ∧ (s.nextAt 0x23 16).isSome) ∧
    (let s := { with1 (ready 15 15) [] with tiles := { ({} : Tiles) with groups := Vector.replicate 16 { gated := false } } };
      s.runningAt 15 15 = none ∧ s.inService 15 15 ∧ (at_ s.tiles.groups (unitGroup 15 15) {}).gated = false ∧ (s.nextAt 15 15).isSome) ∧
    (let l := { launchAt 0x22 16 with cls := 3 }; let m := { ready 0x22 16 with id := 8, cls := 0 };
      let s := { lab .running with dev := { (lab .running).dev with launches := [l, m] } };
      s.runningAt 0x22 16 = some l ∧ l.ego = false ∧ s.layout.move = none ∧ m ∈ s.dev.launches ∧ m.cls < l.cls ∧
        m.hasRun 0x22 16 (· = .waiting) ∧ m.withheld = false) ∧
    (let l := { launchAt 0x21 16 with ego := true, deadline := some (-1), char := 3 }; let s := with1 l [];
      s.dev.launches.find? (fun l => l.id == 7) = some l ∧ (-1 : Int) < s.time.line ∧ l.late = false) := by decide +kernel

theorem test_hyps_ListAndBudgetMessages :
    meets (lab .armed) 0x010 2 [0x1423000000000000, 0x10000020] (fun t w => decide (eKind (w 0, w 1) = 1 ∧
      targetOk (eTarget (w 0, w 1)) = true ∧ eClass (w 0, w 1) ≠ 0 ∧ bits (w 1) 47 0 % 32 = 0 ∧
      (t.dev.launches.filter (·.char == 4)).length < 16)) ∧
    meets { lab .running with dev := { (lab .running).dev with launches := List.replicate 16 (launchAt 0x20 16) } } 0x010 2
      [0x1C10000000000000, 0] (fun t w => decide (targetOk (eTarget (w 0, w 1)) = true ∧
        16 ≤ (t.dev.launches.filter (·.char == 4)).length)) ∧
    meets (lab .fog) 0x210 3 [110000, 1000000, 10 * 2 ^ 32 + 3000] (fun _ w => decide (3000 ≤ bits (w 0) 31 0 ∧
      bits (w 0) 31 0 ≤ 110000 ∧ bits (w 1) 31 0 ≤ 1000000 ∧ 10 ≤ bits (w 2) 63 32 ∧ 3000 ≤ bits (w 2) 31 0)) ∧
    meets (lab .armed) 0x210 3 [3000, 0, 110000] (fun _ w => decide (bits (w 2) 63 32 = 0 ∧ bits (w 2) 31 0 ≤ 110000)) ∧
    meets (lab .standby) 0x211 1 [7] ∧ meets (lab .faultHalt) 0x212 0 [] := by decide +kernel

theorem test_hyps_GovernorActs :
    (let s := { lab .running with budget := { ({} : Budget) with leaseMs := 10 }, time := { ({} : Time) with counter := 10 * cycMs } };
      s.governs ∧ s.budget.leaseMs ≠ 0 ∧ s.budget.leaseExpired = false ∧
        s.budget.leaseFrom + s.budget.leaseMs * cycMs ≤ s.time.counter) ∧
    (lab .standby).budget.thermal = .normal ∧ 760 ≤ (760 : BitVec 16).toInt ∧ (760 : BitVec 16).toInt < 840 ∧
    736 < (816 : BitVec 16).toInt ∧ 840 ≤ (840 : BitVec 16).toInt ∧ (736 : BitVec 16).toInt ≤ 736 ∧
    (let s := with1 (ready 15 15) []; s.tiles.groups[(15 : Fin 16)].gated ∧ s.dev.state ≠ .fog ∧ s.keepsGroup 15 (ready 15 15)) ∧
    (let s := { lab .running with time := { ({} : Time) with line := ms48 } }; s.governs ∧ s.time.line / ms48 ≠ s.budget.windowMs) := by
  decide +kernel

theorem test_hyps_PortsGiveUnitsAndFrames :
    (let s := withEntry 63 (entry1 0xC000000000000000 1 0); (s.entry 63).state = .active ∧ (s.queue (s.entry 63).queue).depthCode ≠ 0 ∧
      s.stbUsers 0 = [63] ∧ (s.entry 63).cls = 4 ∧ bit (s.entry 63).w4 0 = true) ∧
    (let s := withEntry 0 (entry1 0xB000000000000000 0 0); let t := { s with ll := { s.ll with spi := put s.ll.spi 0 (some (0, {}, false)) } };
      t.ll.spi[(0 : Fin 4)] = some (0, {}, false) ∧ (t.entry 0).clockSrc = 0 ∧ (t.entry 0).state = .active) ∧
    (let s := withEntry 5 (entry1 0xA000000000000000 (0x7FF * 2 ^ 32 + 0x123) 0) .fog;
      s.delivers 2 ∧ (s.canPort 0).busOff = false ∧ (s.entriesFor 2 0).head? = some 5 ∧ bit (s.entry 5).w4 63 = false ∧
      (0x123 &&& bits (s.entry 5).w4 60 32) = (bits (s.entry 5).w4 28 0 &&& bits (s.entry 5).w4 60 32)) ∧
    (let s := withEntry 2 { entry1 0x8B00000000000000 (3 * 2 ^ 58 + 0x10001000) 16 with frame := some frame1 };
      s.delivers 0 ∧ s.csiEntry 11 3 = some 2 ∧ (s.entry 2).frame = some frame1 ∧ csiWritten 0x37 = true ∧ frame1.stopped = false ∧
        [(1 : Byte)].length ≤ bits (s.entry 2).w5 31 0 - frame1.bytes ∧
        fine ((writeM (bits (s.entry 2).w4 47 0 + frame1.buf * bits (s.entry 2).w5 31 0 + frame1.bytes) [(1 : Byte)]).go s)) ∧
    (let s := withEntry 2 (entry1 0x8B00000000000000 0 0); s.delivers 0 ∧ s.csiEntry 11 0 = some 2 ∧ (s.entry 2).frame = none) := by
  decide +kernel

/-- A camera linked to strobe input 2, its period 50,000 ns, with a pulse held there. -/
def camera : State :=
  let s := withEntry 2 (entry1 (0x8B00000000000000 + 2 ^ 49 + 2 * 2 ^ 44 + 50000) 0 16)
  { s with ll := { s.ll with stb := put s.ll.stb 2 [{ rising := true, at_ := { t := -8, flags := 0 } }, { rising := false, at_ := { t := -4, flags := 0 } }] } }

/-- The premises of PortsGiveUnits on strobe inputs and of CameraFrames. -/
theorem test_hyps_strobes :
    camera.delivers 0 ∧ camera.csiEntry 11 0 = some 2 ∧ (camera.entry 2).linkEn ∧ camera.pairsOn 2 2 ∧ camera.stbUsers 2 = [2] ∧
    lastPulse (camera.capture 0).t none none (at_ camera.ll.stb 2 []) =
      some ({ rising := true, at_ := { t := -8, flags := 0 } }, { rising := false, at_ := { t := -4, flags := 0 } }) ∧
    (camera.capture 0).t - (-4) ≤ (camera.entry 2).periodNs * 65536 ∧
    (let s := withEntry 3 (entry1 (0xB000000000000000 + 2 ^ 49 + 15 * 2 ^ 44) 0 0); s.stbUsers 15 = [3] ∧ (s.entry 3).cls = 3) ∧
    (let s := withEntry 3 (entry1 0x8B00000000000000 0 0); s.pairsOn (s.entry 3).linkStb 3 = false ∧ (s.entry 3).linkEn = false) ∧
    (lab .running).stbUsers 4 = [] ∧ (lab .dark).delivers 0 = false ∧ csiWritten 0x10 = false := by decide +kernel

/-- The midpoint of a pulse held before the stamp is the time of the frame's unit, and the edges before the stamp are gone (R90). -/
theorem test_midpoint : after (.csiFrameStart 11 0 0) camera (fun t =>
    (at_ t.ll.stb 2 []).isEmpty && (t.entry 2).frame.isSome && t.free == 1) = true := by decide +kernel

/-- Error frames on CAN: the queue of frames to send is empty at the start, and bus-off is reported and ends (R103). -/
theorem test_bus_off : after (.canBusOff 1) (lab .running) (fun t => (t.canPort 1).busOff) = true ∧
    after (.canBusOffRecovery 1) ((lab .running).setCan 1 { ({} : CanPort) with busOff := true }) (fun t => !(t.canPort 1).busOff) = true := by
  decide +kernel

/-- The premises of the forms of CHAR_LOAD, CHAR_START, BUDGET_SET and LIST_SUBMIT that are turned away, and of a start in RUNNING. -/
theorem test_hyps_launchRefusals :
    meets (lab .armed) 0x200 2 [1000, 0x10000000] (fun _ w => decide (bits (w 0) 42 32 < 1)) ∧
    meets (lab .armed) 0x200 2 [2 ^ 32 + 1000001, 0] (fun _ w => decide (1000000 < bits (w 0) 19 0)) ∧
    meets (lab .armed) 0x200 2 [2 ^ 32 + 1000, 0x10000008] (fun _ w => decide (bits (w 1) 47 0 % 16 ≠ 0)) ∧
    meets (withChar (char1 .pending)) 0x200 2 [2 ^ 32 + 1000, 0x10000000] (fun t _ => (t.char 0).state = .pending) ∧
    meets (poke (lab .armed) 0 [0x5020000000000000, 0]) 0x200 2 [2 ^ 32 + 1000, 0x10000000] (fun t w =>
      match ((t.begun 0).keeperRead (bits (w 1) 47 0) 16 .ls).1 with
      | some bs => !tableOk 1000 [(wAt (bytesWords 2 bs) 0, wAt (bytesWords 2 bs) 1)]
      | none => false) ∧
    meets (withChar (char1 .loaded)) 0x201 3 [0, 5, 1000000000] (fun _ w => decide (1000000000 ≤ bits (w 2) 31 0)) ∧
    meets (lab .armed) 0x201 3 [0, 0, 0] (fun t _ => decide ((t.char 0).state ≠ .loaded)) ∧
    (let c := { char1 .pending with start := -1 }; (withChar c).char 0 = c ∧ (withChar c).time.line = 0 ∧ c.start < 50 * us48 ∧ c.periodUs ≠ 0) ∧
    meets (lab .armed) 0x010 2 [0x2023000000000000, 0] (fun _ w => decide (eKind (w 0, w 1) ≠ 1)) ∧
    meets (lab .armed) 0x010 2 [0x1423000000000000, 1] (fun _ w => decide (bits (w 1) 47 0 % 32 ≠ 0)) ∧
    meets (lab .armed) 0x210 3 [2999, 0, 3000] (fun _ w => decide (bits (w 0) 31 0 < 3000)) ∧
    meets (lab .armed) 0x210 3 [3000, 1000001, 3000] (fun _ w => decide (1000000 < bits (w 1) 31 0)) ∧
    meets (lab .armed) 0x210 3 [3000, 0, 9 * 2 ^ 32 + 3000] (fun _ w => decide (bits (w 2) 63 32 = 9)) := by decide +kernel

/-- A period of one entry ends, its slot not handled: of a kind that the stop waits for, and of one that it does not. -/
def late1 (w0 : Nat) (stop : Bool) : State :=
  { withChar { char1 .running w0 with stopAtEnd := stop, left := [(0, -5)] } with time := { ({} : Time) with line := ms48 } }

theorem test_hyps_periods :
    (let s := late1 0x1020000000000000 false; let c := s.char 0; s.keeperUp ∧ s.dev.state = .running ∧ c.stopAtEnd = false ∧
      c.periodStart + c.period48 ≤ s.time.line ∧ c.left.any (·.1 == 0) = true ∧ c.passed 0 = false ∧ 0 < c.table.length) ∧
    (let s := late1 0x1020000000000000 true; let c := s.char 0; c.waits 0 = true ∧ s.keeperUp ∧ c.periodStart + c.period48 ≤ s.time.line ∧
      ∀ e < c.table.length, c.waits e = true → s.slotReady 0 e = false ∨ eKind (c.entry e) = 1) ∧
    (let s := late1 0x2000000000000000 true; (s.char 0).waits 0 = true ∧ eKind ((s.char 0).entry 0) = 2) ∧
    after (.charPeriodBegun 0) (late1 0x1020000000000000 false) (fun t => (t.char 0).left == [(0, -5), (0, 0)] && (t.char 0).periods == 1) ∧
    (lab .dark).keeperUp = false ∧ (withChar (char1 .loaded)).slotDue 0 0 1 = false := by decide +kernel

/-- An ELASTIC launch that never started makes way for its entry's next slot (R70). -/
def elastic : State :=
  { withChar (char1 .running 0x1C20000000000000) with
    dev := { (lab .running).dev with launches := [{ launchAt 0x20 16 with char := 0, cls := 3, issued := false, runs := [] }] } }

theorem test_hyps_slots :
    (elastic.slotDue 0 0 1 = true ∧ elastic.dev.launches.find? (fun m => m.char == 0 && m.entry == 0) = elastic.dev.launches.head? ∧
      elastic.dev.launches.all (fun m => decide (2 ≤ m.cls) && !m.inFlight)) ∧
    after (.slotDueList 0 0) elastic (fun t => (t.char 0).withheld == 1 && t.dev.launches.length == 1 && t.dev.launches.all (·.cls == 3)) ∧
    (let s := withChar (char1 .running 0x4C00000000000000); let l := { ready 0x20 16 .waiting false with order := 0, slotAt := -1 };
      let t := { s with dev := { s.dev with launches := [l] } };
      t.slotDue 0 0 4 ∧ l ∈ t.dev.launches ∧ t.mayIssue l ∧ l.slotKey < t.slotKey 0 0) ∧
    (let s := { lab .running with pins := { ({} : Pins) with falls := #v[some (1, 1), none, none, none, none, none, none, none] } };
      s.pins.falls[(0 : Fin 8)] = some (1, 1) ∧ s.time.line < 1 ∧ s.pins.falls[(1 : Fin 8)] = none) ∧
    (let s := { lab .running with pm := { ({} : Pm) with overrunAt := some 0 } }; s.pm.overrunAt = some (s.time.counter / 4) ∧
      s.pm.missedAt ≠ some (s.time.counter / 4)) := by decide +kernel

theorem test_hyps_launchHolds :
    (let s := with1 (ready 0x20 16 .waiting false) []; (firstOf (s.dev.launches.filter s.mayIssue)).isSome ∧
      { s with dev := { s.dev with issuedIn := some 0 } }.dev.issuedIn = some (s.time.counter / 4) ∧
      { s with time := { s.time with line := ms48 } }.windowPending ∧ s.windowPending = false ∧ s.dueKeys = []) ∧
    (let l := ready 3 3 .waiting false; let s := { with1 l [] with faults := { ({} : Faults) with tileIn := 0 } };
      s.inService 3 3 = false ∧ (s.runsOf l).all (fun r => r.status = .done) = true) ∧
    (let s := { with1 (ready 0x21 16) [] with calib := { ({} : Calib) with quiet := true } }; s.runningAt 0x21 16 = none ∧ s.inService 0x21 16 ∧
      (s.nextAt 0x21 16).isSome ∧ s.dev.state = .running ∧ s.calib.quiet) ∧
    (let s := { with1 { ready 0x21 16 with ego := true } [] with faults := { ({} : Faults) with keeperDead := true } };
      s.keeperUp = false ∧ (s.nextAt 0x21 16).isSome) ∧
    (let s := { with1 (ready 15 15) [] with tiles := { ({} : Tiles) with groups := Vector.replicate 16 { gated := true } } };
      s.governs ∧ s.keepsGroup 15 (ready 15 15)) ∧
    (let s := withChar { char1 .running 0x100F000000000000 with periodStart := ms48, next := 0 };
      s.dev.state ≠ .fog ∧ s.slotAhead 15 ((s.budget.windowMs + 2) * ms48)) := by decide +kernel

/-- The premises of PortsGiveUnits on units that are not taken, and on frames that no entry accepts; of CameraFrames on a rise
that waits for its fall, and on a frame whose writes have stopped. -/
theorem test_hyps_ports :
    (let s := withEntry 5 { entry1 0xA000000000000000 0 0 with state := .absent }; (s.entry 5).enabled ∧ (s.entry 5).clockSrc = 0) ∧
    (let s := withEntry 5 { entry1 0xA000000000000000 0 0 with state := .masked, cause := 5 }; (s.entry 5).state = .masked) ∧
    (let s := { lab .running with ll := { (lab .running).ll with spi := put (lab .running).ll.spi 2 none } }; s.ll.spi[(2 : Fin 4)] = none) ∧
    (let s := lab .running; s.delivers 2 ∧ ((s.entriesFor 2 0).find? (fun j => (s.entry j).takesCan { ide := false, fdf := false, brs := false, id := 1, data := [], rtr := false })) = none) ∧
    (let s := withEntry 3 (entry1 (0xB000000000000000 + 2 ^ 49 + 15 * 2 ^ 44) 0 0); s.stbUsers 15 = [3] ∧ (s.entry 3).cls = 3) ∧
    (let s := withEntry 3 (entry1 0xC000000000000000 1 0); s.stbUsers 0 = [3] ∧ (s.entry 3).cls = 4 ∧ bit (s.entry 3).w4 1 = false) ∧
    (let r : Edge := { rising := true, at_ := { t := -8, flags := 0 } }; let f : Edge := { rising := false, at_ := { t := 4, flags := 0 } };
      leftEdges 0 [r, f] = [r, f] ∧ leftEdges 5 [r, f] = []) ∧
    (let s := withEntry 2 { entry1 0x8B00000000000000 (3 * 2 ^ 58 + 0x10001000) 0 with frame := some { frame1 with stopped := true } };
      s.csiEntry 11 3 = some 2 ∧ csiWritten 0x37 = true ∧ (s.entry 2).frame = some { frame1 with stopped := true }) ∧
    (let s := withEntry 2 { entry1 0x8B00000000000000 (3 * 2 ^ 58 + 0x20000000) 16 with frame := some frame1 };
      !fine ((withRegions frame1.regions (writeM (bits (s.entry 2).w4 47 0) [(1 : Byte)])).go s.outsideLaunch)) := by decide +kernel

/-- An Ethernet frame to the MAC address 1 with a UDP datagram of 18 bytes to port 4660, no UDP checksum. -/
def udpFrame : List Byte :=
  [0, 0, 0, 0, 0, 1, 0, 0, 0, 0, 0, 2, 0x08, 0, 0x45, 0, 0, 0x2E, 0, 0, 0, 0, 0x40, 17, 0x7A, 0xC0, 0, 0, 0, 0, 0, 0, 0, 0] ++
  [0, 1, 0x12, 0x34, 0, 26, 0, 0] ++ List.replicate 18 0
/-- An ARP request for the address 10.0.0.1. -/
def arpFrame : List Byte :=
  List.replicate 6 0xFF ++ [0, 0, 0, 0, 0, 2, 0x08, 0x06, 0, 1, 8, 0, 6, 4, 0, 1, 0, 0, 0, 0, 0, 2, 10, 0, 0, 2] ++
  [0, 0, 0, 0, 0, 0, 10, 0, 0, 1] ++ List.replicate 18 0
def net (w0 : Nat) : State :=
  let s := withEntry 1 (entry1 w0 0 0)
  { s with ll := { s.ll with
    eth := Vector.replicate 4 { mac := 1, ipv4 := 0x0A000001 }
    templates := Vector.replicate 16 { w := #v[0x1234000000000000, 0, 0x100000000, 0x40000000000000, 0xFF00000, 0, 0] } } }

theorem test_hyps_NetworkPorts :
    (let s := net 0x9000000000000000; let p := (List.replicate 18 (0 : Byte));
      s.portsUp ∧ s.delivers 1 ∧ 60 ≤ udpFrame.length ∧ be (untag udpFrame) 0 6 = (at_ s.ll.eth 0 {}).mac.toNat ∧
      be (untag udpFrame) 0 6 ≠ 0xFFFFFFFFFFFF ∧ arpReply 1 0x0A000001 (untag udpFrame) = none ∧
      udpOf (untag udpFrame) = some (0, 4660, p) ∧
      ((s.entriesFor 1 0).find? fun i => (s.template (s.entry i).template).matches_ 0 4660 p) = some 1 ∧
      (s.template (s.entry 1).template).need ≤ p.length ∧
      (((net 0).entriesFor 1 0).find? fun i => ((net 0).template ((net 0).entry i).template).matches_ 0 4660 p) = none) ∧
    (be (untag arpFrame) 0 6 = 0xFFFFFFFFFFFF ∧ 60 ≤ arpFrame.length ∧ (arpReply 1 0x0A000001 (untag arpFrame)).isSome) ∧
    (at_ (net 0).ll.eth 3 {}).up = false ∧
    (let s := (lab .fog).setCan 1 { ({} : CanPort) with sync := BitVec.ofNat 64 (100 * 2 ^ 48), queued := true, crossed := -1 };
      s.delivers 2 ∧ bits (s.canPort 1).sync 63 48 ≠ 0 ∧ s.syncMark (bits (s.canPort 1).sync 63 48) ≠ (s.canPort 1).crossed ∧
        (s.canPort 1).queued ∧ (s.canPort 1).busOff = false) := by decide +kernel

theorem test_hyps_LightListMessages :
    meets (lab .armed) 0x300 7 [63, 0xC000004000000000, 0x101011000000000 + 0x10400, 0, 0, 1, 0]
      (fun t w => (entryChecks t fun k => w (k + 1)).all (·.2)) = false ∧
    meets (lab .armed) 0x300 7 [63, 0xC000004000000000, 0x101010400, 0, 0, 1, 0]
      (fun t w => (entryChecks t fun k => w (k + 1)).all (·.2)) ∧
    meets (lab .fog) 0x301 1 [63] ∧ meets (lab .faultHalt) 0x302 1 [0] ∧
    meets (withEntry 63 (entry1 0xC000000000000000 1 0)) 0x303 1 [63] (fun t _ => (t.entry 63).state = .active) ∧
    meets (lab .armed) 0x303 1 [0] (fun t _ => (t.entry 0).state ≠ .active) ∧
    meets (withEntry 7 { entry1 0 0 0 with state := .masked, cause := 5 } .fog) 0x304 1 [7] (fun t _ => (t.entry 7).state = .masked) ∧
    (let s := { withEntry 9 (entry1 0xC000000000000001 1 0) with time := { ({} : Time) with counter := 1280 } };
      (s.entry 9).periodNs ≠ 0 ∧ (s.entry 9).enabled ∧ (s.entry 9).state = .active ∧
        bits (s.entry 9).w1 31 24 * (s.entry 9).periodNs * 1280 ≤ (s.time.counter - (s.entry 9).lastUnitAt) * 1000) := by
  decide +kernel

theorem test_hyps_PortAndQueueSettings :
    (let ok := fun (w : Nat → Word) => decide (bits (w 3) 47 44 ≤ 4 ∧ 1 ≤ bits (w 3) 39 32 ∧ bits (w 3) 39 32 ≤ 32 ∧ bits (w 4) 63 54 ≠ 0 ∧
        1 ≤ bits (w 4) 15 8 ∧ bits (w 4) 15 8 ≤ 128 ∧ bits (w 5) 55 54 ≠ 3);
      meets (lab .standby) 0x310 8 [15, 0, 0, 0x402000000000, 0x40000000008000, 0, 0, 0] (fun _ w => ok w ∧ bits (w 7) 47 0 = 0) ∧
      meets (lab .armed) 0x310 8 [0, 0, 0, 0x100000000, 0x40000000000100, 0, 0, 0x10FFFF00] (fun t w => ok w ∧ bits (w 7) 47 0 ≠ 0 ∧
        ((t.begun 0).keeperRead (bits (w 7) 47 0) 256).1.isSome)) ∧
    meets (lab .standby) 0x320 3 [3, 2 ^ 40 - 1, 5] (fun _ w => bit (w 1) 40 = false) ∧
    meets (lab .standby) 0x321 4 [1, 1000 * 2 ^ 48 + 8000 * 2 ^ 32 + 800 * 2 ^ 22 + 800 * 2 ^ 12, 50000 * 2 ^ 48 + 8 * 2 ^ 40, 0] (fun _ w =>
      decide (bits (w 1) 63 48 ≤ 1000 ∧ bits (w 1) 47 32 ≤ 8000 ∧ 500 ≤ bits (w 1) 31 22 ∧ bits (w 1) 31 22 ≤ 900 ∧
        500 ≤ bits (w 1) 21 12 ∧ bits (w 1) 21 12 ≤ 900 ∧ bits (w 2) 63 48 ≤ 50000 ∧ bits (w 2) 47 40 ≤ 8) &&
      canTiming (bits (w 1) 63 48) (bits (w 1) 31 22) && canTiming (bits (w 1) 47 32) (bits (w 1) 21 12)) ∧
    meets (lab .standby) 0x330 4 [0xBB, 0, 0, 0] (fun _ w => decide ((∀ q : Fin 64,
      bits (w (q.val / 16)) (4 * (q.val % 16) + 3) (4 * (q.val % 16)) ≤ 11) ∧
      (List.range 64).foldl (fun a q => a + codeWords (bits (w (q / 16)) (4 * (q % 16) + 3) (4 * (q % 16)))) 0 = 131072)) ∧
    meets (lab .standby) 0x330 4 [0x1BB, 0, 0, 0] (fun _ w => decide (
      131072 < (List.range 64).foldl (fun a q => a + codeWords (bits (w (q / 16)) (4 * (q % 16) + 3) (4 * (q % 16)))) 0)) ∧
    meets (withEntry 0 {} .armed) 0x331 4 [63, 65535 * 2 ^ 32 + 65534, 0, 0] (fun t w => decide ((t.queue 63).depthCode ≠ 0 ∧
      1 ≤ bits (w 1) 63 32 ∧ bits (w 1) 63 32 ≤ (t.queue 63).depth - 1 ∧ bits (w 1) 31 0 < bits (w 1) 63 32)) ∧
    meets (lab .fog) 0x332 1 [63] (fun t _ => (t.queue 63).ptrMismatch = false) := by decide +kernel

/-- The premises of QueueTakesAWord, EmptyQueueReadsNotValid and QueueRegisters. -/
theorem test_hyps_queues :
    (let s := withEntry 0 {}; (s.queue 63).ptrMismatch = false ∧ (s.queue 63).armed = false ∧
      (at_ (s.queue 63).rings 3 {}).words.length + 2 ≤ (s.queue 63).ringDepth ∧ (s.queue 63).first = none ∧
      (s.queue 63).depthCode ≠ 0 ∧ ∀ i < 4, (at_ (s.queue 63).rings i {}).words = []) ∧
    (let s := (lab .running).setQueue 5 { ({} : Queue) with rings := #v[{}, { words := [9] }, {}, {}] };
      (s.queue 5).first = some 1 ∧ (at_ (s.queue 5).rings 1 {}).words = [9] ∧ (at_ (s.queue 5).rings 1 {}).ue.contains 0 = false ∧
        (s.queue 5).armed = false ∧ tagOf 9 ≠ 2 ∧ tagOf 0x2000000000000000 = 2) ∧
    (let s := (lab .running).setQueue 5 { ({} : Queue) with rings := #v[{}, { words := [9], ue := [0] }, {}, {}] };
      (s.queue 5).first = some 1 ∧ (at_ (s.queue 5).rings 1 {}).ue.contains 0) ∧
    ((lab .running).setQueue 5 { ({} : Queue) with armed := true }).queue 5 = { ({} : Queue) with armed := true } := by decide +kernel

/-- The premises of TileStateCommands, BarriersWaitForAllGroups and EndCompletesTheRun. -/
theorem test_hyps_tiles :
    (∀ op ∈ [2, 8, 9, 10], stands (with1 (launchAt 15 15) (op1 op)) 15 15 32 op (fun l _ _ => decide (l.cls < 4 ∧ l.target ≠ 0x10)) = true) ∧
    stands (with1 (launchAt 15 15) (op1 0)) 15 15 32 0 (fun l _ _ => tileNopOp 0 && decide (l.cls < 4)) ∧
    (∀ st ∈ [RunStatus.done, .running],
      let r : Run := { group := 0, pc := 0x10000000, status := .running, started := true }
      let l := { launchAt 16 0 with runs := [r, { group := 1, pc := 0x10000020, status := st, started := true }] }
      stands (with1 l (op1 2)) 0 0 32 2 (fun l _ _ => l.target = 0x10 ∧ l.runs.find? (·.group = 0) = some r ∧
        (∀ q ∈ l.runs, q.group = 0 → q = r) ∧
        ((∀ q ∈ l.runs, q.group ≠ 0 → q.status = .done ∨ r.arrive.barriers ≤ q.barriers) ↔ st = .done)) = true) ∧
    (∀ p ∈ [(15, 15, 32), (0x22, 16, 128), (0x20, 16, 128), (0x21, 16, 128), (0x23, 16, 128)],
      stands (with1 (launchAt p.1 p.2.1) (op1 1)) p.1 p.2.1 p.2.2 1 (fun l _ _ =>
        (with1 (launchAt p.1 p.2.1) (op1 1)).launchOf l.id = some l ∧ ∀ r ∈ l.runs, r.group = p.2.1 ∨ r.status = .done) = true) ∧
    (let l := { launchAt 16 0 with runs := (launchAt 16 0).runs ++ [{ group := 1, pc := 0x10000020, status := .running, started := true }] };
      stands (with1 l (op1 1)) 0 0 32 1 (fun l _ _ => ∃ r ∈ l.runs, r.group ≠ 0 ∧ r.status ≠ .done)) := by decide +kernel

theorem test_hyps_TileRegisterCommands :
    (∀ va ∈ [0x10000100, 0x20000000], stands (with1 (launchAt 3 3) (op1 4 0 [va, 77])) 3 3 32 4 (fun _ ws t =>
      match t.translate (bits (wAt ws 1) 47 2 * 4) .wr with
      | .ok da => va == 0x10000100 && place t.boot.otp.part128 da == .near &&
          fine ((writeM (bits (wAt ws 1) 47 2 * 4) (leBytes 4 (bits (wAt ws 2) 31 0))).go t)
      | .error _ => va == 0x20000000) = true) ∧
    stands (with1 (launchAt 3 3) (op1 5 0 [0x10000100, 0x10000200])) 3 3 32 5 (fun _ ws t =>
      match (readM (bits (wAt ws 1) 47 2 * 4) 4).go t with
      | (.ok bs, u) => (match t.translate (bits (wAt ws 1) 47 2 * 4) .rd with | .ok _ => true | .error _ => false) &&
          fine ((writeM (bits (wAt ws 2) 47 2 * 4) (leBytes 4 (leNat bs))).go u)
      | _ => false) ∧
    place false 0x5000000000 = .regs := by decide +kernel

/-- A tile group whose state sets are of shape 1 x 1 x 1. -/
def tiles1 : Tiles := { ({} : Tiles) with groups := Vector.replicate 16 { gated := false, sets := Vector.replicate 4 { m := 1, n := 1, k := 1 } } }
/-- MATMUL of INT8 elements to FP32: A at +0x100, B at +0x200, C at an address. -/
def mat1 (c : Nat) : State :=
  { with1 (launchAt 3 3) (op1 0x10 (2 * 2 ^ 52 + 2 * 2 ^ 48 + 8 * 2 ^ 44) [2 ^ 48 + 0x10000100, 2 ^ 48 + 0x10000200, 2 ^ 48 + c])
      (poke (poke (lab .running) 0x100 [0x03]) 0x200 [0xFE]) with tiles := tiles1 }

/-- VECTOR ADD of the same two elements to FP32. -/
def vec1 (z : Nat) : State :=
  { with1 (launchAt 3 3) (op1 0x20 (2 * 2 ^ 46 + 2 * 2 ^ 42 + 8 * 2 ^ 38) [2 ^ 48 + 0x10000100, 2 ^ 48 + 0x10000200, 2 ^ 48 + z])
      (poke (poke (lab .running) 0x100 [0x03]) 0x200 [0xFE]) with tiles := tiles1 }

/-- MATMUL and VECTOR with an output they can write, with one they cannot, and with an empty shape. -/
theorem test_hyps_TileArithmetic :
    stands (vec1 0x10000300) 3 3 32 0x20 (fun l ws t => t.ready 3 && (t.tileSet 3 l.cls).m == 1 &&
      (bodyVector 3 l (l.pcOf 3 3) ws t).1 == .next) ∧
    stands (vec1 0x20000000) 3 3 32 0x20 (fun l ws t => (bodyVector 3 l (l.pcOf 3 3) ws t).1 == .fault 0) ∧
    stands (with1 (launchAt 3 3) (op1 0x20)) 3 3 32 0x20 (fun l _ t => t.ready 3 && (t.tileSet 3 l.cls).m == 0) ∧
    stands (with1 (launchAt 3 3) (op1 0x10)) 3 3 32 0x10 (fun l _ t => t.ready 3 && (t.tileSet 3 l.cls).m == 0) ∧
    stands (mat1 0x10000300) 3 3 32 0x10 (fun l ws t => t.ready 3 &&
      (bodyMatmul 3 l (l.pcOf 3 3) ws t).1 == .next) ∧
    stands (mat1 0x20000000) 3 3 32 0x10 (fun l ws t => (bodyMatmul 3 l (l.pcOf 3 3) ws t).1 == .fault 0) := by decide +kernel

/-- INT8 3 times -2 is FP32 -6.0, and the list goes on 32 bytes behind (R142, R148, R149). -/
theorem test_matmul : after (.matmul 3) (mat1 0x10000300) (fun t => memBytes t.mem.cells 0x4000000300 4 == [0, 0, 0xC0, 0xC0] &&
      t.dev.launches.map (fun (l : Launch) => l.runs.map (fun (r : Run) => r.pc)) == [[0x10000020]]) = true := by decide +kernel

/-- FP32 1.0 is 3 and -2 added (R144, R154). -/
theorem test_vector : after (.vector 3) (vec1 0x10000300) (fun t => memBytes t.mem.cells 0x4000000300 4 == [0, 0, 0x80, 0x3F]) = true := by
  decide +kernel

/-- The premises of NetworkPorts on frames that are answered with nothing, and of the forms of the settings that are turned away. -/
theorem test_hyps_networkRefusals :
    (let f := untag (1 :: udpFrame.tail); be f 0 6 ≠ 0xFFFFFFFFFFFF ∧ be f 0 6 ≠ (at_ (net 0).ll.eth 0 {}).mac.toNat) ∧
    (let f := untag (List.replicate 6 0xFF ++ udpFrame.drop 6); be f 0 6 = 0xFFFFFFFFFFFF ∧ arpReply 1 0x0A000001 f = none) ∧
    (let f := untag (udpFrame.take 36 ++ [1, 63] ++ udpFrame.drop 38); udpOf f = some (0, 319, List.replicate 18 0)) ∧
    udpOf (untag (udpFrame.take 12 ++ [0x88, 0xF7] ++ udpFrame.drop 14)) = none ∧
    (let s := { net 0x9000000000000000 with ll := { (net 0x9000000000000000).ll with templates := Vector.replicate 16 { w := #v[0x1234000000000000, 0, 0x100000000, 0x40000000000100, 0xFF00000, 0, 0] } } };
      ((s.entriesFor 1 0).find? fun i => (s.template (s.entry i).template).matches_ 0 4660 (List.replicate 18 0)) = some 1) ∧
    (lab .dark).portsUp = false ∧
    meets (lab .standby) 0x310 8 [0, 0, 0, 5 * 2 ^ 44 + 2 ^ 32, 0x40000000000100, 0, 0, 0] (fun _ w => decide (4 < bits (w 3) 47 44)) ∧
    meets (lab .standby) 0x310 8 [0, 0, 0, 2 ^ 32, 0x100, 0, 0, 0] (fun _ w => decide (1 ≤ bits (w 3) 39 32 ∧ bits (w 4) 63 54 = 0)) ∧
    meets (lab .standby) 0x310 8 [0, 0, 0, 2 ^ 32, 0x40000000000100, 3 * 2 ^ 54, 0, 0] (fun _ w => decide (bits (w 5) 55 54 = 3)) ∧
    meets (lab .standby) 0x310 8 [0, 0, 0, 2 ^ 32, 0x40000000000100, 0, 0, 8] (fun t w =>
      ((t.begun 0).keeperRead (bits (w 7) 47 0) 256).1.isNone) ∧
    meets (lab .standby) 0x320 3 [0, 2 ^ 40, 0] (fun _ w => bit (w 1) 40 = true) ∧
    meets (lab .standby) 0x321 4 [1, 124 * 2 ^ 48, 0, 0] (fun _ w => decide (bits (w 1) 63 48 < 125)) ∧
    meets (lab .standby) 0x321 4 [1, 1000 * 2 ^ 48 + 8000 * 2 ^ 32 + 800 * 2 ^ 22 + 800 * 2 ^ 12, 99 * 2 ^ 48, 0] (fun _ w =>
      decide (bits (w 2) 63 48 = 99)) ∧
    meets (lab .standby) 0x330 4 [0, 0xC0, 0, 0] (fun _ w => decide (11 < bits (w 1) 7 4 ∧ ∀ r : Fin 17,
      bits (w (r.val / 16)) (4 * (r.val % 16) + 3) (4 * (r.val % 16)) ≤ 11)) ∧
    meets (lab .standby) 0x331 4 [9, 2 ^ 32, 0, 0] (fun t _ => (t.queue 9).depthCode = 0) ∧
    meets (withEntry 0 {} .armed) 0x331 4 [63, 5 * 2 ^ 32 + 5, 0, 0] (fun t w => decide ((t.queue 63).depthCode ≠ 0 ∧
      bits (w 1) 63 32 ≤ bits (w 1) 31 0)) := by decide +kernel

/-- The premises of QueueTakesAWord and QueueRegisters on words that come, on rings without room, and on pointers that an error has
struck. -/
theorem test_hyps_queueForms :
    (let s := withEntry 0 {}; let u := s.writeUnit 3 0 [7, 9]; (u.queue 3).coming.map (·.first) = [true, false] ∧
      (u.queue 3).wroteTo ≤ u.cycle ∧ (u.queue 3).depthCode ≠ 0 ∧ ((u.writeDue 3).queue 3).occupancy = 1 ∧
      ((u.writeDue 3).queue 3).coming.length = 1 ∧ (u.writeDue 3).cycle < ((u.writeDue 3).queue 3).wroteTo) ∧
    (let s := (lab .running).setQueue 3 { ({} : Queue) with coming := [{ entry := 0, first := true, word := 7 }] };
      (s.queue 3).coming.length = 1 ∧ (s.queue 3).depthCode = 0) ∧
    (let s := (lab .running).setQueue 3 { ({} : Queue) with depthCode := 1, rings := put (Vector.replicate 4 ({} : Ring)) 0 { words := List.replicate 63 7 } };
      (s.queue 3).ringDepth < (at_ (s.queue 3).rings 0 {}).words.length + 2 ∧ (s.queue 3).armed = false ∧
        (at_ (s.queue 3).rings 0 {}).gapOpen = false ∧ ((s.writeWord 3 0 0 false 9).2.queue 3).dropped = 1 ∧
        (at_ ((s.writeWord 3 0 0 false 9).2.queue 3).rings 0 {}).gapOpen) ∧
    (let s := (lab .running).setQueue 3 { ({} : Queue) with depthCode := 1, armed := true };
      (s.queue 3).armed ∧ tagOf 0x1000000000000000 ≠ 2 ∧ s.readFree 3 ∧ (s.writeWord 3 0 0 false 0x1000000000000000).1 = false) ∧
    (let s := (lab .running).setQueue 3 { ({} : Queue) with depthCode := 1, readTo := 1 }; s.readFree 3 = false) ∧
    (let s := (lab .running).setQueue 3 { ({} : Queue) with depthCode := 1 }; (s.queue 3).ptrMismatch = false ∧
      after (.iqPop ⟨3, some 3⟩) s (fun t => (t.queue 3).integrity == 1 && (t.queue 3).readTo == 5 && (t.queue 3).occupancy == 0) = true) := by decide +kernel

/-- Groups that are powered, with a shape of 8 rows. -/
def awake (s : State) : State :=
  { s with tiles := { ({} : Tiles) with groups := Vector.replicate 16 { gated := false, sets := Vector.replicate 4 { m := 8 } } } }

theorem test_hyps_TilesFailAndAreTested :
    (let s := awake { lab .running with time := { ({} : Time) with counter := cycSec } };
      s.works 63 ∧ s.faults.tileSpareGone.getLsbD (63 / 16) = false ∧ s.faults.tileSubst.getLsbD 63 = false ∧
      s.testable (.tile 63) ∧ s.testable (.lane 15) ∧ s.testable (.lane 16) ∧ s.runningAt (63 / 4) (63 / 4) = none ∧
      s.runningAt 0x21 16 = none ∧ s.faults.laneSpareGone = false ∧ s.dealsWork 63 = false ∧ s.keeperUp ∧
      s.tested (.tile 63) + cycSec ≤ s.time.counter ∧ s.tested (.lane 16) + cycSec ≤ s.time.counter) ∧
    (let s := { lab .running with faults := { ({} : Faults) with tileSpareGone := 1, tileIn := 1 } };
      s.works 0 ∧ s.faults.tileSpareGone.getLsbD (0 / 16) ∧ s.works 1 = false ∧ s.testable (.tile 1) = false ∧
      (({ s with faults := { s.faults with tileIn := 0 } } : State).log 0x02 2 0 0 0 0).inService 0 0 = false) ∧
    (lab .fog).testable (.lane 3) = false ∧
    (let s := awake (with1 (launchAt 0x21 16) (op1 0)); s.testable (.lane 3) ∧ s.runningAt 0x21 16 ≠ none) ∧
    (let s := awake (with1 (launchAt 3 3) (op1 0x20));
      s.testable (.tile 12) ∧ s.dealsWork 12 ∧ s.testable (.tile 13) ∧ s.dealsWork 13 = false ∧
        (s.runningAt 3 3).isSome) := by decide +kernel

/-- A MOVE of the launch that waits for another device. -/
def held1 : MoveRun := { launch := 7, va := 0x10000000, desc := [], unit := 0, got := [], asked := true, writing := false, regions := [] }

/-- A MOVE of two 4-byte units from an address to +0x200, with a destination stride. -/
def move1 (src stride : Nat) : State :=
  poke (with1 (launchAt 0x22 16) (op1 0x40 (2 * 2 ^ 53 + 2 ^ 44) [src, 0x10000200, 0, 0, 0, 4 * 2 ^ 24 + 2, stride * 2 ^ 24 + 2, 0, 0, 0, 0, 0, 0, 0, 0]))
    0x100 [0x1122334455667788]

theorem test_hyps_LayoutCommands :
    stands (with1 (launchAt 0x22 16) (op1 0)) 0x22 16 128 0 (fun _ _ _ => xeNopOp 0) ∧
    stands (move1 0x10000101 4) 0x22 16 128 0x40 (fun _ ws t => t.layout.move = none ∧ (moveJob ws).alignOk = false) ∧
    stands (move1 0x10000100 0) 0x22 16 128 0x40 (fun _ ws _ => (moveJob ws).alignOk ∧ (moveJob ws).strideOk = false) ∧
    stands (move1 0x10000100 4) 0x22 16 128 0x40 (fun l ws t => !t.moveWaits && (bodyMove l (l.pcOf 0x22 16) ws t).1 == .next) ∧
    stands (move1 0x20000000 4) 0x22 16 128 0x40 (fun l ws t => (bodyMove l (l.pcOf 0x22 16) ws t).1 == .fault 0) ∧
    stands (move1 0x10000100 4) 0x22 16 128 0x40 (fun _ ws t => let j := moveJob ws
      match (withRegions t.mem.regions (moveUnit j [] {} (j.units.headD []))).go t with
      | (.ok o, u) => !o.undef && o.far.isEmpty && (match u.splitWrites o.writes with
          | .ok (own, far) => far.isEmpty && fine ((withRegions t.mem.regions (writeHere own)).go u)
          | .error _ => false)
      | _ => false) ∧
    stands (with1 (launchAt 0x22 16) (op1 0) { lab .running with layout := { ({} : Layout) with move := some held1 } })
      0x22 16 128 0 (fun _ _ t => t.moveWaits) := by decide +kernel

theorem test_hyps_LayoutMessagesAndRegisters :
    meets (lab .standby) 0x640 3 [15 + 2 ^ 16 + 12 * 2 ^ 32, 0x1000, 0x10000000] (fun t w => decide (12 ≤ bits (w 0) 36 32 ∧
      bits (w 0) 36 32 ≤ 30 ∧ 1 ≤ bits (w 0) 28 16 ∧ bits (w 0) 28 16 ≤ 4096 ∧
      bits (w 1) 47 0 % 2 ^ bits (w 0) 36 32 = 0 ∧ bits (w 2) 47 0 % 8 = 0) && (t.layout.owners.toList.all fun o => o = none) &&
      ((t.begun 0).keeperRead (bits (w 2) 47 0) (8 * bits (w 0) 28 16)).1.isSome) ∧
    meets { lab .standby with layout := { ({} : Layout) with owners := put ({} : Layout).owners 2 (some { shift := 12, base := 0x1000, entries := [0] }) } }
      0x640 3 [15 + 2 ^ 16 + 12 * 2 ^ 32, 0x1000, 0x10000000] (fun t w => match at_ t.layout.owners 2 none with
        | some o => decide (bits (w 1) 47 0 < o.base + o.entries.length * 2 ^ o.shift ∧ o.base < bits (w 1) 47 0 + bits (w 0) 28 16 * 2 ^ bits (w 0) 36 32)
        | none => false) ∧
    meets (lab .armed) 0x641 1 [15] ∧ meets (lab .fog) 0x642 0 [] := by decide +kernel

/-- A MOVE copies its units in order and goes on 128 bytes behind (R162, R167). -/
theorem test_move : after .move (move1 0x10000100 4) (fun t =>
    memBytes t.mem.cells 0x4000000200 8 == [0x88, 0x77, 0x66, 0x55, 0x44, 0x33, 0x22, 0x11] &&
      t.dev.launches.map (fun (l : Launch) => l.runs.map (fun (r : Run) => r.pc)) == [[0x10000080]]) = true := by decide +kernel

/-- A chain port that is up, and a device with both. -/
def portUp1 : ChainPort := { ({} : ChainPort) with state := .up, lanes := 8 }
def chained (st : DevState := .running) : State :=
  { lab st with boot := { (lab st).boot with member := true }, chain := { ({} : Chain) with pos := some 1, ports := Vector.replicate 2 portUp1, enumerated := true, len := 3 } }

/-- A MOVE in progress that waits for two accesses. -/
def moving : State :=
  with1 (launchAt 0x22 16) [] { chained with
    time := { ({} : Time) with counter := 5 * cycMs }
    layout := { ({} : Layout) with
      move := some held1
      remote := [{ id := 3, since := 0, write := false, cell := 0, port := 1 }, { id := 4, since := 0, write := false, cell := 1, port := 1 }] } }

/-- The premises of TensorRequestsAreServed and TensorResponsesAreTaken. -/
theorem test_hyps_tensor :
    (let s := chained; let u := fun n => (s.recvFlits (s.portTo 0) (flitsOf n)).outsideLaunch
      s.portUp (s.portTo 0) ∧ s.position = some 1 ∧ s.chain.enumerated ∧ s.portTo 2 ≠ s.portTo 0 ∧ s.dev.state ≠ .fog ∧
      fine ((readM 0x10000000 8).go (u 0)) ∧ fine ((checkWrite 0x10000000 8).go (u 0)) ∧
      fine ((readM 0x20000000 8).go (u 0)) = false ∧ fine ((checkWrite 0x20000000 8).go (u 0)) = false) ∧
    (let s := chained .fog; s.portUp (s.portTo 0) ∧ s.position = some 1 ∧ s.chain.enumerated ∧ s.dev.state = .fog) ∧
    (let s := { chained with chain := {} }; s.chain.enumerated = false) ∧
    (let s := moving; s.moveWaits ∧ s.portUp 1 ∧ s.time.counter ≤ 0 + 5 * cycMs ∧
      (s.layout.remote.find? (·.id = 3)).isSome ∧ s.layout.move.isSome ∧
      (s.runningAt 0x22 16).map (·.id) = s.layout.move.map (·.launch) ∧ s.layout.remote.filter (·.id ≠ 3) ≠ [] ∧
      s.layout.remote.all fun q => decide (q.since + 5 * cycMs ≤ s.time.counter)) := by decide +kernel

/-- A point-cloud command, and an open frame whose hash, points and record lie in the region. -/
def frame0 : List Nat := [4 * 2 ^ 48, 0, 0, 0, 0, 0x10800000, 0x10400000, 0x10020000]
def cloud1 (op w0 : Nat) (ws : List Nat) (isOpen : Bool := true) : State :=
  with1 (launchAt 0x20 16) (op1 op w0 ws) { lab .running with cloud := { ({} : Cloud) with isOpen := isOpen, cmd := frame0.map (BitVec.ofNat 64) } }

theorem test_hyps_PointCloudCommands :
    stands (cloud1 0 0 []) 0x20 16 128 0 (fun _ _ _ => vxNopOp 0) ∧
    stands (cloud1 0x60 (4 * 2 ^ 48) (frame0.drop 1)) 0x20 16 128 0x60 (fun l ws t => fine ((frameBegin l ws).go t)) ∧
    stands (cloud1 0x61 0 []) 0x20 16 128 0x61 (fun _ ws t => let q := bits (wAt ws 0) 53 48;
      let n := (t.queue q).occupancy;
      match ((deskewLoop q (bits (wAt ws 0) 47 32) (bits (wAt ws 1) 47 3 * 8) (wAt ws 2) n (bits (wAt ws 0) 15 0) (n + 1100) 0 0
        none).go t).1 with
      | .ok ok => ok
      | .error _ => false) ∧
    stands (cloud1 0x63 0 [] false) 0x20 16 128 0x63 (fun _ _ t => t.cloud.isOpen = false) ∧
    stands (cloud1 0x63 0 []) 0x20 16 128 0x63 (fun _ _ t => t.cloud.isOpen ∧ fine (frameEnd.go t)) ∧
    stands (cloud1 0x62 (2 * 2 ^ 32) [0, 0, 0, 0x10001, 0, 0x10030000, 0x10040000]) 0x20 16 128 0x62 (fun _ ws t => fine ((rulesCmd ws).go t)) ∧
    stands (cloud1 0x64 0 []) 0x20 16 128 0x64 (fun _ ws t => fine ((neighboursCmd ws).go t)) ∧
    stands (cloud1 0x64 (2 ^ 48) [2 ^ 32 + 1, 0x20000000, 0x20001000, 0x20002000]) 0x20 16 128 0x64 (fun _ ws t =>
      !fine ((neighboursCmd ws).go t)) := by decide +kernel

theorem test_hyps_CellWordsTellKeysApart :
    (keyOk ⟨-32768, 32767, -1, 3⟩ = true ∧ (⟨-32768, 32767, -1, 3⟩ : Key).at_ (⟨-32768, 32767, -1, 3⟩ : Key).word = true ∧
      (⟨-32768, 32767, -1, 3⟩ : Key).at_ (⟨-32768, 32767, 65535, 3⟩ : Key).word = true ∧ keyOk ⟨-32768, 32767, 65535, 3⟩ = false) := by
  decide +kernel

/-- A frame with a reference pose at the origin, one ego state at time 0 there, and a box of one cell. -/
def here0 : V3 × Quat := ((.zero, .zero, .zero), (.ofInt 1, .zero, .zero, .zero))
def scanning : State :=
  let s := cloud1 0 0 []
  { s with cloud := { s.cloud with pose := some (storePose here0) }
           ego := { s.ego with hist := [egoWords {} 0 0 0 0 fun i => if i = 3 then 2 ^ 30 else 0] } }
def unit0 : UnitIn := { entry := 2, mine := true, stamps := [0, 0], ext := { rot := M3.identity, trans := (.zero, .zero, .zero), tcal := 0 }, left := 1 }

/-- The DATA word of a point of range `r` mm, and the cells in which deskewing finds it. -/
def range (r : Nat) : Word := BitVec.ofNat 64 (r * 65536)
def cellsOf (s : State) (r : Nat) : List (Option Int) :=
  match s.cloud.pose, s.poseAt (unit0.pointTime (range r)) with
  | some ref, some pt =>
    let pr := unit0.deskewed ref.load pt (sensorPoint (range r) 0)
    [cellOf pr.1 s.cloud.edgeK, cellOf pr.2.1 s.cloud.edgeK, cellOf pr.2.2 s.cloud.edgeK]
  | _, _ => []

/-- A point 0 mm away lies in the cell at the origin, one 20 mm away in the next of 16 mm, outside the box. -/
theorem test_hyps_deskewPoint :
    (let s := scanning;
      epochOf (unit0.pointTime (range 0)).flags = epochOf s.cloud.ref.flags ∧ fine ((readWords 0x10050000 1).go s) ∧
      cellsOf s 0 = [some 0, some 0, some 0] ∧ cellsOf s 20 = [some 1, some 0, some 0] ∧ s.cloud.points ≠ 2097152 ∧
      (∀ a < 3, sgn 16 (bits (wAt s.cloud.cmd 3) (16 * a + 15) (16 * a)) = 0 ∧ sgn 16 (bits (wAt s.cloud.cmd 4) (16 * a + 15) (16 * a)) = 0)) ∧
    epochOf (unit0.pointTime (range 0)).flags ≠ epochOf 1 ∧
    (cloud1 0 0 []).cloud.pose = none := by decide +kernel

/-- That frame with its first point, and with two points of one cell whose store holds one. -/
def scanned : State := ((deskewPoint 0 0x10050000 unit0 (range 0)).go scanning).2
theorem test_deskew_inserts :
    (scanned.cloud.points, scanned.cloud.sites, scanned.cloud.notStored) = (1, 1, 0) ∧
    (let s := ((deskewPoint 0 0x10050000 unit0 (range 0)).go scanned).2;
      (s.cloud.points, s.cloud.sites, s.cloud.notStored) = (2, 1, 1)) ∧
    ((deskewPoint 0 0x10050000 unit0 (range 20)).go scanning).2.cloud.outOfBox = 1 := by decide +kernel

def isFound : Probe → Bool
  | .found _ _ => true
  | _ => false
def key0 : Key := { x := 0, y := 0, z := 0, level := 0 }
def key1 : Key := { x := 5, y := 0, z := 0, level := 0 }

theorem test_hyps_cells :
    gives ((probe key0).go scanned) (fun p _ => isFound p) ∧ gives ((probe key1).go scanned) (fun p _ => p matches .empty _) ∧
    scanned.cloud.slots = 1 ∧ scanning.cloud.slots = 1 ∧
    gives ((findOrCreate false key0).go scanned) (fun x _ => x.any fun y => bits y.2 29 24 == 1) ∧
    gives ((findOrCreate false key0).go scanning) (fun x _ => x.any fun y => bits y.2 29 24 == 0) ∧
    gives ((findOrCreate false key1).go { scanned with cloud := { scanned.cloud with sites := 262144 } }) (fun x _ => x.isNone) ∧
    keyOk (key0.neighbour 1 14) ∧ keyOk (({ key0 with x := 32767 } : Key).neighbour 1 14) = false ∧
    gives ((probe (key0.neighbour 1 13)).go scanned) (fun p _ => isFound p) ∧
    gives ((probe (key0.neighbour 1 14)).go scanned) (fun p _ => !isFound p) ∧
    (14 : Int) = (1 + 1) + (2 * 1 + 1) * (0 + 1) + (2 * 1 + 1) ^ 2 * (0 + 1) := by decide +kernel

/-- Words of a RULES that builds a book of kind 0 in slot 0, and of one that binds its rules to slot 1 (REUSE). -/
def rules1 : List Word := (op1 0x62 (2 * 2 ^ 32) [0x10606000, 0x10607000, 0, 0x10001, 0, 0x10603000, 0x10604000]).map (BitVec.ofNat 64)
def rules2 : List Word := (op1 0x62 (2 ^ 50 + 2 ^ 43 + 2 * 2 ^ 32) [0x10608000, 0x10609000, 0, 0x10001, 0, 0, 0x10605000]).map (BitVec.ofNat 64)
/-- One site before the first FRAME_BEGIN, whose hash then lies at VA 0, where the lab's memory shows a second time. -/
def oneSite : State :=
  let s := lab .running
  ((findOrCreate false key0).go { s with mem := { s.mem with
    regions := s.mem.regions ++ [(1, pack [(15, 63, 60), (24, 56, 52)], wd 0x4000000000, pack [(1, 31, 0)])] } }).2

theorem test_hyps_rules :
    oneSite.cloud.sites = 1 ∧ fine ((rulesCmd rules1).go oneSite) ∧ rulesBad 0 0 0 rules1 = false ∧ oneSite.cloud.badHash = false ∧
    gives ((scanSites false 0 0 0 (wAt rules1 8) (List.range oneSite.cloud.sites) {}).go oneSite) (fun b w =>
      (w.clashes (w.rulesAreas rules1 false 0 0 b.total 5) (w.cloud.areas ++ w.bookAreas (some 0))).getD 0 false == false &&
        !w.cloud.mixed && b.rules.length == 1) ∧
    fine ((rulesCmd rules2).go ((rulesCmd rules1).go oneSite).2) ∧ bit (wAt rules2 0) 43 ∧
    bits (wAt rules2 0) 41 36 ≠ bits (wAt rules2 0) 55 50 := by decide +kernel

/-- One rule, of the one site to itself (R198, R199); a slot that reuses it has its count. -/
theorem test_rules :
    let s := ((rulesCmd rules2).go ((rulesCmd rules1).go oneSite).2).2
    (at_ s.cloud.books 0 {}).count = [1] ∧ (at_ s.cloud.books 1 {}).count = [1] ∧ (at_ s.cloud.books 1 {}).src = some 0 := by
  decide +kernel

/-- Distances 4, none, 1, 4 with K 2: the nearest, then of equal ones the lower index; within RADIUS 4 the first two (R209). -/
theorem test_hyps_NearestPointsAreSelected :
    (let ds := [Machine.Num.ofInt 4, .nan, Machine.Num.ofInt 1, Machine.Num.ofInt 4];
      select true 2 .zero ds = [2, 0] ∧ select false 2 (Machine.Num.ofInt 4) ds = [0, 2] ∧ select true 9 .zero ds = [2, 0, 3]) ∧
    fine ((pointAt 0x10020000).go scanning) := by decide +kernel

def egoLaunch (deadline : Option Int) : Launch := { launchAt 0x21 16 with ego := true, deadline := deadline }
def egoLab (deadline : Option Int) (e : Ego) : State := with1 (egoLaunch deadline) [] { lab .running with ego := e }
/-- A buoy-table command; its table's first access faults. -/
def track0 (deadline : Option Int := none) : State :=
  with1 { launchAt 0x21 16 with deadline := deadline } (op1 0x70)
    { lab .running with buoys := { ({} : Buoys) with configured := true, cfg := (({} : Buoys).cfg.set 0 0x20000000) } }

/-- A buoy-table command whose table of 4,096 slots reads as zeros: its region names the point-cloud windows (R204). Only its
last read counts as its launch's (the run is not marked as started), so that the state stays small. -/
def trackAll : State :=
  let s := with1 { launchAt 0x21 16 with deadline := some 9, runs := [{ group := 16, pc := 0x10000000, status := .running }] }
    (op1 0x70 0 [0, 0, 0, 0, 0x10F00000]) (lab .fog)
  { s with
    buoys := { ({} : Buoys) with configured := true, cfg := (({} : Buoys).cfg.set 0 0x20000000) }
    mem := { s.mem with regions := s.mem.regions ++
      [(1, pack [(15, 63, 60), (24, 56, 52), (0x20000000, 47, 0)], wd 0x200000000000, pack [(1, 31, 0)])] } }

/-- `trackAll` while its launch uses memory, and has used the places given. -/
def trackUses (us : List Use) : State := { trackAll with mem := { trackAll.mem with who := some 7, reads := us } }

/-- The place of the first word of a slot. -/
def slotUse (i : Nat) : List Use := [(0x200000000000 + 512 * i, 8, 7)]

/-- Reads of the window of `trackAll` give zeros and note their place. -/
theorem reads_zero (us : List Use) (hu : us = [] ∨ ∃ j, us = slotUse j) (i : Nat) (hi : i < 4096) :
    (readWords (0x20000000 + 512 * i) 1).go (trackUses us) = (.ok [0], trackUses (slotUse i)) := by
  have h1 : split4k (0x20000000 + 512 * i) 8 = [(0x20000000 + 512 * i, 8)] := by
    have a : (0x20000000 + 512 * i) % 2 ^ 48 = 0x20000000 + 512 * i := Nat.mod_eq_of_lt (by omega)
    have b : min 8 (4096 - (0x20000000 + 512 * i) % 4096) = 8 := by omega
    simp only [split4k, pieces, a, b]
    rfl
  have hm : (trackUses us).mem.regions = [(0, pack [(15, 63, 60), (24, 56, 52), (0x10000000, 47, 0)], wd 0x4000000000, pack [(1, 31, 0)]),
    (1, pack [(15, 63, 60), (24, 56, 52), (0x20000000, 47, 0)], wd 0x200000000000, pack [(1, 31, 0)])] := rfl
  have hp : (trackUses us).boot.otp.part128 = true := rfl
  have c0 : regionCovers (pack [(15, 63, 60), (24, 56, 52), (0x10000000, 47, 0)]) (pack [(1, 31, 0)]) (0x20000000 + 512 * i) = false := by
    have e : bits (pack [(15, 63, 60), (24, 56, 52), (0x10000000, 47, 0)]) 47 0 = 0x10000000 := by decide +kernel
    have f : regionSize (pack [(15, 63, 60), (24, 56, 52), (0x10000000, 47, 0)]) (pack [(1, 31, 0)]) = 0x1000000 := by decide +kernel
    simp only [regionCovers, e, f, Bool.and_eq_false_iff, decide_eq_false_iff_not]
    omega
  have c1 : regionCovers (pack [(15, 63, 60), (24, 56, 52), (0x20000000, 47, 0)]) (pack [(1, 31, 0)]) (0x20000000 + 512 * i) = true := by
    have e : bits (pack [(15, 63, 60), (24, 56, 52), (0x20000000, 47, 0)]) 47 0 = 0x20000000 := by decide +kernel
    have f : regionSize (pack [(15, 63, 60), (24, 56, 52), (0x20000000, 47, 0)]) (pack [(1, 31, 0)]) = 0x1000000 := by decide +kernel
    have g : bit (pack [(15, 63, 60), (24, 56, 52), (0x20000000, 47, 0)]) 63 = true := by decide +kernel
    simp only [regionCovers, e, f, g, Bool.and_eq_true, decide_eq_true_eq, true_and]
    omega
  have g : bit (pack [(15, 63, 60), (24, 56, 52), (0x20000000, 47, 0)]) 62 = true := by decide +kernel
  have e : bits (pack [(15, 63, 60), (24, 56, 52), (0x20000000, 47, 0)]) 47 0 = 0x20000000 := by decide +kernel
  have e1 : bits (wd 0x200000000000) 47 0 = 0x200000000000 := by decide +kernel
  have h2 : (trackUses us).target (0x20000000 + 512 * i) .rd = .ok (0x200000000000 + 512 * i, .gather) := by
    have d : (trackUses us).translate (0x20000000 + 512 * i) .rd = .ok (0x200000000000 + 512 * i) := by
      simp only [State.translate, hm, List.find?, c0, c1, g, e, e1, if_true]
      exact congrArg Except.ok (by omega)
    have p : place (trackUses us).boot.otp.part128 (0x200000000000 + 512 * i) = .gather := by
      simp only [place, hp, if_true]
      rw [if_neg (by omega), if_neg (by omega), if_neg (by omega), if_neg (by omega), if_pos (by omega)]
    simp only [State.target, d, p]
  have h3 : (readRaw (0x20000000 + 512 * i) 8 .rd).go (trackUses us) = (.ok (List.replicate 8 0), trackUses us) := by
    simp only [readRaw, h1, List.forIn_cons, List.forIn_nil, go_bind, go_get, h2, go_pure]
    rfl
  have h4 : (trackUses us).note us (0x200000000000 + 512 * i) 8 7 = slotUse i := by
    obtain rfl | ⟨j, rfl⟩ := hu
    · rfl
    · have : ¬ (0x200000000000 + 512 * j + 8 = 0x200000000000 + 512 * i) := by omega
      simp only [slotUse, State.note, true_and, if_neg this]
      rfl
  have h5 : (trackUses us).places [(0x20000000 + 512 * i, 8)] = [(0x200000000000 + 512 * i, 8)] := by
    have e2 : (0x20000000 + 512 * i) - 0x20000000 = 512 * i := by omega
    simp only [State.places, List.map_cons, List.map_nil, h1, List.flatten_cons, List.flatten_nil, List.append_nil,
      List.filterMap_cons, List.filterMap_nil, hm, List.find?, c0, c1, Option.map_some, e, e1, e2, List.foldr]
    rfl
  have h6 : (trackUses us).spoil (0x20000000 + 512 * i) (List.replicate 8 0) = (List.replicate 8 0, trackUses (slotUse i)) := by
    have f : (trackUses us).freeIn ([] ++ usePlaces [] ++ usePlaces ((trackUses us).others 7 []))
        (0x20000000 + 512 * i) (List.replicate 8 0) = (List.replicate 8 0, trackUses us) := rfl
    have g : ∀ t : State, (trackUses us).spoil (0x20000000 + 512 * i) (List.replicate 8 0) = (List.replicate 8 0, t) ↔
        trackUses (((trackUses us).places [(0x20000000 + 512 * i, 8)]).foldl (fun es p => (trackUses us).note es p.1 p.2 7) us) = t :=
      fun t => ⟨fun h => (congrArg Prod.snd h), fun h => h ▸ rfl⟩
    rw [g, h5]
    simp only [List.foldl, h4]
  simp only [readWords, readM, go_bind, h3, Nat.mul_one, go_get, go_set, h6]
  rfl

theorem readBuoys_zero : ∀ (is : List Nat) (us : List Use), (us = [] ∨ ∃ j, us = slotUse j) → (∀ i ∈ is, i < 4096) →
    (readBuoys 0x20000000 is).go (trackUses us) = (.ok [], trackUses ((is.getLast?.map slotUse).getD us))
  | [], _, _, _ => rfl
  | i :: is, us, hu, h => by
    unfold readBuoys
    rw [go_bind, reads_zero us hu i (h i (by simp))]
    refine (readBuoys_zero is _ (.inr ⟨i, rfl⟩) fun j hj => h j (by simp [hj])).trans ?_
    cases is with
    | nil => rfl
    | cons j is => rw [List.getLast?_cons_cons, List.getLast?_eq_some_getLast (List.cons_ne_nil j is)]; rfl

/-- A computation that goes on after a part whose result is known. -/
theorem fine_bind {α β : Type} {x : TaskM α} {f : α → TaskM β} {s t : State} {a : α} (h : x.go s = (.ok a, t))
    (h' : fine ((f a).go t) = true) : fine ((x >>= f).go s) = true := by
  rw [go_bind, h]; exact h'

/-- The words of the command of `trackAll`. -/
def trackWords : List Word := (op1 0x70 0 [0, 0, 0, 0, 0x10F00000] ++ List.replicate 10 0).map (BitVec.ofNat 64)

/-- The launch of `trackAll`. -/
def trackLaunch : Launch := { launchAt 0x21 16 with deadline := some 9, runs := [{ group := 16, pc := 0x10000000, status := .running }] }

theorem trackAll_fetch : fetch trackAll 0x21 16 128 = some (trackLaunch, trackWords, trackAll.byLaunch 7) := by rfl

/-- The premises of TrackRuns that a TRACK comes to its end: one that nothing cuts and one that its deadline cuts, on a table
without a buoy. -/
theorem test_hyps_TrackRuns : ∀ cut ∈ [DeadlineCut.never, .after []], stands trackAll 0x21 16 128 0x70
    (fun l ws t => l.deadline.isSome && !t.laneWaits && fine ((trackTask cut l ws).go t)) = true := by
  have h : ∀ cut ∈ [DeadlineCut.never, .after []], fine ((trackTask cut trackLaunch trackWords).go (trackUses [])) = true := by
    intro cut hc
    refine fine_bind (a := trackAll.refTime trackLaunch 0 0 0) (t := trackUses []) rfl (fine_bind (go_get _) (fine_bind
      (readBuoys_zero (List.range 4096) [] (.inl rfl) fun i hi => List.mem_range.mp hi) ?_))
    simp only [List.mem_cons, List.not_mem_nil, or_false] at hc
    obtain rfl | rfl := hc <;> decide +kernel
  intro cut hc
  have e : trackAll.byLaunch 7 = trackUses [] := rfl
  simp only [stands, trackAll_fetch, e, h cut hc, Bool.and_true]
  decide +kernel

/-- The premises of EgoUpdates and TrackRuns. -/
theorem test_hyps_ego_and_track :
    (let s := egoLab (some (-1)) {}; (s.runningAt 0x21 16) = some (egoLaunch (some (-1))) ∧ (-1 : Int) < s.time.line) ∧
    (let s := egoLab none {}; (s.runningAt 0x21 16) = some (egoLaunch none) ∧ s.ego.configured = false) ∧
    (let s := egoLab (some 5) { lost := true, configured := true }; (s.runningAt 0x21 16).isSome ∧ s.time.line ≤ 5 ∧ s.egoSources = [] ∧
      ((egoTask (egoLaunch (some 5))).go s).1.toOption = some (some true)) ∧
    (let s := egoLab none { configured := true }; s.egoSources = [] ∧ s.ego.lost = false ∧ s.ego.configured) ∧
    stands (track0) 0x21 16 128 0x70 (fun l ws t => !fine ((trackTask .never l ws).go t)) ∧
    stands (track0 (some 9)) 0x21 16 128 0x70 (fun l _ _ => l.deadline.isSome) := by decide +kernel

theorem test_hyps_EgoAndBuoyMessages :
    meets ((withEntry 63 (entry1 0xB000000000000000 0 0) .armed).setEntry 0 (entry1 0xA000000000000000 0 0)) 0x420 8
      [2 ^ 63, 1, 0, 0, 0, 0, 2 ^ 16 + 1000, 0] (fun t w => decide ((∀ e : Fin 64, bit (w 0) e.val = true → (t.entry e.val).cls = 3) ∧
        (∀ e : Fin 64, bit (w 1) e.val = true → (t.entry e.val).cls = 2) ∧ bits (w 6) 23 16 ≠ 0 ∧ bits (w 6) 15 0 ≤ 1000)) ∧
    (∀ b ∈ [5, 0x103E9], meets (lab .standby) 0x420 8 [0, 0, 0, 0, 0, 0, b, 0] (fun _ w =>
      decide ((bits (w 6) 23 16 = 0 ∨ 1000 < bits (w 6) 15 0) ∧ (w 0).toNat = 0 ∧ (w 1).toNat = 0))) ∧
    meets (lab .standby) 0x420 8 [1, 0, 0, 0, 0, 0, 0, 0] (fun t _ => (t.entry 0).cls != 3) ∧
    meets (lab .standby) 0x420 8 [0, 1, 0, 0, 0, 0, 0, 0] (fun t w => (w 0).toNat == 0 && (t.entry 0).cls != 2) ∧
    (∀ ws ∈ [[1, 0, 0, 0, 0, 0, 0, 0, 0], [0x10E00000, 0, 0, 0, 0, 0, 0, 0, 0],
      [0x10E00000, 2 ^ 60 + 8 * 2 ^ 56 + 2 ^ 48 + 2 ^ 40 + 2 ^ 32 + 1, 0, 0, 0, 0, 0, 0, 0],
      [0x10E00000, 2 ^ 60 + 8 * 2 ^ 56 + 2 ^ 48 + 2 ^ 40 + 2 ^ 32 + 1, 0, 0, 0, 1, 65535 * 2 ^ 32 + 1000001, 0, 0]],
      meets (lab .armed) 0x430 9 ws) ∧
    meets (lab .armed) 0x421 0 [] ∧ meets (lab .fog) 0x422 0 [] (fun t _ => t.ego.hist.isEmpty) ∧
    meets { lab .fog with ego := { ({} : Ego) with hist := [{}] } } 0x422 0 [] (fun t _ => !t.ego.hist.isEmpty) ∧
    meets (lab .armed) 0x431 0 [] (fun t _ => t.buoys.configured = false) ∧ meets (lab .fog) 0x432 1 [63] := by decide +kernel

/-- A SOLVE by CHOL of one problem of one unknown at +0x400, its status word at +0x800: A = 4 at +0x500, B = 6 at +0x510, X at
+0x520, with binary points 0 and BP_F 8. -/
def solve1 (others : List Launch := []) (deadline : Option Int := none) : State :=
  let s := with1 { launchAt 0x21 16 with deadline := deadline } (op1 0x50 (2 ^ 32) [0, 0x10000400, 0x10000800])
    (poke (poke (lab .running) 0x400 [2 ^ 56 + 2 ^ 40 + 2 ^ 11, 0, 2 ^ 48 + 0x10000500, 2 ^ 48 + 0x10000510, 2 ^ 48 + 0x10000520, 0, 0, 0]) 0x500 [4, 0, 6])
  { s with dev := { s.dev with launches := s.dev.launches ++ others } }

/-- A command's next state. -/
def after1 (c : Instr) (s : State) : State :=
  match exec c s with
  | .next t => t
  | _ => s

theorem test_hyps_SolverCommands :
    (let s := with1 (launchAt 0x21 16) (op1 0x50); stands s 0x21 16 128 0x50 (fun l ws t =>
      t.faults.queue.isEmpty && decide (bits (wAt ws 0) 44 32 = 0) && (solveBody .never l (l.pcOf 0x21 16) ws t).1 == .next)) ∧
    (let s := with1 (launchAt 0x21 16) (op1 0x50) { lab .running with faults := { ({} : Faults) with queue := [{ cls := 3, unit := 2 }] } };
      stands s 0x21 16 128 0x50 (fun _ _ t => t.faults.queue.any fun q => q.cls = 3 && !q.planned)) ∧
    (let s := with1 (launchAt 0x21 16) (op1 0x50 (2 ^ 32) [0, 0x20000000, 0x10000800]);
      stands s 0x21 16 128 0x50 (fun l ws t =>
        match (solveBody .never l (l.pcOf 0x21 16) ws t).1 with
        | .fault _ => true
        | _ => false)) ∧
    stands (solve1 [{ ready 0x21 16 with id := 8, cls := 0 }]) 0x21 16 128 0x50 (fun l ws t =>
      t.higherWaits l 0x21 16 && (solveBody .never l (l.pcOf 0x21 16) ws t).1 == .hold) ∧
    stands solve1 0x21 16 128 0x50 (fun l ws t => !t.higherWaits l 0x21 16 && (solveBody (.part []) l (l.pcOf 0x21 16) ws t).1 == .hold &&
      (solveBody (.part [0]) l (l.pcOf 0x21 16) ws t).1 == .next) ∧
    stands (after1 (.solve (.part [])) solve1) 0x21 16 128 0x50 (fun l ws t => l.resumes.isSome &&
      (solveBody .never l (l.pcOf 0x21 16) ws t).1 == .next) ∧
    stands (solve1 [] (some 9)) 0x21 16 128 0x50 (fun l ws t => t.cutAt l (.after []) == some [] &&
      (solveBody (.after []) l (l.pcOf 0x21 16) ws t).1 == .next) ∧
    stands (with1 (launchAt 0x21 16) (op1 0)) 0x21 16 128 0 (fun _ _ _ => svNopOp 0) := by decide +kernel

/-- CHOL of 4 x = 6: the factor is 2 and x rounds from 1.5 to 2, in two steps of 6 / 2 = 3 and 3 / 2 (R252). -/
theorem test_chol : after (.solve .never) solve1 (fun t => memBytes t.mem.cells 0x4000000520 4 == [2, 0, 0, 0] && t.solver.problems == 1) = true := by
  decide +kernel

/-- An evaluation in progress with scratch registers 1 to 4 at 5, -3, NaR and 0, and an x of one element. -/
def asm1 : State :=
  { lab .running with solver := { ({} : Solver) with asm := { ({} : Asm) with
    s := ((((Vector.replicate 256 0).set 1 5).set 2 0xFFFFFFFD).set 3 0x80000000)
    x := [7], bpX := [0], bpS := 16, argVa := 0x10000000, rows := 64, cols := 64 } } }
/-- A step of destination, sources, row, column and index. -/
def stepW (dst sa sb row col idx : Nat) : Word := pack [(dst, 57, 50), (sa, 49, 42), (sb, 41, 34), (row, 33, 28), (col, 27, 22), (idx, 21, 0)]

theorem test_hyps_AssemblySteps :
    (let a := asm1.solver.asm; a.ended = false ∧ a.reg (stSa (stepW 255 1 2 0 0 0)) = some 5 ∧ a.reg (stSb (stepW 255 1 2 0 0 0)) = some (-3) ∧
      a.reg (stDst (stepW 255 1 2 0 0 0)) = some 0 ∧ a.reg (stSa (stepW 0 3 1 0 0 0)) = none ∧ a.reg (stSb (stepW 0 1 3 0 0 0)) = none ∧
      a.reg (stSa (stepW 0 4 0 0 0 0)) = some 0 ∧ a.x[stIdx (stepW 0 0 0 0 0 0)]? = some 7 ∧ a.input = none ∧
      fine ((readM (a.argVa + 4 * stIdx (stepW 0 0 0 0 0 9)) 4).go asm1) ∧
      fine ((readM (a.argVa + stIdx (stepW 0 0 0 0 0 9)) 2).go asm1) ∧
      fine ((readM (a.argVa + 4 * stIdx (stepW 0 0 0 0 0 4194303)) 4).go asm1) ∧
      fine ((readM (a.argVa + 0x2000000) 4).go asm1) = false ∧
      stRow (stepW 0 1 0 63 63 0) < a.rows ∧ stCol (stepW 0 1 0 63 63 0) < a.cols) := by decide +kernel

/-- The step ADD gives 5 + (-3) = 2 in its destination only (R269). -/
theorem test_add : after (.add (stepW 255 1 2 0 0 0)) asm1 (fun t => t.solver.asm.s[(255 : Fin 256)] == 2 && t.solver.asm.s[(1 : Fin 256)] == 5) = true := by decide +kernel

/-- RECIP of 5 at BP_S = 16 is 2^32 / 5, rounded to nearest (R269). -/
theorem test_recip : after (.recip (stepW 9 1 0 0 0 0)) asm1 (fun t => t.solver.asm.s[(9 : Fin 256)] == 858993459) = true := by decide +kernel

theorem test_hyps_LanesAndSolverMessages :
    (let s := lab .running; s.faults.laneIn.getLsbD 15 = true ∧ s.waitsSpare 3 15 = false ∧ s.faults.laneSpareGone = false ∧ s.faults.laneSubst = none) ∧
    (let s := { lab .running with faults := { ({} : Faults) with laneSpareGone := true } }; s.faults.laneIn.getLsbD 0 = true ∧ s.faults.laneSpareGone) ∧
    meets (lab .faultHalt) 0x500 0 [] ∧
    meets (lab .armed) 0x501 3 [3, 2147483647 * 2 ^ 32 + 2147483647, 1] (fun _ w => [1, 2].all fun i => decide (bits (w i) 63 32 < 2147483648 ∧
      1 ≤ bits (w i) 31 0 ∧ bits (w i) 31 0 < 2147483648)) := by decide +kernel

/-- An inertial entry whose queue holds the first word of a unit only. -/
def egoWaits : State :=
  let s := (withEntry 0 (entry1 0xB000000000000000 0 0)).setQueue 0 { depthCode := 1, rings := #v[{ words := [pack [(2, 63, 60), (2, 53, 50)]] }, {}, {}, {}] }
  with1 (egoLaunch none) [] { s with ego := { ({} : Ego) with configured := true, cfg := ({} : Ego).cfg.set 0 1 } }

theorem test_hyps_ego_and_table :
    (let s := egoWaits; (s.runningAt 0x21 16).isSome ∧ ((egoTask (egoLaunch none)).go s).1.toOption = some none) ∧
    meets (lab .armed) 0x430 9 [0x10E00000, 2 ^ 60 + 8 * 2 ^ 56 + 2 ^ 48 + 2 ^ 40 + 2 ^ 32 + 1, 0, 0, 0, 1, 65536 * 2 ^ 32 + 1000000, 0, 0]
      (fun t w => decide (bits (w 0) 47 0 % 4096 = 0 ∧ 1 ≤ bits (w 1) 63 60 ∧ bits (w 1) 63 60 ≤ bits (w 1) 59 56 ∧ bits (w 1) 59 56 ≤ 8 ∧
        1 ≤ bits (w 1) 55 48 ∧ 1 ≤ bits (w 1) 47 40 ∧ 1 ≤ bits (w 1) 39 32 ∧ 1 ≤ bits (w 1) 7 0 ∧ bits (w 5) 31 0 ≠ 0 ∧
        65536 ≤ sgn 32 (bits (w 6) 63 32) ∧ bits (w 6) 31 0 ≤ 1000000) &&
        ((t.begun 0).mapped (bits (w 0) 47 0) 2097152 .rd) && ((t.begun 0).mapped (bits (w 0) 47 0) 2097152 .wr) &&
        ((t.begun 0).freeTable (bits (w 0) 47 0)).1) ∧
    meets { lab .armed with buoys := { ({} : Buoys) with configured := true, cfg := (({} : Buoys).cfg.set 0 0x10000000) } } 0x431 0 []
      (fun t _ => t.buoys.configured && ((t.begun 0).freeTable t.buoys.tableVa).1) := by decide +kernel

/-- A buoy of a model and dimension, its state, HITS and MISSES, AGE. -/
def buoy1 (model dim st : Nat) (hits misses age : Nat := 0) (slot : Nat := 3) : Buoy :=
  { slot := slot, ws := pack [(1, 63, 63), (st, 62, 61), (model, 60, 57), (dim, 56, 53), (hits, 42, 35), (misses, 34, 27)] ::
      pack [(9, 63, 32), (age, 31, 0)] :: List.replicate 47 0 }
/-- A detection of a measurement model, its first variance, and a pair of it with a buoy. -/
def det1 (mmodel mdim : Nat) (r : Nat := 0) (idx entry : Nat := 0) : Det :=
  { idx := idx, ws := pack [(entry, 63, 58), (mmodel, 57, 54), (mdim, 53, 51), (1, 50, 50)] :: [0, 0, 0, 0, 0, wd r, 0, 0, 0] }
def pair1 (idx entry slot : Nat) (d2 : Int) : Gated := { det := det1 0 2 0 idx entry, slot := slot, d2 := some d2 }

/-- The premises of BuoysAreTracked on prediction, gates, association, pairs and E. -/
theorem test_hyps_BuoysPredicted :
    (let b := buoy1 0 4 1; epochOf b.time.flags = epochOf 0 ∧ (0 : Int) - b.time.t = 0 ∧ (5 : Int) - b.time.t ≠ 0 ∧ epochOf b.time.flags ≠ epochOf 0x000F) ∧
    (chainOf ((modelComps 3).getD 0 0) = some (0, 0) ∧ chainOf ((modelComps 3).getD 3 0) = some (0, 1) ∧
      chainOf ((modelComps 3).getD 6 0) = none ∧ chainOf ((modelComps 2).getD 8 0) = some (2, 2)) ∧
    (let fs := [pair1 1 0 5 7, pair1 0 0 5 3, pair1 0 1 6 3, pair1 2 0 5 3]; associate fs = [pair1 0 0 5 3] ∧
      associate [pair1 1 0 5 7, pair1 0 1 6 3] = [pair1 0 1 6 3, pair1 1 0 5 7]) ∧
    (let b := ({} : Buoys); (b.gate 2).isSome ∧ b.coarseMul.isSome) ∧
    (let s := lab .running; at_ s.buoys.e 63 65536 = 65536 ∧ (fxSat (65536 + (32768 - 65536) / 16)).1 = some (65536 + (32768 - 65536) / 16)) ∧
    (buoy1 0 4 3).live = false ∧ (buoy1 0 4 2).live = true := by decide +kernel

/-- The premises of BuoysAreTracked on updates: a buoy without a dimension is hit, one with a variance that is no number is not. -/
theorem test_hyps_BuoysUpdated1 :
    (let v := lab .running; let r := ((buoy1 7 0 1).update v.buoys v.trackPivots {} [det1 7 0]).run {}
      (r.1.map Buoy.noNar) = some true) := by decide +kernel
theorem test_hyps_BuoysUpdated2 :
    (let v := lab .running; let r := ((buoy1 7 4 1).update v.buoys v.trackPivots {} [det1 0 2 (0x80000000 * 2 ^ 32 + 0x80000000)]).run {}
      r.1.isNone) := by decide +kernel

/-- The premises of BuoysAreTracked on R230: every row of its table. -/
theorem test_hyps_BuoysManaged :
    (let v := lab .running; let after := fun (b : Buoy) (h : Nat) => b.set0 h 42 35
      (after (buoy1 0 4 0) 1).wide v.buoys.pMax = false ∧ v.buoys.m = 3 ∧ v.buoys.n = 5 ∧ v.buoys.coastMax = 10 ∧ v.buoys.pMax = 4000000 ∧
      ({ (after (buoy1 0 4 0) 1) with ws := (after (buoy1 0 4 0) 1).ws.set 10 0x7FFFFFFF7FFFFFFF } : Buoy).wide v.buoys.pMax = true ∧
      hitBits 7 5 = 3 ∧ hitBits 1 5 = 1 ∧ (buoy1 0 4 1).state = 1 ∧ (buoy1 0 4 2 0 9).misses + 1 = 10) := by decide +kernel

/-- The premises of BuoysAreTracked on step 9: a full table, and one with the slots 0 and 2 in use. -/
theorem test_hyps_BuoysLaid :
    (∀ i < 4096, ∃ b ∈ (List.range 4096).map (fun n => buoy1 0 4 1 0 0 0 n), b.slot = i) ∧
    ((∀ b ∈ [buoy1 0 4 1 0 0 0 0, buoy1 0 4 1 0 0 0 2], b.slot ≠ 1) ∧ ∀ i < 1, ∃ b ∈ [buoy1 0 4 1 0 0 0 0, buoy1 0 4 1 0 0 0 2], b.slot = i) ∧
    ((measComps 1).findIdx? (· == (modelComps 1).getD 3 0) = none ∧ (measComps 1).findIdx? (· == (modelComps 1).getD 2 0) = some 2) :=
  ⟨fun i hi => ⟨buoy1 0 4 1 0 0 0 i, List.mem_map.mpr ⟨i, List.mem_range.mpr hi, rfl⟩, rfl⟩, by decide, by decide⟩

/-- A buoy is laid where a cycle finds the lowest slot free, and after the wrap no live buoy's identity is taken (R231, R232). -/
theorem test_free_identity : freeId [1, 2, 4] 4097 1 = 3 := by decide +kernel

/-- A device whose entry 63 is a camera with its calibration record at an address. -/
def calLab (va : Nat) : State := withEntry 63 { entry1 0x8000000000000000 0 0 with w := #v[0x8000000000000000, 0, 0, BitVec.ofNat 64 va, 0, 0] } .standby
/-- CL_ENABLE of components 0 and 12 of entry 63, limits 1 in their groups. -/
def clWords (set : Nat) : List Nat := [63 + set + 0x1001 * 2 ^ 16, 2 ^ 32 + 1, 0, 0, 0, 0, 2 ^ 32 + 1]

theorem test_hyps_QuietPointsAndChecks :
    ((lab .fog).isQuiet = false) ∧
    (let s := lab .standby; s.isQuiet ∧ s.calib.restores = [] ∧ s.calib.checks = [] ∧ (∀ e : Fin 64, (s.refine e.val).mask = 0)) ∧
    (let s := { lab .armed with calib := { ({} : Calib) with checks := [{ a := 0, b := 63, bp := 0, fails := 4, passes := 9 }] } };
      s.calib.checks[0]? = some { a := 0, b := 63, bp := 0, fails := 4, passes := 9 } ∧ s.calib.failN ≤ 5 ∧ s.calib.passN ≤ 10) ∧
    (let k : Check := { a := 0, b := 1, bp := 0, failing := true }; isolated [k, { k with b := 2 }] 0 ∧ isolated [k, { k with b := 2 }] 1 = false) := by
  decide +kernel

theorem test_hyps_CalibrationMessages :
    meets (calLab 0x10000000) 0x440 7 (clWords 0) (fun t w =>
      let r : Refine := { t.refine 63 with
        w0 := w 0, limits := (List.range 6).map fun g => (bits (w (g + 1)) 63 32, bits (w (g + 1)) 31 0) };
      decide (bits (w 0) 5 0 = 63 ∧ t.recordVa 63 ≠ 0 ∧ r.mask &&& classComps (t.entry 63).cls = r.mask ∧ bit (w 0) 8 = false) &&
      (r.comps.map compGroup == [0, 5]) && (r.limits == [(1, 1), (0, 0), (0, 0), (0, 0), (0, 0), (1, 1)])) ∧
    meets { lab .armed with calib := ((lab .armed).setRefine 3 { ({} : Refine) with w0 := 0x10000 }).calib } 0x441 1 [3]
      (fun t _ => (t.refine 3).mask ≠ 0) ∧
    meets (lab .armed) 0x441 1 [0] (fun t _ => (t.refine 0).mask = 0) ∧
    meets (lab .standby) 0x442 3 [0, 0x10000000, 0x010101] (fun _ w => decide (bits (w 0) 5 0 = 0 ∧ bits (w 1) 47 0 % 16 = 0 ∧
      bits (w 2) 15 8 ≠ 0 ∧ bits (w 2) 7 0 ≠ 0)) ∧
    meets (lab .standby) 0x442 3 [2, 0x10000000, 0xFFFFFF, 0x3F00, 0x3F01] (fun t w =>
      let cs := (List.range 2).map fun p => checkOf (w (3 + p));
      (cs.all fun x => decide (x.a < x.b)) && decide (cs.Pairwise fun x y => ¬ (x.a = y.a ∧ x.b = y.b)) &&
      fine (((List.range 2).forM fun p => writeWords (bits (w 1) 47 0 + 16 * p) [notRun]).go { t.begun 0 with calib := { t.calib with checks := cs } })) ∧
    meets (lab .standby) 0x442 3 [33, 0, 0x010101] (fun _ w => decide (32 < bits (w 0) 5 0)) ∧
    meets (lab .standby) 0x442 3 [1, 0, 0x010101] (fun _ w => decide (3 < 3 + bits (w 0) 5 0)) ∧
    meets (lab .standby) 0x442 3 [0, 8, 0x010101] (fun _ w => decide (bits (w 1) 47 0 % 16 ≠ 0)) ∧
    meets (lab .standby) 0x440 7 [63, 0, 0, 0, 0, 0, 0] (fun t _ => t.recordVa 63 = 0) ∧
    meets (lab .faultHalt) 0x443 1 [63] (fun t _ => t.recordVa 63 = 0) := by decide +kernel

/-- A cache with one near page of 16 positions, in sequence 5. -/
def kvModel1 : KvModel := { layers := 1, kvHeads := 1, qHeads := 1, headDim := 32, scaleVa := 0, nearVa := 0x10000000, nearBytes := 65536, farVa := 0x10100000, farBytes := 65536 }
def kvSeq1 : KvSeq := { mover := false, fmt := 3, logMin := 4, logMax := 4, window := 0, globals := [], length := 9, list := [0], cap := 4, listVa := 0, full := 0 }
def kvLab (st : DevState := .armed) : State :=
  { lab st with kv := { ({} : Kv) with
    model := some kvModel1, seqs := [(5, kvSeq1)]
    pages := [(0, { pinned := true, near := true, sizeLog := 4, fmt := 3, va := 0x10000000, refs := 1 })] } }

/-- A command of the attention unit: its token words at an address, a sequence without keys, FP16 rows. -/
def attend1 (op tokVa t : Nat) : State :=
  with1 (launchAt 0x23 16) (op1 op (6 * 2 ^ 46 + 8 * 2 ^ 42 + 6 * 2 ^ 38 + t)
    [0, tokVa, 2 ^ 48 + 0x10002000, 2 ^ 48 + 0x10003000, 2 ^ 48 + 0x10003000, 2 ^ 48 + 0x10004000, 0x10005000, 0, 2 ^ 48 + 0x10006000,
      2 ^ 48 + 0x10007000, 2 ^ 48 + 0x10008000, 2 ^ 48 + 0x10009000])
    { lab .running with kv := { ({} : Kv) with model := some kvModel1, seqs := [(0, { kvSeq1 with length := 0, list := [] })] } }

theorem test_hyps_AttentionCommands :
    stands (with1 (launchAt 0x23 16) (op1 0)) 0x23 16 128 0 (fun _ _ _ => kvNopOp 0) ∧
    stands (attend1 0x80 0x10001000 1) 0x23 16 128 0x80 (fun _ ws t => fine ((attendTask ws).go t)) ∧
    stands (attend1 0x80 0x20000000 1) 0x23 16 128 0x80 (fun _ ws t => !fine ((attendTask ws).go t)) ∧
    stands (attend1 0x81 0x10001000 0) 0x23 16 128 0x81 (fun _ ws t => fine ((attendBwdTask ws).go t)) ∧
    stands (attend1 0x81 0x20000000 1) 0x23 16 128 0x81 (fun _ ws t => !fine ((attendBwdTask ws).go t)) ∧
    stands (with1 (launchAt 0x23 16) (op1 0x82)) 0x23 16 128 0x82 (fun _ ws t => t.kv.seq (bits (wAt ws 0) 43 32) = none ∧
      fine ((pageMoveTask ws).go t)) ∧
    (let s := kvLab .running; (s.kv.page 0).near = true ∧ (s.kv.fit kvModel1 false (kvModel1.pageBytes 4 3)).isSome ∧
      fine ((moveOne false 0).go s)) := by decide +kernel

theorem test_hyps_PagesDoNotOverlap : ((kvLab).kv.fit kvModel1 true 1024).isSome ∧ ((kvLab).kv.extents kvModel1 true).length = 1 ∧
    (kvLab).kv.fit kvModel1 true 65536 = none := by decide +kernel

theorem test_hyps_CacheMessages :
    meets (lab .standby) 0x700 6 [8 * 2 ^ 32, 8, 0x10000000, 4096, 0x10100000, 4096] (fun _ w => decide (
      (bits (w 0) 47 40 + 1) % (bits (w 0) 53 48 + 1) = 0 ∧ 1 ≤ bits (w 0) 39 32 ∧ bits (w 0) 39 32 ≤ 8 ∧ bits (w 1) 47 0 % 8 = 0 ∧
      bits (w 2) 47 0 % 4096 = 0 ∧ (w 3).toNat % 4096 = 0 ∧ bits (w 4) 47 0 % 4096 = 0 ∧ (w 5).toNat % 4096 = 0)) ∧
    (let ok := fun (w : Nat → Word) => decide (4 ≤ bits (w 0) 59 56 ∧ bits (w 0) 59 56 ≤ bits (w 0) 55 52 ∧ bits (w 0) 55 52 ≤ 12 ∧
        bits (w 0) 51 48 = 7 ∧ bits (w 1) 62 48 ≤ 16384 ∧ bits (w 1) 16 0 + 1 ≤ 65536);
      let w0 := 4 * 2 ^ 56 + 12 * 2 ^ 52 + 7 * 2 ^ 48;
      meets kvLab 0x701 3 [w0 + 4095, 16384 * 2 ^ 48 + 65535, 0] (fun t w => ok w ∧ (t.kv.seq (bits (w 0) 11 0)) = none ∧
        t.kv.reserved + (bits (w 1) 16 0 + 1) ≤ 262144) ∧
      meets kvLab 0x701 3 [w0 + 5, 0, 0] (fun t w => ok w ∧ t.kv.seq (bits (w 0) 11 0) ≠ none) ∧
      meets kvLab 0x701 3 [w0 + 2 ^ 44 + 6, 0, 64] (fun t w => ok w ∧ t.kv.seq 6 = none ∧ bits (w 2) 47 0 % 64 = 0) ∧
      meets { kvLab with kv := { (kvLab).kv with seqs := [(5, { kvSeq1 with cap := 262144 })] } } 0x701 3 [w0 + 6, 0, 0] (fun t w => ok w ∧
        t.kv.seq 6 = none ∧ 262144 < t.kv.reserved + 1)) ∧
    meets kvLab 0x702 3 [4095 + 5 * 2 ^ 16, 9 * 2 ^ 32 + 3, 0] (fun t w => decide ((t.kv.seq (bits (w 0) 27 16)) = some kvSeq1 ∧
      (t.kv.seq (bits (w 0) 11 0)) = none ∧ bit (w 0) 44 = false ∧ bits (w 1) 52 32 ≤ kvSeq1.length ∧ bits (w 1) 16 0 + 1 ≤ 65536 ∧
      (((t.kv.spans kvSeq1).filter fun p => decide (p.2.1 < bits (w 1) 52 32)).map (fun p => p.2.2)) = [0])) ∧
    meets kvLab 0x703 1 [5] (fun t _ => t.kv.seq 5 = some kvSeq1) ∧
    meets kvLab 0x704 2 [5, 9] (fun t w => t.kv.seq 5 = some kvSeq1 ∧ bits (w 1) 20 0 ≤ 9) ∧
    meets kvLab 0x705 2 [5 + 64 * 2 ^ 16, 0x10000000] (fun t w => decide (bits (w 0) 22 16 ≤ 64 ∧ t.kv.seq 5 = some kvSeq1) &&
      ((t.begun 0).keeperRead (bits (w 1) 47 0) (4 * bits (w 0) 22 16)).1.isSome) ∧
    meets (kvLab .fog) 0x706 1 [5] (fun t _ => t.kv.seq 5 = some kvSeq1) ∧ meets kvLab 0x706 1 [4] (fun t _ => t.kv.seq 4 = none) ∧
    meets kvLab 0x707 1 [0] (fun t _ => (look t.kv.pages 0).isSome) ∧ meets kvLab 0x707 1 [131071] (fun t _ => (look t.kv.pages 131071).isNone) ∧
    meets kvLab 0x708 0 [] := by decide +kernel

/-- CL_ENABLE with its reset bit, over a factory bank of the identity and over a record that no region maps. -/
def enableWork (va : Nat) : TaskM Unit := do
  let f ← readWords (bankVa va 2) 16
  putCal false (bankVa va 0) f
  putCal false (bankVa va 1) f
  let h ← readWords va 1
  putCal false va [wAt h 0 &&& 0x00000000FFFFFFFE#64]
  clearProposal false va
theorem test_hyps_enable_with_reset :
    meets (poke (calLab 0x10000000) 320 [0x3F800000, 0, 0x3F800000, 0, 0x3F800000]) 0x440 7 (clWords 256) (fun t w =>
      let va := t.recordVa 63
      let r : Refine := { t.refine 63 with w0 := w 0, limits := (List.range 6).map fun g => (bits (w (g + 1)) 63 32, bits (w (g + 1)) 31 0) }
      let u := (t.begun 0).setRefine 63 r
      bit (w 0) 8 && !u.recordsMeet && bankOk (bytesWords 16 ((t.begun 0).peek (bankVa va 2) 128)) &&
        ((t.begun 0).keeperDo (enableWork va)).1.isSome) ∧
    meets (calLab 0x20000000) 0x440 7 (clWords 256) (fun t w => bit (w 0) 8 && ((t.begun 0).keeperDo (enableWork (t.recordVa 63))).1.isNone) := by
  decide +kernel

/-- The BAD_ARG forms of the calibration messages, and a setting that keeps its record. -/
theorem test_hyps_calibration_words :
    meets (calLab 0x10000000) 0x440 7 [63 + 0x1001 * 2 ^ 16, 2 ^ 32 + 1, 0, 0, 0, 0, 2 ^ 32] (fun _ w => decide (bits (w 6) 31 0 = 0 ∧ bits (w 1) 31 0 = 1)) ∧
    meets ((calLab 0x10000000).setRefine 63 { ({} : Refine) with w0 := 0x10000, keptAt := 0x10000000 }) 0x440 7 (clWords 0)
      (fun t _ => decide ((t.refine 63).mask ≠ 0 ∧ (t.refine 63).keptAt = t.recordVa 63)) ∧
    meets (lab .standby) 0x442 3 [0, 16, 0x010100] (fun _ w => decide (bits (w 2) 7 0 = 0)) ∧
    meets (lab .standby) 0x442 3 [2, 16, 0x010101, 0x3F00, 0x3F00] (fun _ w => decide (checkOf (w 3) = checkOf (w 4))) ∧
    meets (lab .standby) 0x442 3 [1, 0x20000000, 0x010101, 0x3F00] (fun t w =>
      ((t.begun 0).keeperDo ((List.range 1).forM fun p => putCal false (bits (w 1) 47 0 + 16 * p) [notRun])).1.isNone) ∧
    meets (calLab 0x20000000) 0x443 1 [63] (fun t _ => decide (t.recordVa 63 ≠ 0) && ((t.begun 0).keeperDo (readWords (t.recordVa 63) 1)).1.isNone) ∧
    meets (calLab 0x10000000) 0x443 1 [63] (fun t _ => ((t.begun 0).keeperDo (readWords (t.recordVa 63) 1)).1.isSome) := by decide +kernel

/-- The BAD_ARG and WRONG_STATE forms of the cache messages. -/
theorem test_hyps_cache_words :
    (∀ ws ∈ [[8 * 2 ^ 32 + 1 * 2 ^ 48, 8, 0, 0, 0, 0], [9 * 2 ^ 32, 8, 0, 0, 0, 0], [8 * 2 ^ 32, 1, 0, 0, 0, 0], [8 * 2 ^ 32, 0, 8, 0, 0, 0],
      [8 * 2 ^ 32, 0, 0, 2048, 0, 0], [8 * 2 ^ 32, 0, 0, 0, 8, 0], [8 * 2 ^ 32, 0, 0, 0, 0, 4095]], meets (lab .standby) 0x700 6 ws) ∧
    (∀ w0 ∈ [3 * 2 ^ 56 + 12 * 2 ^ 52 + 7 * 2 ^ 48, 4 * 2 ^ 56 + 13 * 2 ^ 52 + 7 * 2 ^ 48, 4 * 2 ^ 56 + 12 * 2 ^ 52 + 4 * 2 ^ 48], meets kvLab 0x701 3 [w0, 0, 0]) ∧
    meets kvLab 0x701 3 [4 * 2 ^ 56 + 12 * 2 ^ 52 + 7 * 2 ^ 48, 16385 * 2 ^ 48, 0] ∧
    meets kvLab 0x701 3 [4 * 2 ^ 56 + 12 * 2 ^ 52 + 7 * 2 ^ 48 + 2 ^ 44, 65535, 32] ∧
    meets kvLab 0x702 3 [4095 + 5 * 2 ^ 16, 10 * 2 ^ 32, 0] (fun t w => decide ((t.kv.seq 5) = some kvSeq1 ∧ kvSeq1.length < bits (w 1) 52 32)) ∧
    meets kvLab 0x702 3 [4095 + 4 * 2 ^ 16, 65536, 0] (fun t w => decide ((t.kv.seq 4) = none ∧ 65536 < bits (w 1) 16 0 + 1)) ∧
    meets kvLab 0x702 3 [4095 + 2 ^ 44 + 5 * 2 ^ 16, 0, 8] ∧ meets kvLab 0x702 3 [4095 + 4 * 2 ^ 16, 0, 0] (fun t _ => t.kv.seq 4 = none) ∧
    meets kvLab 0x702 3 [5 + 5 * 2 ^ 16, 0, 0] (fun t _ => t.kv.seq 5 = some kvSeq1) ∧
    meets { kvLab with kv := { (kvLab).kv with seqs := [(5, { kvSeq1 with cap := 262144 })] } } 0x702 3 [6 + 5 * 2 ^ 16, 0, 0] ∧
    meets kvLab 0x702 3 [4095 + 2 ^ 44 + 5 * 2 ^ 16, 9 * 2 ^ 32, 0x10000000] (fun t _ => ((t.begun 0).keeperWrite 0x10000000 (entryBytes [0])).1) ∧
    meets kvLab 0x702 3 [4095 + 2 ^ 44 + 5 * 2 ^ 16, 9 * 2 ^ 32, 0x20000000] (fun t _ => !((t.begun 0).keeperWrite 0x20000000 (entryBytes [0])).1) ∧
    meets kvLab 0x703 1 [4] (fun t _ => t.kv.seq 4 = none) ∧ meets kvLab 0x704 2 [4, 0] (fun t _ => t.kv.seq 4 = none) ∧
    meets kvLab 0x704 2 [5, 10] (fun t w => t.kv.seq 5 = some kvSeq1 ∧ 9 < bits (w 1) 20 0) ∧
    meets kvLab 0x705 2 [65 * 2 ^ 16, 0] (fun _ w => decide (64 < bits (w 0) 22 16)) ∧ meets kvLab 0x705 2 [4, 0] (fun t _ => t.kv.seq 4 = none) ∧
    meets kvLab 0x705 2 [5 + 2 ^ 16, 0x20000000] (fun t _ => ((t.begun 0).keeperRead 0x20000000 4).1.isNone) ∧
    ((kvLab).kv.page 0).pinned = true ∧ ((kvLab).kv.page 7).pinned = false := by decide +kernel

/-- The cache of `kvLab` with its page shared by a number of lists. -/
def kvShared (refs : Nat) (far : Nat := 0x10100000) : State :=
  { kvLab .running with kv := { (kvLab).kv with
    model := some { kvModel1 with farVa := far, scaleVa := 0x10F00000 }
    pages := [(0, { pinned := false, near := true, sizeLog := 4, fmt := 3, va := 0x10000000, refs := refs })] } }

/-- The premises of AttentionRows: an append inside a page of its own, one of a shared page, which is copied, one that starts a
page, one with a list at its end, and one past the last position. -/
theorem test_hyps_AttentionRows :
    (let s := kvShared 1; s.kv.seq 5 = some kvSeq1 ∧ s.kv.spanAt kvSeq1 9 = some (0, 0, 0) ∧ (s.kv.page 0).refs ≤ 1) ∧
    (let s := kvShared 2; 1 < (s.kv.page 0).refs ∧ gives ((copyPage 5 0 0 0 kvSeq1).go s) (fun ok u => ok && u.kv.copies == 1)) ∧
    (let s := kvShared 1; let q := { kvSeq1 with length := 16 }
      s.kv.spanAt q 16 = none ∧ gives ((newPage 5 16 q).go s) (fun ok u => ok && (u.kv.seq 5).any fun r => r.list == [0, 1])) ∧
    (let q := { kvSeq1 with cap := 1 }; (kvShared 1).kv.spanAt q 16 = none ∧ q.cap ≤ q.list.length) ∧
    (let q := { kvSeq1 with length := 1048576 }; q.length = 1048576) := by decide +kernel

/-- A row without visible keys gives 0 with m = -infinity and l = 0 (R312). -/
theorem test_row_without_keys : let r : RowState := { m := .inf true, l := .zero, o := [.zero, .zero] }
    (r.visit .zero [] []).out = [.zero, .zero] ∧ (r.visit .zero [] []).m = .inf true := by decide +kernel

/-- PAGE_MOVE of a near page to a far pool that no region maps. -/
theorem test_hyps_page_move_fault :
    (let k := { (kvLab .running).kv with model := some { kvModel1 with farVa := 0x20000000 }, pages := [(0, { pinned := false, near := true, sizeLog := 4, fmt := 3, va := 0x10001000, refs := 1 })] };
      stands (with1 (launchAt 0x23 16) (op1 0x82 (5 * 2 ^ 32) [16 * 2 ^ 32]) { kvLab .running with kv := k }) 0x23 16 128 0x82
        (fun _ ws t => !fine ((pageMoveTask ws).go t))) := by decide +kernel

/-- A region entry of one page of 4 KiB, its addresses given. -/
def rgn (va da : Nat) : List Nat := [pack [(1, 63, 63), (7, 62, 60), (12, 56, 52), (va, 47, 0)], da, 1].map (fun x => x.toNat)

theorem test_hyps_RegionsScrubbingAndBar2 :
    (let s := { lab .running with mem := { (lab .running).mem with ceWords := [8] } };
      (place s.boot.otp.part128 0x4000000000 = .near ∧ s.mem.ueWords.contains 0x4000000000 = false ∧ s.mem.ceWords.contains 0x4000000000 = false) ∧
      place s.boot.otp.part128 0x403FFFFFF8 = .near ∧ (0x403FFFFFFF : BitVec 48).toNat / 8 * 8 = 0x403FFFFFF8 ∧ s.mem.ue = 0 ∧ 3 ≤ s.dev.state.code) ∧
    (lab .running).faults.bankCopy = [] ∧ (lab .running).faults.bankKept.getLsbD 63 = false ∧
    (let s : State := { lab .running with faults := { ({} : Faults) with bankCopy := [(63, { w0 := 0, w1 := 9 })], bankKept := 2, bankSpareGone := 1 } };
      s.faults.bankCopy.find? (·.1 == 63) = some (63, { w0 := 0, w1 := 9 }) ∧ s.faults.bankKept.getLsbD 1 ∧ s.faults.bankSpareGone.getLsbD (0 / 16) ∧
      s.faults.bankKept.getLsbD 0 = false) ∧
    ({ ({} : Queue) with depthCode := 1, rings := #v[{ words := [9] }, {}, {}, {}] } : Queue).places[0]? = some (0, 0) ∧
    place (lab .running).boot.otp.part128 0x1000 = .lpddr ∧ (lab .running).mem.reachable ∧
    (let s := { lab .running with mem := { (lab .running).mem with passes := [(.near 0 0 0, 2, 0)] }, time := { ({} : Time) with counter := (MemRow.near 0 0 0).period } };
      (s.countPass (.near 0 0 0)).1 = true ∧ (s.countPass (.near 0 0 1)).1 = false) ∧
    (lab .fog).dev.state = .fog ∧ (10 * cycMs ≤ ({ lab .standby with time := { ({} : Time) with counter := 10 * cycMs } } : State).time.counter) ∧
    meets { lab .armed with boot := { (lab .armed).boot with packages := ({} : Boot).packages.set 0 (some { id := 0, version := 0, rootSlot := 2, rollback := 0, region := 5, va := 0, digest := 0, bytes := 4096, rd := false, wr := false, ls := false }) } }
      0x800 4 [5, 0, 0, 0] (fun t _ => t.regionHeld 5) ∧
    (let p := fun (r : Bool) (t : State) (w : Nat → Word) => t.regionHeld 1 = false && bit (w 1) 63 &&
        (regionChecks t 1 (w 1) (w 2) (w 3)).all (·.2) && touchesReserve t.boot.otp.part128 (w 1) (w 2) (w 3) == r;
      let top := if (lab .armed).boot.otp.part128 then 0x1FC0000000 else 0x0FC0000000;
      meets (lab .armed) 0x800 4 (1 :: rgn 0 0x4001000000) (p false) ∧ meets (lab .armed) 0x800 4 (1 :: rgn 0 (top - 4096)) (p false) ∧
      meets (lab .armed) 0x800 4 (1 :: rgn (2 ^ 48 - 4096) top) (p true) ∧ meets (lab .armed) 0x800 4 (1 :: rgn 0 (top + 0x3FFFF000)) (p true)) ∧
    meets (lab .armed) 0x800 4 [1023, 0, 0, 0] (fun t w => t.regionHeld 1023 = false ∧ bit (w 1) 63 = false) ∧
    meets (lab .armed) 0x801 1 [0] (fun t _ => t.regionHeld 0 = false) ∧
    meets (lab .running) 0x802 1 [0] (fun t _ => (look t.mem.regions 0).isSome) ∧ meets (lab .running) 0x802 1 [1023] (fun t _ => (look t.mem.regions 1023).isNone) ∧
    meets (lab .armed) 0x810 1 [2 ^ 48 - 2 ^ 30] (fun _ w => bits (w 0) 47 0 % 0x40000000 = 0) ∧ meets (lab .faultHalt) 0x820 0 [] ∧
    (lab .faultHalt).bar2Open = false ∧ (lab .running).bar2Open ∧ (lab .running).running = [] ∧
    (let s := with1 (launchAt 0 0) []; let t := { s with mem := { s.mem with wrote := [(0x4000000000, 8, 7)] } };
      t.running ≠ [] ∧ runsMeet (t.places [(0x10000004, 4)]) (usePlaces (t.live t.mem.wrote)) ∧
      runsMeet (t.places [(0x10000008, 4)]) (usePlaces (t.live t.mem.wrote)) = false) ∧
    fine ((writeM 0x10000000 [1]).go (lab .running)) ∧
    fine ((writeM 0 [1]).go (lab .running)) = false ∧ fine ((readM 0x10000000 8).go (lab .running)) ∧ fine ((readM 0x11000000 1).go (lab .running)) = false := by
  decide +kernel

/-- The BAR2 accesses of a closed and an open window complete or fault by the address alone; the fields of the region messages that
are refused. -/
theorem test_hyps_regions_refused :
    (let bad := fun (ws : List Nat) (p : Nat × Bool) => (meets (lab .armed) 0x800 4 (1 :: ws) (fun t w => t.regionHeld 1 = false && bit (w 1) 63 &&
        (regionChecks t 1 (w 1) (w 2) (w 3)).contains p));
      (bad (rgn 4 0x4000000000) (1, false) : Bool) ∧ bad [2 ^ 63 + 7 * 2 ^ 60 + 12 * 2 ^ 52, 0x4000000000, 0] (3, false) = true) ∧
    meets (lab .armed) 0x801 1 [5] (fun t _ => t.regionHeld 5 = false) ∧
    meets { lab .armed with boot := { (lab .armed).boot with packages := ({} : Boot).packages.set 0 (some { id := 0, version := 0, rootSlot := 2, rollback := 0, region := 5, va := 0, digest := 0, bytes := 4096, rd := false, wr := false, ls := false }) } }
      0x801 1 [5] (fun t _ => t.regionHeld 5) ∧
    meets (lab .armed) 0x810 1 [4096] (fun _ w => decide (bits (w 0) 47 0 % 0x40000000 ≠ 0)) := by decide +kernel

/-- BAR2_WRITE and BAR2_READ reach the region's memory (R341): the byte written at VA 0x1000_0001 is read back there. -/
theorem test_bar2 : (match exec (.bar2Write 0x10000001 [0xAB]) (lab .standby) with
    | .next t => (match exec (.bar2Read 0x10000000 3) t with
      | .next u => u.pins.lastRead == some (.bytes [0, 0xAB, 0])
      | _ => false)
    | _ => false) = true := by decide +kernel

/-- The premises of CommandsAreTestedInOrder. -/
theorem test_hyps_CommandsAreTestedInOrder :
    messageOf (.devEcho 32) = some (32, 9, 0) ∧ (lab .armed).front 32 = none ∧
    (talk (lab .armed) 8 [0, 0]).front 0 = some (cmd 8 [0, 0]) ∧ (cmd 8 [0, 0]).opcode ≠ 9 ∧ (cmd 0xFFF []).unsupported ∧ (cmd 9 []).unsupported = false ∧
    (talk (lab .running) 2 []).front 0 = some (cmd 2 []) ∧ (talk (lab .running) 2 []).allows 2 = false ∧
    (talk (lab .running) 9 (List.replicate 256 0)).allows 9 ∧ (cmd 9 (List.replicate 256 0)).len = 256 ∧
    messageOf (.devSetTimeout 0) = some (0, 8, 2) ∧ (talk (lab .running) 8 [0]).allows 8 ∧ (cmd 8 [0]).len < 2 := by decide +kernel

theorem test_hyps_MailboxRegisters :
    (let s := lab .running; s.boot.linkUp ∧ s.mailOpen ∧ s.keeperUp ∧ (s.chan 31).inBusy = false ∧ (s.chan 31).pending < 16 ∧ (s.chan 0).held = none ∧
      ((7 + 512 - (s.chan 0).outRd) % 512 ≤ (s.chan 0).fill) = False) ∧
    (let s := (lab .running).setChan 0 { queue := List.replicate 16 (cmd 9 []) }; (s.chan 0).pending = 16 ∧ (s.chan 0).inBusy = false) ∧
    (let s := (lab .running).setChan 0 { inBusy := true, outWr := 9, outRd := 500 }; (s.chan 0).inBusy ∧ (7 + 512 - (s.chan 0).outRd) % 512 ≤ (s.chan 0).fill) ∧
    ((lab .keeperBoot).mailOpen = false ∧ (lab .keeperBoot).boot.linkUp ∧ ((lab .keeperBoot).chan 0).held = none) ∧
    (let s := { lab .running with boot := { (lab .running).boot with member := true }, chain := { ({} : Chain) with ports := ({} : Chain).ports.set 0 { ({} : ChainPort) with state := .up } } };
      s.boot.member ∧ s.portUp 0 ∧ s.keeperUp ∧ (s.chan 32).pending < 16) ∧
    ((2040 : BitVec 11).toNat % 8 = 0 ∧ (2044 : BitVec 11).toNat % 4 = 0) ∧ (0xFFFFF : BitVec 20).toNat ∉ [0x1000, 0x2004, 0x2014] ∧
    (0x20000 : BitVec 20).toNat / 65536 ∉ [0, 1, 3, 9] ∧ goodForm 0x1001 4 = false ∧ goodForm 0x1004 8 = false ∧ goodForm 0x1000 8 ∧
    isChStatus 0x104 ∧ isChStatus 0x108 = false := by decide +kernel

/-- A completion that waits, with a command behind it; its header goes to the ring (R355), the channel is free (R360). -/
def waiting1 (w : Wait) : State :=
  (lab .running).setChan 3 { ({} : Channel) with await := some { cmd := cmd 9 [], begunAt := 0, status := 0, arg := 0xFFFF, resp := [5], wait := w, counted := true }, queue := [cmd 8 []] }

theorem test_hyps_CompletionsAndTimeouts :
    (let s := waiting1 (.launches [7]); s.keeperUp ∧ ((s.chan 3).await.map fun a => s.waitOver a.wait && (s.sendCompletion 3 a).isSome) = some true) ∧
    (let s := { waiting1 (.retrain 1) with chain := { ({} : Chain) with ports := ({} : Chain).ports.set 1 { ({} : ChainPort) with state := .training } } };
      ((s.chan 3).await.map fun a => s.waitOver a.wait) = some false ∧ (s.chan 3).outbox = []) ∧
    (let s := waiting1 (.engine 0); s.engineDone (.engine 0) = true ∧ s.engineDone (.engine (s.time.counter + 1)) = false ∧ ((s.chan 3).await.map fun a => ((s.engineAnswer 3 a).chan 3).await.isSome) = some true) ∧
    (let s := waiting1 (.chain (.forward (some [1]))); s.waitOver (.chain (.forward (some [1]))) = true ∧
      ((s.chainAnswer 3 { cmd := cmd 9 [], begunAt := 0, status := 0, arg := 0xFFFF, resp := [5], wait := .chain (.forward (some [1])), counted := true } (.forward (some [1]))).chan 3).await.isSome) ∧
    (let s := { waiting1 .room with time := { ({} : Time) with counter := 60000 * cycMs } };
      (s.chan 3).queue.find? (fun d => (s.chan 3).expired d s.time.counter) = some (cmd 8 [])) ∧
    (let s := waiting1 .room; (s.chan 3).queue.all fun d => decide (s.time.counter < d.acceptedAt + (s.chan 3).waitMs * cycMs)) := by decide +kernel

theorem test_hyps_DeviceMessages :
    meets (lab .fog) 0 0 [] ∧ meets (lab .faultHalt) 1 0 [] ∧ meets (lab .standby) 2 0 [] ∧ meets (lab .armed) 3 0 [] ∧
    meets (lab .fog) 4 0 [] (fun t _ => t.faults.causes = []) ∧
    meets { lab .fog with faults := { ({} : Faults) with causes := [(.mem, 0)] } } 4 0 [] (fun t _ => t.faults.causes ≠ []) ∧
    meets (lab .running) 4 0 [] ∧ meets (lab .armed) 5 0 [] ∧ meets (lab .standby) 6 0 [] ∧
    meets (lab .running) 7 1 [12 + 31 * 2 ^ 16] (fun _ w => bits (w 0) 3 0 ≤ 12) ∧
    meets (lab .running) 8 2 [31, 60000] (fun _ w => decide (1 ≤ bits (w 1) 31 0 ∧ bits (w 1) 31 0 ≤ 60000)) ∧
    meets (lab .running) 9 0 (List.replicate 254 1) ∧ meets (lab .running) 9 0 (List.replicate 255 1) := by decide +kernel

/-- DEV_SET_TIMEOUT of channel 31 to 1 ms changes that channel only (R364). -/
theorem test_set_timeout : after (.devSetTimeout 0) (talk (lab .armed) 8 [31, 1]) (fun t =>
    (t.chan 31).waitMs == 1 && (t.chan 30).waitMs == (lab .armed).criser.ch[(30 : Fin 33)].waitMs) = true := by decide +kernel

/-- A device whose two chain ports are in one state; a member or a lead. -/
def chainLab (p : ChainPort) (member : Bool := true) (st : DevState := .running) : State :=
  let s := lab st
  { s with boot := { s.boot with member := member }
           chain := { s.chain with ports := Vector.replicate 2 p, enumerated := true, len := 64, pos := some 3
                                   exch := some { t1 := 0, stale := false, disturbed := false } }
           time := { s.time with source := .chainUp, line := 1000000 * 281474976710656 } }
def eight (used : Bool := false) (bad : BitVec 9 := 0) : Lanes := { active := 255, spareUsed := used, spareLane := 8, bad := bad }
def flit1 : Flit := { cls := 0, data := [], carries := none }
def upPort (used : Bool := false) (lanes : Nat := 8) (bad : BitVec 9 := 0) : ChainPort :=
  { state := .up, lanes := lanes, dirs := Vector.replicate 2 (eight used bad), replay := [flit1] }
def lanes8 : LaneTraining := { spare := 8, skew := [] }

theorem test_hyps_ChainLinks :
    (let s := chainLab { state := .training }; (s.port 1).state = .training ∧ (s.port 1).retrain = false) ∧
    (let s := { chainLab upPort with chain := { (chainLab upPort).chain with pos := none } }; (s.port 0).state = .up ∧ s.chain.pos = none) ∧
    (let d := (Vector.replicate 2 {} : Vector Lanes 2); trainedPort d ⟨0, 0, lanes8, lanes8⟩ = (Vector.replicate 2 (eight false 0), 8)) ∧
    (let d := (Vector.replicate 2 { bad := 1 } : Vector Lanes 2); (trainedPort d ⟨0, 0, lanes8, lanes8⟩).2 = 8 ∧ d[0].bad ≠ 0) ∧
    (let d := (Vector.replicate 2 { bad := 3 } : Vector Lanes 2); (trainedPort d ⟨0, 0, lanes8, lanes8⟩).2 = 4) ∧
    (let s := chainLab { state := .training, retrain := true, attempts := 3, waiting := [flit1] };
      (s.port 0).state = .training ∧ (s.port 0).retrain ∧ 3 ≤ (s.port 0).attempts) ∧
    (let s := chainLab { state := .training, retrain := true, attempts := 2 }; (s.port 0).attempts < 3) ∧
    (let s := chainLab { upPort with wantsImage := true } false;
      let t := { s with boot := { s.boot with flash := #v[[1], []], fw := some { version := 1, rootSlot := 0, rollback := 0, digest := 0, slot := 0 } } };
      t.bootBytes.isSome ∧ (t.port 1).state = .up ∧ (t.port 1).wantsImage) ∧ State.reset.bootBytes = none ∧
    (let p := upPort; p.state = .up ∧ p.dirs[0].active.getLsbD 0 ∧ p.dirs[0].active.getLsbD 8 = false ∧ p.dirs[1].spareFree ∧
      p.dirs[0].bad.getLsbD 0 = false) ∧
    (let p := upPort true; p.dirs[1].active.getLsbD 7 ∧ p.dirs[1].spareFree = false ∧ p.lanes = 8) ∧
    (let p := upPort true 4; p.dirs[0].spareFree = false ∧ p.lanes ≠ 8 ∧ p.dirs[0].active.getLsbD 1) ∧
    (upPort true 8 1).dirs[0].bad.getLsbD 0 ∧
    (let x : Subst := { cls := 4, unit := 17, dir := 1 }; let l := at_ (upPort).dirs x.dir {}; x.unit = 16 * 1 + 1 ∧ l.active.getLsbD 1 ∧ l.spareFree) ∧
    (let s := chainLab { wasDown := true }; (s.port 0).state = .down ∧ (s.port 0).wasDown ∧ s.chainUp ∧ s.boot.member) ∧
    (let s := chainLab upPort; s.portUp 1 ∧ 0 < (s.port 1).replay.length ∧ (s.port 1).replay.length ≤ 1) ∧
    flit1.data.length ≤ 240 := by decide +kernel

/-- A flit has 256 bytes; its payload lies behind the header. -/
theorem test_flit : let f : Flit := { cls := 2, data := [7, 8], carries := none }; (f.sent 0 0).image.length = 256 ∧
    ((f.sent 0 0).image.drop 8).take 2 = [7, 8] := by decide +kernel

theorem test_hyps_ChainTimeTransfer :
    (let s := chainLab upPort; s.boot.member ∧ s.time.source = .chainUp ∧ s.portUp 0 ∧ s.portUp 1 ∧ s.keeperUp ∧
      s.time.line / (1000000 * 281474976710656) ≠ s.chain.lastMs ∧ s.position ≠ none ∧
      s.chain.exch = some { t1 := 0, stale := false, disturbed := false } ∧ s.chain.upDelay = 0) ∧
    (lab .running).chain.exch = none ∧ (0 : Nat) ≤ 1792000 := by decide +kernel

/-- Whenever the reply comes within its keeper cycle, some t2 and t3 keep the exchange and some do not (R382). -/
theorem test_hyps_ChainTimeTransfer_limit (n : Nat) :
    let t4 := (chainLab upPort).rxStamp 0 n
    ((131072 - 0) + (t4 - t4) - 2 * (0 : Int)).natAbs ≤ 131072 ∧ ((131073 - 0) + (t4 - t4) - 2 * (0 : Int)).natAbs > 131072 := by
  simp

def found1 : MemberInfo := { number := 7, lpddrGib := 64, state := 5, cause := 1 }

theorem test_hyps_ChainMessages :
    meets (lab .faultHalt) 0x900 0 [] ∧ meets (chainLab upPort true .standby) 0x901 0 [] (fun t _ => t.boot.member) ∧
    meets (chainLab upPort false .standby) 0x901 0 [] (fun t _ => t.boot.member = false ∧ (t.port 1).state ≠ .down ∧ [found1].take 63 = [found1]) ∧
    (let s := chainLab { state := .training } false .standby; meets s 0x901 0 [] (fun t _ => t.downHeld) ∧ s.boot.member = false) ∧
    meets (chainLab { state := .training } false) 0x902 2 [1, 0x004 * 2 ^ 52] (fun t _ => t.downHeld ∧ t.chain.enumerated ∧ 1 < t.chain.len) ∧
    (let s := chainLab upPort; s.boot.member ∧ s.keeperUp ∧ s.portUp 0 ∧ s.chain.pos ≠ none) ∧ (lab .running).boot.member = false ∧
    meets (lab .running) 0x902 2 [1, 0] (fun t _ => t.chain.enumerated = false) ∧
    meets (chainLab upPort false) 0x902 2 (63 :: (0x009 * 2 ^ 52 + 252 * 2 ^ 32) :: List.replicate 252 0) (fun t w => decide (t.boot.member = false ∧ t.chain.enumerated ∧
      1 ≤ bits (w 0) 5 0 ∧ bits (w 0) 5 0 < t.chain.len ∧ bits (w 1) 47 32 ≤ 252 ∧ bits (w 1) 63 52 = 9 ∧ 1 + bits (w 1) 47 32 < 254 ∧ (t.port 1).state ≠ .down)) ∧
    meets (chainLab {} false) 0x902 2 (1 :: (0x004 * 2 ^ 52 + 253 * 2 ^ 32) :: List.replicate 253 0) (fun t w => decide (bits (w 0) 5 0 < t.chain.len ∧ bits (w 1) 47 32 ≤ 253 ∧
      bits (w 1) 63 52 ≠ 9 ∧ 1 + bits (w 1) 47 32 < 255 ∧ (t.port 1).state = .down)) ∧
    meets (chainLab upPort false) 0x902 2 [64, 0] (fun _ w => bits (w 0) 5 0 = 0) ∧
    meets (chainLab upPort false) 0x902 2 [1, 0x009 * 2 ^ 52 + 253 * 2 ^ 32] (fun _ w => decide (252 < bits (w 1) 47 32)) ∧
    meets (chainLab upPort false) 0x902 2 [1, 2 ^ 32] (fun _ w => bits (w 1) 47 32 = 1) ∧
    meets (chainLab upPort true .armed) 0x903 1 [1] (fun t w => (t.port (bits (w 0) 0 0)).state = .up) ∧
    meets (chainLab {} true .armed) 0x903 1 [0] (fun t w => (t.port (bits (w 0) 0 0)).state = .down) ∧
    meets (chainLab { state := .training } true .armed) 0x903 1 [0] (fun t w => (t.port (bits (w 0) 0 0)).state = .training) ∧
    meets (lab .standby) 0x904 1 [65535] ∧
    (let s := chainLab upPort false; s.boot.member = false ∧ s.chain.enumerated ∧ (63 : BitVec 6).toNat < s.chain.len ∧ s.portUp 1 ∧
      bits (wAt [pack [(0x9F0, 63, 52)], 0x102] 0) 63 52 = 0x9F0 ∧ bits (wAt [pack [(0x9F0, 63, 52)], 0x102] 1) 7 0 = 2 ∧
      bits (wAt [pack [(0x9F0, 63, 52)], 0x102] 1) 8 8 = 1) := by decide +kernel

/-- A reset, boot and time of the always-on domain. -/
def booted (st : DevState) (f : Boot → Boot) : State := let s := lab st; { s with boot := f { s.boot with aon := 2000 * cycMs } }

theorem test_hyps_ResetCauses :
    (State.reset.boot.causeAt = none) ∧
    (let b := { ({} : Boot) with cause := 6, causeAt := some 0 }; b.causeAt = some b.refCycle ∧ causeRank b.cause.toNat < causeRank 5 ∧ causeRank 6 ≤ causeRank b.cause.toNat) ∧
    State.reset.boot.resetN = false ∧ (lab .running).boot.resetN ∧
    (let s := booted .keeperBoot fun b => { b with watchdogOn := true, wdCount := 2, wdFrom := some 0 }; s.bootArmed ∧ s.boot.wdFrom = some 0 ∧
      0 + 2000 * cycMs ≤ s.boot.aon) ∧
    (booted .optionLoad fun b => { b with wdDisarmed := true }).bootArmed = false ∧
    (let s := booted .optionLoad fun b => { b with wdFrom := some 1 }; s.boot.wdFrom = some 1 ∧ s.boot.aon < 1 + 2000 * cycMs) ∧
    (let s := booted .fog fun b => { b with openAt := 1940 * cycMs }; s.mailOpen ∧ s.boot.openAt ≤ 1950 * cycMs ∧
      1950 * cycMs + 50 * cycMs ≤ s.boot.aon ∧ at_ s.faults.stopAt 0 none = none) ∧
    (let s := booted .fog fun b => { b with openAt := 1940 * cycMs }; let t := { s with faults := { s.faults with stopAt := #v[some (1950 * cycMs), none] } }
      at_ t.faults.stopAt 0 none = some (1950 * cycMs) ∧ 1950 * cycMs + 50 * cycMs ≤ t.boot.aon ∧ s.boot.aon < 1990 * cycMs + 1 + 10 * cycMs) ∧
    (lab .keeperBoot).mailOpen = false ∧
    (let s := { lab .armed with dev := { (lab .armed).dev with resetAt := some (0, false) }, time := { ({} : Time) with counter := 10 * cycMs } };
      s.dev.resetAt = some (0, false) ∧ 0 + 10 * cycMs ≤ s.time.counter) ∧
    (let s := { lab .armed with dev := { (lab .armed).dev with resetAt := some (1, true) }, time := { ({} : Time) with counter := 10 * cycMs } };
      s.time.counter < 1 + 10 * cycMs) ∧ (lab .armed).dev.resetAt = none := by decide +kernel

/-- A device in DARK with everything that can hold it given. -/
def dark (resetN therm : Bool) (rails : List Rail) (up : Bool := false) (seq : Bool := true) (aon : Nat := 10 * cycMs) : State :=
  let s := lab .dark
  { s with boot := { s.boot with resetN := resetN, thermHold := therm, railsOut := rails, dom := Vector.replicate 5 { up := up }, sequence := seq
                                 noLockRun := 3, aon := aon, causeAt := some (10 * cycMs * 5 / 256) } }
def lost (st : DevState) (at_ : Nat) (late : Bool) : State :=
  let s := lab st
  { s with boot := { s.boot with dom := Vector.replicate 5 { up := false, lostAt := some at_, late := late } }
           time := { s.time with counter := 10 * cycMs }, mem := { s.mem with reachable := false } }

theorem test_hyps_ClockDomains :
    ((dark false false []).boot.resetN = false ∧ (dark true false []).boot.railsOut = [] ∧ (dark true false []).boot.thermHold = false ∧
      (dark true false []).boot.heldDark = false ∧ (dark true false []).dev.state = .dark) ∧
    ((dark true false [.vddIo]).boot.railsOut ≠ [] ∧ (dark true false [.vddIo]).boot.railsAt + cycMs ≤ (dark true false [.vddIo]).boot.aon) ∧
    ((dark true true [] false true cycSec).boot.thermHold ∧ (dark true true []).boot.thermAt + cycSec ≤ (dark true true [] false true cycSec).boot.aon) ∧
    (dark true true [] false true 5).boot.aon < cycMs ∧
    (let s := dark true false []; s.boot.sequence ∧ s.dev.state = .dark ∧ (s.dom .sensor).up = false ∧ 5 * s.boot.pllAt + 4096 * 256 ≤ 5 * s.boot.aon ∧
      s.boot.noLockRun ≠ 0 ∧ s.boot.causeAt = some s.boot.refCycle ∧ 4 ≤ s.boot.noLockRun + 1) ∧
    (let s := dark true false [] false true (11 * cycMs); s.boot.causeAt ≠ some s.boot.refCycle ∧ s.boot.pllAt + 10 * cycMs ≤ s.boot.aon) ∧
    (dark true false [] false false).boot.sequence = false ∧
    (let s := { dark true false [] true with boot := { (dark true false [] true).boot with dom := (dark true false [] true).boot.dom.set 4 {} } };
      (s.dom .sensor).up = false ∧ ([Domain.core, .mem, .svc, .chain].all fun e => (s.dom e).up)) ∧
    ((lab .running).dom .core).up ∧ ((lab .running).dom .mem).up ∧ ((dark true false []).dom .core).up = false ∧ (((lab .running).dom .mem).lostAt = none) ∧
    (let s := lost .running 0 false; (s.dom .mem).lostAt = some 0 ∧ (s.dom .mem).late = false ∧ 0 + 10 * cycMs ≤ s.time.counter ∧ s.mem.reachable = false ∧
      5 * 0 + 4096 * 256 ≤ 5 * s.time.counter) ∧
    ((lost .running 0 true).dom .sensor).late ∧ (lost .running 1 false).time.counter < 1 + 10 * cycMs ∧ (lab .running).mem.reachable := by decide +kernel

/-- Test vectors of the standards that ch. 16 names: FIPS 180-4 for the digests of "abc", RFC 6979 A.2.6 for a signature of
"sample" with SHA-384. -/
theorem test_sha384 : sha384 [0x61, 0x62, 0x63] =
    0xcb00753f45a35e8bb5a03d699ac65007272c32ab0eded1631a8b605a43ff5bed8086072ba1e7cc2358baeca134c825a7#384 := by decide +kernel
theorem test_sha256 : sha256 [0x61, 0x62, 0x63] = beBytes 32 0xba7816bf8f01cfea414140de5dae2223b00361a396177a9cb410ff61f20015ad := by
  decide +kernel
theorem test_ecdsa : ecdsaSign 0x6B9D3DAD2E1B8C1C05B19875B6659F4DE23C3B667BF297BA9AA47740787137D896D5724E4C70A825F872C9EA60D2EDF5
    (sha384 [0x73, 0x61, 0x6D, 0x70, 0x6C, 0x65]).toNat =
    beBytes 48 0x94EDBB92A5ECB8AAD4736E56C691916B3F88140666CE9FA73D64C4EA95AD133C81A648152E44ACF96E36DD1E80FABE46 ++
    beBytes 48 0x99EF4AEB15F178CEA1FE40DB2603138F130E740A19624526203B6351D0A3A94FA329C145786E679E7B82C71A38628AC8 := by decide +kernel

/-! ### SHA-256 for evaluation

The same rounds over numbers, so that the kernel computes the hashes of a whole LMS signature in time; equal to the model's. -/

def rot3 (i j k x : Nat) : Nat :=
  let y := Nat.mul x 4294967297
  Nat.mod (Nat.xor (Nat.xor (Nat.shiftRight y i) (Nat.shiftRight y j)) (Nat.shiftRight y k)) 4294967296
def rot2 (i j k x : Nat) : Nat :=
  let y := Nat.mul x 4294967297
  Nat.mod (Nat.xor (Nat.xor (Nat.shiftRight y i) (Nat.shiftRight y j)) (Nat.shiftRight x k)) 4294967296
def sum1 (k w e f g h : Nat) : Nat :=
  Nat.add (Nat.add (Nat.add (Nat.add h (rot3 6 11 25 e)) (Nat.xor g (Nat.land e (Nat.xor f g)))) k) w
def sum0 (a b c : Nat) : Nat := Nat.add (rot3 2 13 22 a) (Nat.lor (Nat.land a b) (Nat.land c (Nat.lor a b)))

def fastRounds : List Nat → Nat → Nat → Nat → Nat → Nat → Nat → Nat → Nat → Nat → Nat → Nat → Nat → Nat → Nat → Nat → Nat →
    Nat → Nat → Nat → Nat → Nat → Nat → Nat → Nat → List Nat
  | [], _, _, _, _, _, _, _, _, _, _, _, _, _, _, _, _, a, b, c, d, e, f, g, h => [a, b, c, d, e, f, g, h]
  | k :: ks, w0, w1, w2, w3, w4, w5, w6, w7, w8, w9, w10, w11, w12, w13, w14, w15, a, b, c, d, e, f, g, h =>
    fastRounds ks w1 w2 w3 w4 w5 w6 w7 w8 w9 w10 w11 w12 w13 w14 w15
      (Nat.mod (Nat.add (Nat.add (Nat.add w0 (rot2 7 18 3 w1)) w9) (rot2 17 19 10 w14)) 4294967296)
      (Nat.mod (Nat.add (sum1 k w0 e f g h) (sum0 a b c)) 4294967296) a b c (Nat.mod (Nat.add d (sum1 k w0 e f g h)) 4294967296) e f g

theorem rot3_eq (i j k x : Nat) : shaTurns false i j k x = rot3 i j k x := rfl
theorem rot2_eq (i j k x : Nat) : shaTurnsShift false i j k x = rot2 i j k x := rfl
theorem fastRound_eq (k w a b c d e f g h : Nat) : shaRound false k w [a, b, c, d, e, f, g, h] =
    [Nat.mod (Nat.add (sum1 k w e f g h) (sum0 a b c)) 4294967296, a, b, c, Nat.mod (Nat.add d (sum1 k w e f g h)) 4294967296, e, f, g] := by
  simp only [shaRound, rot3_eq, Bool.false_eq_true, if_false]
  rfl
theorem fastNext_eq (w0 w1 w2 w3 w4 w5 w6 w7 w8 w9 w10 w11 w12 w13 w14 w15 : Nat) :
    shaNext false [w0, w1, w2, w3, w4, w5, w6, w7, w8, w9, w10, w11, w12, w13, w14, w15] =
    Nat.mod (Nat.add (Nat.add (Nat.add w0 (rot2 7 18 3 w1)) w9) (rot2 17 19 10 w14)) 4294967296 := by
  simp only [shaNext, rot2_eq, Bool.false_eq_true, if_false]
  rfl

theorem fastRounds_eq : ∀ (ks : List Nat) (w0 w1 w2 w3 w4 w5 w6 w7 w8 w9 w10 w11 w12 w13 w14 w15 a b c d e f g h : Nat),
    shaRounds false ks [w0, w1, w2, w3, w4, w5, w6, w7, w8, w9, w10, w11, w12, w13, w14, w15] [a, b, c, d, e, f, g, h] =
    fastRounds ks w0 w1 w2 w3 w4 w5 w6 w7 w8 w9 w10 w11 w12 w13 w14 w15 a b c d e f g h := by
  intro ks
  induction ks with
  | nil => intros; rfl
  | cons k ks ih =>
    intros
    unfold shaRounds fastRounds
    simp only [List.tail_cons, List.cons_append, List.nil_append, List.getD_cons_zero, fastRound_eq, fastNext_eq]
    exact ih ..

/-- The constants of SHA-256. -/
def shaK256 : List Nat := (shaK.take 64).map (· >>> 32)

def fastBlock (st : List Nat) (block : List Byte) : List Nat :=
  match st, (List.range 16).map fun i => beNat ((block.drop (i * 4)).take 4) with
  | [a, b, c, d, e, f, g, h], [w0, w1, w2, w3, w4, w5, w6, w7, w8, w9, w10, w11, w12, w13, w14, w15] =>
    List.zipWith (fun a b => Nat.mod (Nat.add a b) 4294967296) [a, b, c, d, e, f, g, h]
      (fastRounds shaK256 w0 w1 w2 w3 w4 w5 w6 w7 w8 w9 w10 w11 w12 w13 w14 w15 a b c d e f g h)
  | st, _ => shaBlock false st block

theorem fastBlock_eq (st : List Nat) (block : List Byte) : shaBlock false st block = fastBlock st block := by
  unfold fastBlock
  split
  · rename_i h
    unfold shaBlock
    simp only [shaBytes, Bool.false_eq_true, if_false]
    rw [h, fastRounds_eq]
    rfl
  · rfl

def fastBlocks : Nat → List Byte → List Nat → List Nat
  | 0, _, st => st
  | k + 1, bs, st => fastBlocks k (bs.drop 64) (fastBlock st bs)
theorem fastBlocks_eq : ∀ k bs st, shaBlocks false k bs st = fastBlocks k bs st
  | 0, _, _ => rfl
  | k + 1, bs, st => by unfold shaBlocks fastBlocks; rw [fastBlock_eq]; exact fastBlocks_eq k _ _

def fast24 (bs : List Byte) : List Byte :=
  let p := shaPad false bs
  ((fastBlocks (p.length / 64) p
    [0x6a09e667, 0xbb67ae85, 0x3c6ef372, 0xa54ff53a, 0x510e527f, 0x9b05688c, 0x1f83d9ab, 0x5be0cd19]).map (beBytes 4)).flatten.take 24
theorem fast24_eq (bs : List Byte) : hash24 bs = fast24 bs := by
  unfold hash24 sha256 sha fast24
  rw [fastBlocks_eq]
  rfl

def fastChain (idq : List Byte) (i : Nat) : Nat → Nat → List Byte → List Byte
  | 0, _, x => x
  | k + 1, j, x => fastChain idq i k (j + 1) (fast24 (idq ++ (beBytes 2 i ++ (beBytes 1 j ++ x))))
theorem fastChain_eq (idq : List Byte) (i : Nat) : ∀ k j x, otsChain idq i k j x = fastChain idq i k j x
  | 0, _, _ => rfl
  | k + 1, j, x => by unfold otsChain fastChain; rw [fast24_eq]; exact fastChain_eq idq i k _ _

def fastUp (id : List Byte) : List (List Byte) → Nat → List Byte → List Byte
  | [], _, x => x
  | y :: r, n, x =>
    fastUp id r (n / 2) (fast24 (id ++ (beBytes 4 (n / 2) ++ ([0x83, 0x83] ++ if n % 2 = 1 then y ++ x else x ++ y))))
theorem fastUp_eq (id : List Byte) : ∀ ys n x, lmsUp id ys n x = fastUp id ys n x
  | [], _, _ => rfl
  | y :: r, n, x => by unfold lmsUp fastUp; rw [fast24_eq]; exact fastUp_eq id r _ _

def fastRoot (id msg sig : List Byte) : List Byte :=
  let q := beNat (sig.take 4)
  let idq := id ++ sig.take 4
  let ends := List.zipWith (fun (x : Nat × Nat) y => fastChain idq x.1 (15 - x.2) x.2 y)
    ((otsDigits (fast24 (idq ++ ([0x81, 0x81] ++ ((sig.drop 8).take 24 ++ msg))))).zipIdx.map fun x => (x.2, x.1)) (pieces24 51 (sig.drop 32))
  fastUp id (pieces24 20 (sig.drop 1260)) (2 ^ 20 + q)
    (fast24 (id ++ (beBytes 4 (2 ^ 20 + q) ++ ([0x82, 0x82] ++ fast24 (idq ++ ([0x80, 0x80] ++ ends.flatten))))))
theorem fastRoot_eq (id msg sig : List Byte) : lmsRoot id msg sig = fastRoot id msg sig := by
  unfold lmsRoot fastRoot otsMessage otsKey lmsLeaf
  simp only [fastUp_eq, fast24_eq, fastChain_eq]

/-- An LMS signature verifies, as computed by the rounds above. -/
theorem lms_of_fast (b : List Byte) (h : (let key := imgSlice b 225 48; let sig := imgSlice b (288 + 48 * imgChunks b + 96) 1740
    key.take 8 == beBytes 4 lmsType ++ beBytes 4 otsType && decide (beNat (sig.take 4) < 2 ^ 20) &&
      (sig.drop 4).take 4 == beBytes 4 otsType && (sig.drop 1256).take 4 == beBytes 4 lmsType &&
      fastRoot ((key.drop 8).take 16) (imgSigned b) sig == key.drop 24) = true) : lmsOk b = true := by
  unfold lmsOk lmsVerify
  rw [fastRoot_eq]
  exact h

/-- The header of an image without chunks: its type, root-key slot, anti-rollback value and version. -/
def head1 (typ root roll ver : Nat) : List Byte :=
  wordBytes [pack [(0x53564346, 63, 32), (1, 31, 24), (typ, 23, 16), (root, 9, 8), (roll, 6, 0)], wd ver, 0, 0, 2128, 9] ++ List.replicate 80 0
/-- A key record, made for these tests, and its SHA-384. -/
def imageKey : List Byte := beBytes 60 0x04bfd152465458e5b9f1a903eafef03095ebfd52c5f9ea97be74de9194355fcfb40ec097315adf6afdefba21f44b625b4817058eff9a1ad175a4675e ++ (
  beBytes 60 0x9c730cb028ec76aec544f7a56d58164d8cfc0402b489c4e74c918dc3a77f5c219d31b8e2450000000d00000007000102030405060708090a0b0c0d0e ++ (
  beBytes 40 0x0f5ffba2e84e9a98d334a8ca92d13ee6ec3ad0068c2a770440000000000000000000000000000000))
def keyHash1 : BitVec 384 := 0xd0048a02aba3c7e55a8ade2d87a67f4974aec389d8034980293bbff562bb88c44d32423f539bd7fec3dbd52c17a1c14e#384
/-- The signatures of `head1 1 0 3 2` and of `head1 2 2 3 2` with their keys, and the images. -/
def sigA : List Byte := beBytes 60 0xab5deaa54da9164dbd83116fb10cbe238269ed9edd1f1b846dd89f8ee11eca235cb7d6835437714ca0210b8b2a36c2a605d553f8b22e1322432608f2 ++ (
  beBytes 60 0xf6a93b0f76c1fa7516fad7157e99bfe158ab620afa24c360d97ad3a2b7f4e9fca610b904000000000000000700000000000000010000000000000000 ++ (
  beBytes 60 0x0000000001c17859721d971a226508c1dceea477c26ce1ef7690a034eaed1ba4ab34cd70e15e7fb2ce8de694d8cee34e943b2faa2a7651408e583d0f ++ (
  beBytes 60 0xb0f57d16f79b0129aed09351b6a014520e1f851b7090fec5920cf6dba08b548c71985924dd20120a4e8cb8f350b5567b867445e904d51775e165f34d ++ (
  beBytes 60 0x528ee9b75930be8c30b10697f558c3938186944dbdcaeee1d3dcb7f58f0cb198d960b379fb0335d09bdb56da8d799e49f799a28fab4d6420eada03a0 ++ (
  beBytes 60 0x9b70047760c3c85e0eb26fb494ce5ee479a70d0c80668b2d030ff9639257531dcac2bb64686f30845a8c33a288c6c9da0879faec83ec2653d7217952 ++ (
  beBytes 60 0x64b156f89ef0721b61012167998b7fd50a128849d7b6a0a24418870465bb303828168b4bec5803029f81a2618600f652a0e1da2298e3d8b17957aa39 ++ (
  beBytes 60 0x0b71714df72a8addb4cdffa81118aade15fe22988bc4f01b9b3b3ee34a3275755230132d0ebe0579788e962a89aab8d4f14e6a01be3aa97edf924567 ++ (
  beBytes 60 0xbe3256937bc9fcf5675973051a7249e870a9e3785de4d4b000c08fc5cec700ffc8921a58032b6afa42953d8547adb2e938df8ed1279d5cfb52289581 ++ (
  beBytes 60 0x5300cab777010e8e37c579a905554080248c092b1e92e8716652709cc667f6b28f0976d5e04048cdda215b90fb9ba144e2c9a30fd64c000b92c6dc95 ++ (
  beBytes 60 0x19d4bf5ea92f7fb66ad349c75868ee4c00583e5676c28f03f1a049fd56c9ecab309f6b205915e5b672b35b31c0b2070293bea2792fca58f0ddb0e39d ++ (
  beBytes 60 0xfd997d918ba0e0f182ac2e94d003b449c5e796a42377dd539f30c72f5684e1c5c34e4dd464614c4b36933f6994caf3a9e2cb249b0ee528dec4b3ec25 ++ (
  beBytes 60 0x2eb1c6bbb79dc89c924b000356526306e751ad845d777155480af687182a3914d973c05fc23a19d71fa4b865b122a2cec7f696830a2050ea56531394 ++ (
  beBytes 60 0xa4af5525a9e8b5325221a75e306fd52ca0b0aad987509a443c38c3f7e04f13b404caf20519d2db89cae34aa90d03d5eabfe8c9a23d4add1465f60a75 ++ (
  beBytes 60 0x5d387d13d3f13d9490cd3fcdfa2765f3cbdbe171993f06cd6b43b681d53c7d36019b0d4a9e67480c15c19a619befc9d9ce12ca57b71ba682ce479816 ++ (
  beBytes 60 0x645b4f07ae1f59274fde79a92c4afdeaf2d28f7ed7a174790f2d8ac3158627058d3ed435ad48a2f2fa03003a3075f98d858317e5b73203c1a075a556 ++ (
  beBytes 60 0x54abe4f2ae5978651f4703c9baac08f470e48aaebfdf1a80389cc2a6a11e1fcc7925355f065bad74db3776da0f684c83efa12b951994ef42fdb32daf ++ (
  beBytes 60 0xcdd255be2e0e25099a58f3ac1a78fa9c4cde36bdc0b786b51c474a49abf564eedb4a53c4df3e45e1e95c61a5e57eb9f855b84102da074245a368ed0c ++ (
  beBytes 60 0xc0ef9e90f81f4dbed833782d69cc5143047126cf8c29412f0edf1e196f0a953bce484f64cd73f358f2fc29d7439b648575223ee29a4b873dc6fca71a ++ (
  beBytes 60 0xc05e46c5b7b545eb688eb424dee475ad2408fdade05f920b3007b7dc40d3126dc0296443da830036ccfb71f8ef1b8ad5545ecd403f6526b221742219 ++ (
  beBytes 60 0xfb7b31e035855ded811581011841970f8288fefe21bfe5379d320fc6736d757ac8ab75194dbb971bb6f7491db81b0f5273d99f4a13ccb72a232dba52 ++ (
  beBytes 60 0xa4c7a68bbb39899c43236eebd8db1c005500aaffc7438765d523a62ca59ba142df9b7ac9d339224eebb4a04a3ef6a3bb3a6fc6689742f9685c022c8a ++ (
  beBytes 36 0x9c24fee157b06ff6962706b5d0846f3bd8198840fdad814263d4096d2d106cf70000000d))))))))))))))))))))))
def sigB : List Byte := beBytes 60 0xab5deaa54da9164dbd83116fb10cbe238269ed9edd1f1b846dd89f8ee11eca235cb7d6835437714ca0210b8b2a36c2a6d8e45755f5d6deb714da46a8 ++ (
  beBytes 60 0xa8db4961cebeea43ad322e33dc23d14cce0c124a6c358e0bebf5e27fc867e52903adb95a000000000000000700000000000000010000000000000000 ++ (
  beBytes 60 0x0000000002213413049f48ed71e95e5e6d77eb082588af4b36d489ce80a6c2b7744bc0a0d0649fc9e86e0f82b4e21f16975d7e2dc6bc509c735fdc6f ++ (
  beBytes 60 0xeabfeeb26cb4874370a1421a57d14e8d6cd8178ae27378f3ae39eee50086c6ef24dc04c74d5c8839a168bb1655218d24321adfa2e322a27b6fcb8baf ++ (
  beBytes 60 0x1ff95562c49d2cb47f88d3c5e26e1509a9c310b6e8fca214fe12f6d28b72e7de0d304c561fc4701475044e5758383e539829a727eb7dce03eada03a0 ++ (
  beBytes 60 0x9b70047760c3c85e0eb26fb494ce5ee479a70d0c7d184e80c1104e502d59b723fd9d74738edfe5c1498e25a4bad97667c617b06e725b9e4d1bb86e05 ++ (
  beBytes 60 0x4986449607880cb93c63ddbb4a62f404c04da6a60d8e3b5124b0f8e37b41778641b1b099988f1df26b063870df10c079b57c2b18aeba3c877957aa39 ++ (
  beBytes 60 0x0b71714df72a8addb4cdffa81118aade15fe22984adacd77117eab7731535ac2a5cadc794898026e2c0df6e457867f583c90771e1ed3b92925d12fa3 ++ (
  beBytes 60 0x3903eebc6a55a430d08eb00793e4763e9d3446251304a94c4fbc0163879f6eb68ca20b53da994693d1247f87826d90fbb00613539364be2df3dc76d6 ++ (
  beBytes 60 0x366f123b2e621575591548aefc7daac1ac62db444012e36ba396f7630e074e02759ef061e293b61327272e0bad760831d415697f59e6eb4e890d2448 ++ (
  beBytes 60 0xc37febde70904051121eea72f4eec681e9d4f5ac030fa9af739bbbf8189830fa9d360d92aa8118825a2d5d123978eed2ebcbf18240fa13fcd1e3551c ++ (
  beBytes 60 0xbd561eaa831aee114ab430927bf92ef230c81c18ebeae2fa62c676d0f9461a981d67afc9fef443d872fd0f8be074f2f1304f7ee490f0595d8e32b35c ++ (
  beBytes 60 0x91c7b5d72fd56a03ab02bdafafe56a4ef1c6f463f242c4fbd1bba22c12334e129a5d2d565679ea39e1d773f03336bd0a63e532a4e277dfd0832c3475 ++ (
  beBytes 60 0x63308cb6f47314fe8762577813ee28856d59329ebec9392c8cca2a15f979eeeb91305aeacbe51b318ea0f7741b1e8c29a5f1722be53986ab589bb53f ++ (
  beBytes 60 0x9a8df4d3d430f79a688eb24f7c6c1421c95d618b9a669567c27ae76dac5751735e111997286de7454f2ff134e7bc6f4376dbc6b3aae3549710edb320 ++ (
  beBytes 60 0xca98c6ea8c7ad74938e43da59b6a2366675c9b49ee67c021ab383cf13a4bb8e69d9b3702dd97527d3c198cfc3ed6dec39b8db2306aa162cfe104bef7 ++ (
  beBytes 60 0x41127ebc80b46fdd6f9a10a443b8cc06ccc63cef2fcc77954dac607e1e0c09915e1a7bae305e9a6646788ab62e31d61e4236af7ac99959cbbe83ee66 ++ (
  beBytes 60 0x77237b576617b78ed612a575b54de17755de5cddf44cf2c4294fb6bfa8b90d3dc89989f2779f946a98a5440c38e48d9115e0d7a6dc46d7a881ee2ec8 ++ (
  beBytes 60 0x2fe7c15d88eb1b9d2f49433136921e3d8b7397769db9af22cf647b309537233b6c3682224981e68902041ff4217736ef247591a85c07b7cc74bde42e ++ (
  beBytes 60 0xdcc1e13ec98c5491bd180c656e295c48b6d3bf460b84566b8f519166b3ee22d667d022ee954c5f975511a8e9ef1b8ad5545ecd403f6526b221742219 ++ (
  beBytes 60 0xfb7b31e035855ded53aea2971c99ef8c40ddf4020704079bb38acd4e1dad7d84af314ee4b8296994a0c4c2a9ecb38c7cdaecc8f644800c4d232dba52 ++ (
  beBytes 60 0xa4c7a68bbb39899c43236eebd8db1c005500aaffc7438765d523a62ca59ba142df9b7ac9d339224eebb4a04a3ef6a3bb3a6fc6689742f9685c022c8a ++ (
  beBytes 36 0x9c24fee157b06ff685021d214376114195bdc610292dcf8a8bddba554722499f0000000d))))))))))))))))))))))
def imageA : List Byte := head1 1 0 3 2 ++ (imageKey ++ (sigA ++ List.replicate 484 0))
def imageB : List Byte := head1 2 2 3 2 ++ (imageKey ++ (sigB ++ List.replicate 484 0))

theorem ecdsa_imageA : ecdsaOk imageA = true := by decide +kernel
theorem ecdsa_imageB : ecdsaOk imageB = true := by decide +kernel
theorem lms_imageA : lmsOk imageA = true := lms_of_fast imageA (by decide +kernel)
theorem lms_imageB : lmsOk imageB = true := lms_of_fast imageB (by decide +kernel)

/-- The root keys of all slots are the key record of these images. -/
def keys1 : Otp := { rollback := 3, keyHash := Vector.replicate 4 keyHash1 }

/-- Steps 1 to 4 and 7 of R408 pass, so that an image whose signatures verify passes. -/
theorem verify_of (o : Otp) (typ : Nat) (b : List Byte) (chunks : Bool)
    (h : (bits (imgWord b 0) 63 32 = 0x53564346 ∧ bits (imgWord b 0) 31 24 = 1 ∧ bits (imgWord b 0) 23 16 = typ) ∧
      sha384 (imgSlice b 128 160) = at_ o.keyHash (imgRoot b) 0 ∧ o.programmed.getLsbD (imgRoot b) = true ∧
      (if typ = 1 then decide (imgRoot b < 2) else decide (2 ≤ imgRoot b)) = true ∧
      o.revoked.getLsbD (imgRoot b) = false ∧ o.rollback ≤ imgRollback b ∧ chunksOk b = true)
    (he : ecdsaOk b = true) (hl : lmsOk b = true) : o.verify typ b chunks = 0 := by
  obtain ⟨h1, h2, h3, h4, h5, h6, h7⟩ := h
  unfold Otp.verify
  simp only [h1, h2, h3, h4, h5, he, hl, h7]
  simp [h6]

theorem verify_imageA (chunks : Bool) : keys1.verify 1 imageA chunks = 0 :=
  verify_of keys1 1 imageA chunks (by decide +kernel) ecdsa_imageA lms_imageA
theorem verify_imageB (chunks : Bool) : keys1.verify 2 imageB chunks = 0 :=
  verify_of keys1 2 imageB chunks (by decide +kernel) ecdsa_imageB lms_imageB

theorem imgSlice_left (x y : List Byte) (a n : Nat) (h : a + n ≤ x.length) : imgSlice (x ++ y) a n = imgSlice x a n := by
  unfold imgSlice
  rw [List.drop_append_of_le_length (by omega), List.take_append_of_le_length (by simp; omega)]

theorem leBytes_length : ∀ n v, (leBytes n v).length = n
  | 0, _ => rfl
  | n + 1, v => by simp [leBytes, leBytes_length n]

theorem imageA_length : imageA.length = 2128 := by decide +kernel
theorem imageB_length : imageB.length = 2128 := by decide +kernel

theorem at_replicate {α : Type} (n i : Nat) (x d : α) (h : i < n ∨ d = x) : at_ (Vector.replicate n x) i d = x := by
  unfold at_
  rw [Vector.toArray_replicate, Array.getD_eq_getD_getElem?, Array.getElem?_replicate]
  split
  · rfl
  · exact h.resolve_left ‹_›

/-- Nothing is counted where no counter counts the event. -/
theorem count_off (s : State) (b ev n : Nat) (hp : s.pm = {}) (he : ev ≠ 0) : s.count b ev n = s := by
  have h1 : ∀ i, s.countOne i ev n = s := fun i => by
    unfold State.countOne
    rw [hp]
    have : at_ ({} : Pm).ctr i {} = {} := at_replicate _ _ _ _ (.inr rfl)
    simp only [this]
    exact if_pos (.inl (by simpa using he.symm))
  unfold State.count
  split
  · have : ∀ l : List Nat, l.foldl (fun s c => s.countOne (272 + 8 * b + c) ev n) s = s := fun l => by
      induction l with
      | nil => rfl
      | cons a r ih => rw [List.foldl_cons, h1, ih]
    exact this _
  · rfl

/-- A read of near SRAM within a page, with nothing that it meets. -/
theorem near_read (s : State) (va n da : Nat) (need : Need) (hp : s.pm = {}) (ht : s.target va need = .ok (da, .near))
    (h1 : va < 2 ^ 48) (h2 : va % 4096 + n ≤ 4096) (h3 : 0 < n) (hu : s.mem.ueWords = []) (hc : s.mem.ceWords = [])
    (ho : s.mem.outside = true) : (readM va n need).go s = (.ok (memBytes s.mem.cells da n), s) := by
  obtain ⟨m, rfl⟩ : ∃ m, n = m + 1 := ⟨n - 1, by omega⟩
  have hs : split4k va (m + 1) = [(va, m + 1)] := by
    have a : va % 2 ^ 48 = va := Nat.mod_eq_of_lt h1
    have b : min (m + 1) (4096 - va % 4096) = m + 1 := by omega
    simp only [split4k, pieces, a, b, Nat.sub_self]
  have hh : ∀ k, hits [] da k = [] := fun _ => rfl
  have hr : (readRaw va (m + 1) need).go s = (.ok (memBytes s.mem.cells da (m + 1)), s) := by
    simp only [readRaw, hs, List.forIn_cons, List.forIn_nil, go_bind, go_get, ht, hu, hc, hh, go_set, go_pure]
    have e : s.touch .near da (m + 1) false = s := by
      unfold State.touch State.touchNear
      simp only [reduceCtorEq, if_false, if_true]
      exact count_off _ _ _ _ hp (by split <;> decide)
    simp only [List.length_nil, State.meetCe, if_true, e]
    simp
  simp only [readM, go_bind, hr, go_get, go_set, State.spoil, ho, if_true]
  rfl

theorem memBytes_at (base : Nat) (x : List Byte) (n : Nat) (hn : n ≤ x.length) :
    memBytes (x.zipIdx.map fun y => (base + y.2, y.1)) base n = x.take n := by
  have get : ∀ (x : List Byte) (k i : Nat), i < x.length →
      memGet ((x.zipIdx k).map fun y => (base + y.2, y.1)) (base + (k + i)) = x.getD i 0 := by
    intro x
    induction x with
    | nil => intro k i hi; simp at hi
    | cons b r ih =>
      intro k i hi
      cases i with
      | zero => simp [memGet]
      | succ j =>
        simp only [List.zipIdx_cons, List.map_cons, memGet]
        rw [if_neg (by omega), if_neg (by omega), show k + (j + 1) = k + 1 + j from by omega, ih (k + 1) j (by simpa using hi)]
        simp
  apply List.ext_getElem
  · simp [memBytes, hn]
  · intro i h1 h2
    simp only [memBytes, List.length_map, List.length_range] at h1
    have := get x 0 i (by omega)
    simp only [Nat.zero_add] at this
    simp only [memBytes, List.getElem_map, List.getElem_range, this, List.getElem_take]
    exact (List.getElem_eq_getD (h := by omega) 0).symm

def booting (f : Vector (List Byte) 2) (chain : Bool := false) : State :=
  let s := chainLab upPort chain .keeperBoot
  { s with boot := { s.boot with flash := f, chainBoot := chain, chainBytes := f[0], chainWhole := true, fw := none, clearLpddr := true, otp := keys1 } }

theorem test_hyps_BootSequence :
    (lab .optionLoad).dev.state = .optionLoad ∧ (lab .keeperBoot).dev.state ≠ .optionLoad ∧
    ([(1, 1000, 1100, 2200), (13, 150000, 181000, 220000)].all fun x => decide (strapOhms[x.1]! ≤ x.2.2.1 ∧ x.2.2.1 ≤ strapOhms[x.1 + 1]! ∧
      x.2.2.1 * x.2.2.1 < strapOhms[x.1]! * strapOhms[x.1 + 1]!)) ∧ strapOhms[1]! * strapOhms[2]! < 2200 * 2200 ∧
    (let s := booting #v[[], []]; s.dev.state = .keeperBoot ∧ s.boot.chainBoot = false ∧ s.boot.choose = (none, 1, 1) ∧ s.boot.otpCorrupt = false) ∧
    (let s := booting #v[[], []] true; s.boot.chainBoot ∧ s.portUp 0 ∧ { s.boot with chainWhole := false }.chainWhole = false ∧ s.boot.choose.1 = none) ∧
    (booting #v[head1 1 0 3 1, head1 1 0 3 2]).boot.order.headD 0 = 1 ∧
    ((lab .standby).dom .svc).up ∧ (lab .dark).dev.state.code < 2 ∧ 2 ∈ [1, 2, 4] ∧
    ({ lab .running with boot := { (lab .running).boot with serviceOn := true } } : State).boot.serviceOn := by decide +kernel

/-- Boot takes an image that verifies, from the slot tried first and from the chain (R409, R410). -/
theorem test_hyps_BootSequence_image :
    (booting #v[imageA, []]).boot.choose.1.isSome = true ∧ (booting #v[imageA, []] true).boot.choose.1.isSome = true := by
  have v := verify_imageA true
  constructor
  · have e : keys1.verify 1 [] true ≠ 0 := by decide +kernel
    have i0 : (booting #v[imageA, []]).boot.image 0 = imageA := by decide +kernel
    have i1 : (booting #v[imageA, []]).boot.image 1 = [] := by decide +kernel
    have o : (booting #v[imageA, []]).boot.order = [1, 0] := by
      unfold Boot.order
      rw [i0, i1]
      exact if_pos (by decide +kernel)
    have k : (booting #v[imageA, []]).boot.otp = keys1 := rfl
    have c : (booting #v[imageA, []]).boot.otpCorrupt = false ∧ (booting #v[imageA, []]).boot.chainBoot = false := ⟨rfl, rfl⟩
    unfold Boot.choose
    simp only [o, i0, i1, k, c, v, e, if_true, if_false, Bool.false_eq_true]
    rfl
  · have k : (booting #v[imageA, []] true).boot.otp = keys1 := rfl
    have c : (booting #v[imageA, []] true).boot.otpCorrupt = false ∧ (booting #v[imageA, []] true).boot.chainBoot = true ∧
      (booting #v[imageA, []] true).boot.chainBytes = imageA := ⟨rfl, rfl, rfl⟩
    unfold Boot.choose
    simp only [k, c, v, if_true, if_false, Bool.false_eq_true]
    rfl

theorem test_hyps_RevocationBurnsOneSlot :
    meets { lab .standby with boot := { (lab .standby).boot with otp := { programmed := 7 } } } 0xA20 1 [3] (fun t w => t.boot.fw.isSome ∧ t.boot.otp.programmed.getLsbD (bits (w 0) 1 0) = false) ∧
    meets (lab .standby) 0xA20 1 [0] (fun t _ => t.boot.otp.programmed.getLsbD 0 ∧ t.boot.fw.map (·.rootSlot) = some 0) ∧
    meets (lab .standby) 0xA20 1 [3] (fun t _ => t.boot.otp.programmed.getLsbD 3 ∧ t.boot.fw.map (·.rootSlot) ≠ some 3) := by decide +kernel

theorem test_hyps_RollbackCounterAdvances :
    meets (lab .standby) 0xA21 1 [3] (fun t w => decide (1 ≤ bits (w 0) 6 0 ∧ bits (w 0) 6 0 ≤ 64 ∧ t.boot.otp.rollback < bits (w 0) 6 0) && t.boot.fw.map (·.rollback) == some 3) ∧
    meets { lab .standby with boot := { (lab .standby).boot with otp := { rollback := 63 }, fw := some { version := 1, rootSlot := 0, rollback := 64, digest := 0, slot := 0 } } }
      0xA21 1 [64] (fun t w => decide (t.boot.otp.rollback < bits (w 0) 6 0) && t.boot.fw.map (·.rollback) == some 64) ∧
    meets (lab .standby) 0xA21 1 [0] ∧ meets (lab .standby) 0xA21 1 [65] ∧ meets (lab .standby) 0xA21 1 [4] := by decide +kernel

/-- SC_REVOKE_ROOT of slot 2 burns its fuse (R412). -/
theorem test_revoke : (match exec (.scRevokeRoot 0) (talk (lab .standby) 0xA20 [2]) with
    | .next t => t.boot.otp.revoked == 4 && t.boot.otp.programmed == (lab .standby).boot.otp.programmed
    | _ => false) = true := by decide +kernel

def pkg1 : Package :=
  { id := 0, version := 0, rootSlot := 2, rollback := 0, region := 5, va := 0, digest := 0, bytes := 0, rd := false, wr := false, ls := false }

theorem test_hyps_SecurityMessages :
    meets { lab .armed with boot := { (lab .armed).boot with packages := ({} : Boot).packages.set 15 (some pkg1) } } 0xA00 2 [2 ^ 63 + 15, 0]
      (fun t w => bit (w 0) 63 ∧ at_ t.boot.packages (bits (w 0) 3 0) none ≠ none) ∧
    meets (lab .armed) 0xA00 2 [2 ^ 63 + 15, 0] (fun t w => at_ t.boot.packages (bits (w 0) 3 0) none = none) ∧
    (let q := fun (ok : Bool) (t : State) (w : Nat → Word) => (match look t.mem.regions (bits (w 0) 25 16) with
          | some r => coversRd r.1 r.2.2 (bits (w 1) 47 0) 128
          | none => false) && (match ((t.begun 0).keeperRead (bits (w 1) 47 0) 128).1 with
          | some bs => (match look t.mem.regions (bits (w 0) 25 16) with
            | some r => coversRd r.1 r.2.2 (bits (w 1) 47 0) (imgBytes bs) == ok
            | none => false)
          | none => false);
      meets (lab .standby) 0xA00 2 [15, 0x10000000] (q true) ∧ meets (lab .standby) 0xA00 2 [15, 0x10FFF800] (q false)) ∧
    meets (lab .fog) 0xA01 0 [] ∧ meets (lab .standby) 0xA02 1 [0] (fun t w => ((t.begun 0).keeperRead (bits (w 0) 47 0) 128).1 = none) ∧
    meets (lab .standby) 0xA02 1 [0x10000000] (fun t w => match ((t.begun 0).keeperRead (bits (w 0) 47 0) 128).1, t.boot.fw with
      | some bs, some f => decide ((imgWord bs 1).toNat ≤ f.version.toNat)
      | _, _ => false) ∧
    meets (poke (lab .standby) 0 [0, 2]) 0xA02 1 [0x10000000] (fun t w => match ((t.begun 0).keeperRead (bits (w 0) 47 0) 128), t.boot.fw with
      | (some bs, u), some f => decide (f.version.toNat < (imgWord bs 1).toNat) && (match u.keeperRead (bits (w 0) 47 0) (imgBytes bs) with
        | (some x, v) => decide (v.boot.otp.verify 1 x false ≠ 0)
        | _ => false)
      | _, _ => false) ∧
    meets (lab .standby) 0xA10 4 [1, 2, 3, 4] (fun t _ => t.boot.blockOpen = false ∧ t.boot.otp.blocks < 1024) ∧
    meets { lab .standby with boot := { (lab .standby).boot with otp := { blocks := 1024 } } } 0xA10 4 [1, 2, 3, 4]
      (fun t _ => t.boot.blockOpen = false ∧ 1024 ≤ t.boot.otp.blocks ∧ t.boot.exhaustedSent = false) ∧
    meets { lab .armed with boot := { (lab .armed).boot with blockOpen := true, nextLeaf := 1023 } } 0xA10 4 [1, 2, 3, 4] (fun t _ => t.boot.blockOpen ∧ t.boot.nextLeaf < 1024) ∧
    meets (lab .armed) 0xA30 0 [] (fun t _ => t.boot.fw.isSome) ∧ chunksOk (List.replicate 32 0) ∧
    ((lab .standby).engineRead 0 0 128).1 = none ∧
    ((match (lab .standby).engineRead 0 0x10000000 128 with
      | (some h, t) => (match t.engineRead 0 0x10000000 (imgBytes h) with
        | (some x, u) => u.boot.otp.verify 2 x true != 0
        | _ => false)
      | _ => false) : Bool) := by decide +kernel

/-- A device with an image in its region, and no counter running. -/
def imageLab (x : List Byte) : State :=
  let s := lab .standby
  { s with boot := { s.boot with otp := keys1 }, mem := { s.mem with cells := x.zipIdx.map fun y => (0x4000000000 + y.2, y.1) } }

/-- The keeper reads such an image, or its start, whole and unchanged. -/
theorem keeper_image (s : State) (x : List Byte) (n : Nat) (hm : s.mem.cells = x.zipIdx.map fun y => (0x4000000000 + y.2, y.1))
    (hp : s.pm = {}) (ht : s.outsideLaunch.target 0x10000000 .rd = .ok (0x4000000000, .near)) (hu : s.mem.ueWords = [])
    (hc : s.mem.ceWords = []) (h0 : 0 < n) (h1 : n ≤ 2128) (hn : n ≤ x.length) :
    s.keeperRead 0x10000000 n = (some (x.take n), s) := by
  have r := near_read s.outsideLaunch 0x10000000 n 0x4000000000 .rd hp ht (by decide) (by omega) h0 hu hc rfl
  unfold State.keeperRead
  rw [r]
  have e : memBytes s.outsideLaunch.mem.cells 0x4000000000 n = x.take n := by
    rw [show s.outsideLaunch.mem.cells = s.mem.cells from rfl, hm]; exact memBytes_at _ _ _ hn
  rw [e]
  rfl

/-- Where the region lies is decided without its contents. -/
theorem target_image (s : State) (va : Nat)
    (h : (match s.outsideLaunch.target va .rd with
      | .ok x => x.1 == 0x4000000000 && x.2 == .near
      | .error _ => false) = true) : s.outsideLaunch.target va .rd = .ok (0x4000000000, .near) := by
  split at h
  · rename_i x e
    rw [e]
    obtain ⟨a, b⟩ := x
    simp only [Bool.and_eq_true, beq_iff_eq] at h
    rw [h.1, h.2]
  · cases h

theorem setPerms_keeps (s : State) (i : Nat) (rd wr ls : Bool) : (s.setPerms i rd wr ls).mem.cells = s.mem.cells ∧
    (s.setPerms i rd wr ls).pm = s.pm ∧ (s.setPerms i rd wr ls).mem.ueWords = s.mem.ueWords ∧
    (s.setPerms i rd wr ls).mem.ceWords = s.mem.ceWords ∧ (s.setPerms i rd wr ls).boot = s.boot := by
  unfold State.setPerms
  split <;> exact ⟨rfl, rfl, rfl, rfl, rfl⟩

/-- The security engine reads it as well. -/
theorem engine_image (s : State) (x : List Byte) (n : Nat) (hm : s.mem.cells = x.zipIdx.map fun y => (0x4000000000 + y.2, y.1))
    (hp : s.pm = {}) (ht : (s.setPerms 0 true false false).outsideLaunch.target 0x10000000 .rd = .ok (0x4000000000, .near))
    (hu : s.mem.ueWords = []) (hc : s.mem.ceWords = []) (h0 : 0 < n) (h1 : n ≤ 2128) (hn : n ≤ x.length) :
    s.engineRead 0 0x10000000 n = (some (x.take n), (s.setPerms 0 true false false).setPerms 0 false false false) := by
  obtain ⟨a, b, c, d, _⟩ := setPerms_keeps s 0 true false false
  unfold State.engineRead
  rw [keeper_image _ x n (a.trans hm) (b.trans hp) ht (c.trans hu) (d.trans hc) h0 h1 hn]

/-- The security engine reads the image that an installation stages, and it verifies (R414). -/
theorem test_hyps_SecurityMessages_install :
    ∃ t head u x, (imageLab imageB).engineRead 0 0x10000000 128 = (some head, t) ∧
      t.engineRead 0 0x10000000 (imgBytes head) = (some x, u) ∧ u.boot.otp.verify 2 x true = 0 := by
  have len := imageB_length
  obtain ⟨a1, b1, c1, d1, e1⟩ := setPerms_keeps (imageLab imageB) 0 true false false
  obtain ⟨a2, b2, c2, d2, e2⟩ := setPerms_keeps ((imageLab imageB).setPerms 0 true false false) 0 false false false
  obtain ⟨_, _, _, _, e3⟩ := setPerms_keeps (((imageLab imageB).setPerms 0 true false false).setPerms 0 false false false) 0 true false false
  obtain ⟨_, _, _, _, e4⟩ := setPerms_keeps ((((imageLab imageB).setPerms 0 true false false).setPerms 0 false false false).setPerms 0 true false false) 0 false false false
  have h1 := engine_image (imageLab imageB) imageB 128 rfl rfl (target_image _ _ (by decide +kernel)) rfl rfl
    (by decide) (by decide) (by rw [len]; decide)
  have h2 := engine_image _ imageB 2128 (a2.trans a1) (b2.trans b1) (target_image _ _ (by decide +kernel))
    (c2.trans c1) (d2.trans d1) (by decide) (by decide) (Nat.le_of_eq len.symm)
  rw [List.take_of_length_le (Nat.le_of_eq len)] at h2
  have hb : imgBytes (imageB.take 128) = 2128 := by decide +kernel
  rw [← hb] at h2
  exact ⟨_, _, _, _, h1, h2, by rw [e4, e3, e2, e1]; exact verify_imageB true⟩

/-- The keeper reads the image that an update takes, and it verifies (R415). -/
theorem test_hyps_SecurityMessages_update :
    ∃ head t x u, (imageLab imageA).keeperRead 0x10000000 128 = (some head, t) ∧ 1 < (imgWord head 1).toNat ∧
      t.keeperRead 0x10000000 (imgBytes head) = (some x, u) ∧ u.boot.otp.verify 1 x false = 0 := by
  have len := imageA_length
  have h1 := keeper_image (imageLab imageA) imageA 128 rfl rfl (target_image _ _ (by decide +kernel)) rfl rfl
    (by decide) (by decide) (by rw [len]; decide)
  have h2 := keeper_image (imageLab imageA) imageA 2128 rfl rfl (target_image _ _ (by decide +kernel)) rfl rfl
    (by decide) (by decide) (Nat.le_of_eq len.symm)
  rw [List.take_of_length_le (Nat.le_of_eq len)] at h2
  have hb : imgBytes (imageA.take 128) = 2128 := by decide +kernel
  have hv : 1 < (imgWord (imageA.take 128) 1).toNat := by decide +kernel
  rw [← hb] at h2
  exact ⟨_, _, _, _, h1, hv, h2, verify_imageA false⟩

/-- A chunk whose table entry is not its SHA-384 fails step 7 of R408, here an empty one. -/
theorem test_hyps_SecurityMessages_chunk :
    chunksOk ((wordBytes [0, 0, 0, wd (17 * 2 ^ 32 + 1)] ++ List.replicate 256 0) ++ List.replicate 48 0) = false := by decide +kernel

def faultLab (f : Faults) (st : DevState := .running) (c : Nat := 0) : State :=
  { lab st with faults := f, time := { ({} : Time) with counter := c } }

theorem test_hyps_KeeperCoresAndLampChanger :
    (let s := faultLab {}; s.faults.keeperDead = false ∧ 3 ≤ s.dev.state.code ∧ s.faults.pairDown = none ∧ s.faults.core4 = none ∧
      s.faults.badCores.contains 4 = false ∧ 3 ∈ coresOf .b ∧ 3 ∉ coresOf .a ∧ s.nextSubst = none ∧ s.pairAway 1 = false) ∧
    (faultLab { ({} : Faults) with pairDown := some .a }).faults.pairDown = some .a ∧ (faultLab { ({} : Faults) with core4 := some .a }).faults.core4 ≠ none ∧
    (faultLab {} .optionLoad).dev.state.code < 3 ∧ (faultLab { ({} : Faults) with pairOut := Vector.replicate 2 (some 0) }).pairAway 1 ∧
    (let q : Subst := { cls := 2, unit := 63, planned := true }; let s := faultLab { ({} : Faults) with queue := [q] };
      s.nextSubst = some q ∧ s.spareLeft 2 63 ∧ s.faults.tileSpareGone.getLsbD 3 = false) ∧
    (let q : Subst := { cls := 2, unit := 63, planned := true }; let s := faultLab { ({} : Faults) with queue := [q], tileSpareGone := 8 };
      s.nextSubst = some q ∧ s.spareLeft 2 63 = false ∧ s.faults.tileSpareGone.getLsbD (63 / 16)) ∧
    (let q : Subst := { cls := 3, unit := 15, planned := false }; let s := faultLab { ({} : Faults) with queue := [q] };
      s.nextSubst = some q ∧ s.faults.laneSpareGone = false ∧ s.faults.laneSubst = none) ∧
    (let q : Subst := { cls := 1, unit := 2, planned := true }; let s := faultLab { ({} : Faults) with queue := [q] };
      s.nextSubst = some q ∧ s.spareLeft 1 2) ∧
    (faultLab { ({} : Faults) with laneSpareGone := true }).faults.laneSpareGone := by decide +kernel

/-- Substitutions in their order: earlier, of a lower class, of a lower unit (R428); a class with half its spares used. -/
theorem test_hyps_SubstitutionsQueue :
    (let q : Subst := { cls := 2, unit := 5, since := 7 }; let y : Subst := { cls := 2, unit := 4, since := 7 };
      insertSubst y [q] = [y, q] ∧ insertSubst { y with since := 8 } [q] = [q, { y with since := 8 }] ∧
      insertSubst { y with cls := 3 } [q] = [q, { y with cls := 3 }]) ∧
    (let s := faultLab {}; BitVec.ofNat 8 2 ∉ s.faults.wearHalf ∧ (2, 9) ∉ s.faults.worn ∧ s.spareLeft 2 9) ∧
    (let s := faultLab { ({} : Faults) with tileSpareGone := 1, worn := [(2, 9)] }; (2, 9) ∈ s.faults.worn ∧ s.spareLeft 2 10 = false) ∧
    (let q : Subst := { cls := 4, unit := 17 }; (faultLab { ({} : Faults) with queue := [q] }).nextSubst = some q) ∧
    (let q : Subst := { cls := 1, unit := 4 }; let s := faultLab { ({} : Faults) with queue := [q] }; s.nextSubst = some q ∧ s.pairOf 4 = none) ∧
    (faultLab { ({} : Faults) with log := List.replicate 256 (0, { w0 := 0, w1 := 0, w2 := 0, w3 := 0, w4 := 0 }) }).faults.log.length = 256 := by decide +kernel

/-- A tile that wears is planned for its spare once (R434, R429), and the unit next is taken before a planned one. -/
theorem test_worn : (match exec (.wearMonitor 3 [{ cls := 2, unit := 9 }, { cls := 2, unit := 9 }])
      { faultLab {} .running (640000000 * 3) with pins := { (faultLab {}).pins with arrayVid := 15 } } with
    | .next t => t.faults.queue.map (fun q => (q.cls, q.unit, q.planned)) == [(2, 9, true)] && t.faults.log.length == 1
    | _ => false) = true := by decide +kernel

theorem test_hyps_FaultsAndFog :
    (let s := faultLab {} .running (640000000 * 3); let t := { s with pins := { s.pins with arrayVid := 15 } };
      t.governs ∧ t.pins.arrayVid = 15 ∧ s.pins.arrayVid ≠ 15 ∧ s.governs ∧ s.faults.wearAt + cycSec ≤ s.time.counter) ∧ (faultLab {}).time.counter < (faultLab {}).faults.wearAt + cycSec ∧
    (faultLab {}).faults.engines.getLsbD 6 ∧ (faultLab { ({} : Faults) with engines := 0 }).faults.engines.getLsbD 6 = false ∧
    ((faultLab {}).faults.causes.all fun x => x.1 ≠ .mem) ∧
    (let s := faultLab { ({} : Faults) with causes := [(.mem, 0)] }; s.faults.causes.find? (fun x => decide (x.1 = .mem)) = some (.mem, 0) ∧ s.keeperUp ∧
      s.dev.state = .running) ∧ DevState.fog ∉ [DevState.running, .standby, .armed] ∧
    (let s := faultLab { ({} : Faults) with causes := [(.mem, 0)] } .armed; (s.faults.causes.any fun x => x.1 = .mem) ∧ s.keeperUp ∧ s.dev.state = .armed ∧ s.dev.fogPending = false) ∧
    meets (lab .faultHalt) 0xB00 1 [50 * 2 ^ 32] (fun _ w => decide (1 ≤ bits (w 0) 37 32 ∧ bits (w 0) 37 32 ≤ 50)) ∧ meets (lab .fog) 0xB00 1 [51 * 2 ^ 32] (fun _ w => 50 < bits (w 0) 37 32) ∧
    meets (lab .fog) 0xB01 0 [] ∧ meets (lab .standby) 0xB02 0 [] ∧
    meets (lab .standby) 0xB03 1 [3] ∧ meets (lab .standby) 0xB03 1 [1] ∧ meets (lab .standby) 0xB03 1 [2] ∧
    meets (lab .standby) 0xB03 1 [5 * 256] (fun _ w => bits (w 0) 1 0 = 0 ∧ testUnitOk (bits (w 0) 15 8) (bits (w 0) 27 16) = false) ∧
    ([(1, 0), (1, 4), (2, 63), (3, 16), (3, 15), (4, 24), (6, 63)].all fun (x : Nat × Nat) =>
      meets (lab .standby) 0xB03 1 [x.1 * 256 + x.2 * 2 ^ 16] (fun _ w => bits (w 0) 1 0 = 0 ∧ testUnitOk (bits (w 0) 15 8) (bits (w 0) 27 16))) ∧
    ((lab .standby).begun 0).pairOf 4 = none ∧ ((lab .standby).begun 0).pairOf 0 = some .a := by
  decide +kernel

/-- A collector with a ring of one page at the start of the region, one item, and counter 543 requesting a record. -/
def pmLab (p : Pm) : State := { lab .running with pm := p, time := { ({} : Time) with line := 10 * (1000 * 281474976710656) } }
def pm1 : Pm :=
  { ({} : Pm) with running := true, intervalUs := 10, ringVa := 0x10000000, ringBytes := 4096, items := [543], snap := some (7, [0, 0], [5])
                   ctr := (Vector.replicate 544 {}).set 543 { event := 1, value := 2 ^ 48 - 1, request := some { cycle := 8 } } }

theorem test_hyps_CountersCount :
    (lab .faultHalt).dev.state ≠ .standby ∧ (lab .armed).dev.state = .armed ∧ (lab .armed).time.counter % 4 = 0 ∧ (lab .armed).pm.countedAt = none ∧ unitOf 1 = 1 ∧
    (let c := (pmLab pm1).pm.ctr[(543 : Fin 544)]; c.event = 1 ∧ c.carry = 0 ∧ c.value + 1 = 2 ^ 48 ∧ c.period = 0) ∧
    (let c := (pmLab { pm1 with ctr := Vector.replicate 544 { event := 1, value := 2 ^ 48 - 1, period := 1024 } }).pm.ctr[(0 : Fin 544)];
      c.value + 1 = 2 ^ 48 ∧ c.period ≠ 0) ∧
    (lab .running).boot.linkUp ∧ (lab .running).mailOpen ∧ (lab .keeperBoot).mailOpen = false ∧ (0xFFFFFFFF : Reg).toNat % 1024 = 1023 ∧
    (let s := pmLab { pm1 with wr := 1023, rd := 512 }; s.pm.words = 512 ∧ (1023 + 2 * s.pm.words - s.pm.rd % (2 * s.pm.words)) % (2 * s.pm.words) ≤ s.pm.fill) := by decide +kernel

/-- The premises of CountersCount on conditions, old values, the windows of the ring's pointer, and samples. -/
theorem test_hyps_CountersAndWindows :
    (let s := { lab .running with mem := { (lab .running).mem with asleep := 0xFFFF } }; (21, 0x76) ∈ s.blockConds ∧ (22, 0x76) ∉ s.blockConds) ∧
    (with1 (launchAt 0x21 16) []).runsAt 0x21 16 (fun _ => true) ∧
    (let x : Counter := { value := 9, old := some (5, 3, true) }; x.latched 5 = (3, true) ∧ x.latched 6 = (9, false)) ∧
    (let s := pmLab { pm1 with wr := 8 }; s.pm.words ≠ 0 ∧ (4 : Reg).toNat % 2 ^ 24 < 2 * s.pm.words ∧
      (4 + 2 * s.pm.words - s.pm.rd % (2 * s.pm.words)) % (2 * s.pm.words) ≤ s.pm.fill ∧
      s.pm.fill < (9 + 2 * s.pm.words - s.pm.rd % (2 * s.pm.words)) % (2 * s.pm.words) ∧ 2 * s.pm.words ≤ (2000 : Reg).toNat) ∧
    (pmLab pm1).pm.listRd = none ∧ (pmLab { pm1 with listRd := some (0, 0, 4) }).pm.listRd = some ((pmLab pm1).time.counter / 4, 0, 4) ∧
    (let p := pm1; p.snap.isSome ∧ (pmLab { p with edgeLine := some 0 }).pm.edgeLine = some 0) ∧
    (let s := { pmLab { pm1 with snap := none, edgeLine := some 0 } with dev := { (lab .running).dev with launches := [launchAt 0 0] } };
      sampleUnit 0 = some (0, 0, 32) ∧ (s.dev.launches.head?.bind fun l => (l.runOn 0 0)) = some { group := 0, pc := 0x10000000, status := .running, started := true } ∧
      sampleUnit 504 = none ∧ s.spareUnit 504 = none) := by
  decide +kernel

/-- A sample lies at most two commands on, and not past the end of its list (R455, log entry 96): the list here ends with its first. -/
theorem test_sample_place :
    ((with1 (launchAt 0 0) (op1 1)).sampleAt 0 2 { cycle := 0, target := 0, listVa := 0x10000000, pc := 0x10000000, size := 32 }).1 =
      (0, 0x10000000, 0x10000000) := by decide +kernel

/-- Two writes of PM_RING_RD in one array cycle: LIST's stands (R453). -/
theorem test_ring_windows : (match exec (.pmRingRdWrite .list 4) (pmLab { pm1 with wr := 8 }) with
    | .next t => (match exec (.pmRingRdWrite .bar0 2) t with
      | .next u => u.pm.rd == 4
      | _ => false)
    | _ => false) = true := by decide +kernel

/-- PM_SEL of counter 543 latches WRAPPED and the value in the window written (R452). -/
theorem test_latch : (match exec (.pmSelWrite .list 543) (pmLab { pm1 with ctr := pm1.ctr.set 543 { value := 2 ^ 40 + 3, wrapped := true } }) with
    | .next t => t.pm.list.lo == 3 && t.pm.list.hi == 0x80000100 && t.pm.bar0.sel == 0
    | _ => false) = true := by decide +kernel

theorem test_hyps_CollectorWritesRecords :
    (let s := pmLab { pm1 with snap := none }; s.pm.snap = none ∧ s.pm.running ∧ s.pm.turn 543 ∧ s.pm.strayRd = false ∧ s.pm.ringMet = false ∧
      s.ringOverlaps = false ∧ s.pm.fill + 6 ≤ s.pm.words ∧ fine ((ringWrite s.pm (wordBytes [1, 2, 3, 4])).go s.outsideLaunch)) ∧
    (pmLab pm1).pm.snap = some (7, [0, 0], [5]) ∧ (pmLab pm1).pm.turn 542 = false ∧
    (let s := pmLab { pm1 with ringVa := 0 }; s.ringOverlaps = false ∧ !fine ((ringWrite s.pm (wordBytes [1])).go s.outsideLaunch)) ∧
    (let s := pmLab { pm1 with wr := 509 }; s.ringOverlaps = false ∧ s.pm.words < s.pm.fill + 4) ∧ (lab .running).pm.running = false ∧
    meets (lab .standby) 0xC00 2 [543 + 2 ^ 16, 0] (fun _ w => bits (w 0) 9 0 < 544 ∧ eventOk (bits (w 0) 9 0) (bits (w 0) 23 16)) ∧
    meets (lab .standby) 0xC00 2 [0, 2 ^ 47] (fun _ w => decide (1024 ≤ bits (w 1) 47 0 ∧ bits (w 1) 47 0 ≤ 2 ^ 47) && eventOk 0 0) ∧
    (let q := fun (r : Bool) (t : State) (w : Nat → Word) => decide (bits (w 0) 38 32 ≤ 64 ∧ 10 ≤ bits (w 0) 19 0 ∧ bits (w 0) 19 0 ≤ 1000000 ∧
        1000000 % bits (w 0) 19 0 = 0 ∧ bits (w 1) 47 0 % 4096 = 0 ∧ 4096 ≤ bits (w 2) 31 0 ∧ bits (w 2) 31 0 ≤ 67108864 ∧ bits (w 2) 31 0 % 4096 = 0) &&
        ((List.range (bits (w 0) 38 32)).all fun k => decide (bits (w (3 + k / 4)) (16 * (k % 4) + 9) (16 * (k % 4)) < 544)) && t.pm.running == r &&
        (t.begun 0).mapped (bits (w 1) 47 0) (bits (w 2) 31 0) .wr;
      meets (lab .standby) 0xC01 19 ([2 ^ 32 + 10, 0x10000000, 4096, 543] ++ List.replicate 15 0) (q false) ∧
      meets (lab .standby) 0xC01 19 ([64 * 2 ^ 32 + 1000000, 0x10FFE000, 8192] ++ List.replicate 16 0) (q false) ∧
      meets (pmLab pm1) 0xC01 19 ([10, 0x10000000, 4096] ++ List.replicate 16 0) (q true)) ∧
    meets (pmLab pm1) 0xC02 0 [] ∧ meets (lab .faultHalt) 0xC03 0 [] := by decide +kernel

end Sys2Proof.Tests
end

section
/-! SUPPORT. The ingress queues (ch. 05): what a read after a write of a queue gives, what an array cycle's write may change,
and what a read of an empty queue gives (R123). -/
namespace Sys2Proof.Machine

variable {ps : List Part} {s t : State}

/-! ### Frames that reach the whole state -/

/-- States that agree in every part are equal. -/
theorem FrameOf.eq_of_nil (h : FrameOf [] s t) : t = s := by
  have same (p : Part) : p.same s t := h.2 p List.not_mem_nil
  have hpending := h.1
  have hmem := h.mem List.not_mem_nil List.not_mem_nil
  have hdev := h.dev List.not_mem_nil List.not_mem_nil
  have hboot := h.boot List.not_mem_nil List.not_mem_nil
  cases s
  cases t
  simp only [State.mk.injEq]
  exact ⟨hpending, same .time, same .ptp, same .pps, same .chars, same .budget, same .ll, same .iq, same .tiles, same .layout,
    same .cloud, same .ego, same .buoys, same .solver, same .calib, same .kv, hmem, same .criser, hdev, same .chain, hboot,
    same .faults, same .pm, same .pins, same .free⟩

/-- A frame cuts nothing off a state that keeps within it. -/
theorem FrameOf.only_eq (h : FrameOf ps s t) : s.only t ps = t := by
  refine FrameOf.eq_of_nil ⟨h.1.symm, fun p _ => ?_⟩
  by_cases hp : p ∈ ps
  · cases p <;> simp [Part.same, hp]
  · have hsame := h.2 p hp
    cases p <;> simp_all [Part.same]

theorem fin_eq_next (h : FrameOf ps s t) : fin s ps t = .next t := congrArg _ h.only_eq

/-! ### A read of a queue after a write -/

theorem at_put_same {α : Type} {n : Nat} (v : Vector α n) {i : Nat} (x d : α) (h : i < n) : at_ (put v i x) i d = x := by
  simp [at_, put, h]

theorem at_put_other {α : Type} {n : Nat} (v : Vector α n) {i j : Nat} (x d : α) (h : i ≠ j) :
    at_ (put v i x) j d = at_ v j d := by
  simp [at_, put, Array.getElem?_setIfInBounds_ne h]

@[simp] theorem queue_setQueue_same (s : State) (q : Fin 64) (x : Queue) : (s.setQueue q.val x).queue q.val = x :=
  at_put_same _ _ _ q.isLt

theorem queue_setQueue_other (s : State) {p q : Nat} (x : Queue) (h : p ≠ q) : (s.setQueue p x).queue q = s.queue q :=
  at_put_other _ _ _ h

theorem queue_corruptPtr {c : Option (Fin 64)} {q : Fin 64} (h : c ≠ some q) :
    (s.corruptPtr c).queue q.val = s.queue q.val := by
  cases c with
  | none => rfl
  | some p =>
    have hpq : p.val ≠ q.val := fun he => h (congrArg some (Fin.ext he))
    simp only [State.corruptPtr]
    split
    · rfl
    · exact queue_setQueue_other s _ hpq

/-! ### The frames of the queues' operations -/

/-- What an operation on a queue may change: the queues, and what its counts, notifications and log entries reach. -/
def queueParts : List Part := logParts ++ [.iq]

theorem setQueue_frame (s : State) (q : Nat) (x : Queue) : FrameOf queueParts s (s.setQueue q x) :=
  ⟨rfl, fun p hp => by cases p <;> first | exact absurd (by decide) hp | simp [Part.same]⟩

/-- A write of a queue and the count of its event. -/
theorem setQueue_count_frame (s : State) (q b ev n : Nat) (x : Queue) : FrameOf queueParts s ((s.setQueue q x).count b ev n) :=
  (setQueue_frame s q x).trans ((count_frame _ _ _ _).mono (by decide))

theorem corruptPtr_frame (s : State) (c : Option (Fin 64)) : FrameOf queueParts s (s.corruptPtr c) := by
  cases c with
  | none => exact .refl _ _
  | some p => exact .ite (fun _ => .refl _ _) fun _ => setQueue_frame _ _ _

theorem iqEvent_frame (s : State) (q ev value : Nat) : FrameOf noteParts s (s.iqEvent q ev value) :=
  .ite (fun _ => eventLimited_frame _ _ _ _ _ _ _) fun _ => event_frame _ _ _ _

theorem checkPtr_frame (s : State) (q : Nat) : FrameOf queueParts s (s.checkPtr q).2 := by
  unfold State.checkPtr
  dsimp only
  split
  · exact .refl _ _
  · refine .trans ?_ ((iqEvent_frame _ _ _ _).mono (by decide))
    exact (setQueue_count_frame _ _ _ _ _ _).trans ((log_frame _ _ _ _ _ _ _ _).mono (by decide))

theorem putGap_frame (s : State) (q level entry n : Nat) : FrameOf queueParts s (s.putGap q level entry n) := by
  unfold State.putGap
  dsimp only
  refine .ite (fun _ => ?_) fun _ => setQueue_count_frame _ _ _ _ _ _
  exact (setQueue_count_frame _ _ _ _ _ _).trans (.trans ((iqEvent_frame _ _ _ _).mono (by decide)) (setQueue_frame _ _ _))

theorem dropWord_frame (s : State) (q level entry : Nat) : FrameOf queueParts s (s.dropWord q level entry) := by
  unfold State.dropWord
  dsimp only
  refine .trans ((count_frame s _ _ _).mono (by decide)) (.ite (fun _ => setQueue_frame _ _ _) fun _ => ?_)
  exact (setQueue_frame _ _ _).trans (putGap_frame _ _ _ _ _)

theorem writeWord_frame (s : State) (q level entry : Nat) (dropping : Bool) (w : Word) :
    FrameOf queueParts s (s.writeWord q level entry dropping w).2 := by
  have hcheck := checkPtr_frame s q
  unfold State.writeWord
  dsimp only
  split
  · exact hcheck
  · split
    · exact hcheck.trans (setQueue_frame _ _ _)
    · split
      · exact hcheck.trans (setQueue_count_frame _ _ _ _ _ _)
      · exact hcheck.trans (dropWord_frame _ _ _ _)

theorem markRead_frame (s : State) (q : Nat) : FrameOf queueParts s (s.markRead q) := setQueue_frame _ _ _

theorem writeDue_frame (s : State) (q : Nat) : FrameOf queueParts s (s.writeDue q) := by
  unfold State.writeDue
  dsimp only
  split
  · exact .refl _ _
  · refine .ite (fun _ => .refl _ _) fun _ => ?_
    refine .ite (fun _ => setQueue_frame _ _ _) fun _ => ?_
    exact (setQueue_frame _ _ _).trans ((writeWord_frame _ _ _ _ _ _).trans (setQueue_frame _ _ _))

/-- The word registers take a read's word, and the array cycle goes on. -/
theorem setQueue_markRead_writeDue_frame (s : State) (q : Nat) (x : Queue) :
    FrameOf queueParts s (((s.setQueue q x).markRead q).writeDue q) :=
  (setQueue_frame s q x).trans ((markRead_frame _ q).trans (writeDue_frame _ q))

/-! ### Reads of an empty queue (R123) -/

/-- An error that strikes another queue's pointer does not touch this one's share of the array cycle (R120). -/
theorem readFree_corruptPtr {c : Option (Fin 64)} {q : Fin 64} (h : c ≠ some q) :
    (s.corruptPtr c).readFree q.val = s.readFree q.val := by
  unfold State.readFree State.cycle
  rw [queue_corruptPtr h, (corruptPtr_frame s c).time (by decide)]

theorem writeDue_of_coming_nil {q : Nat} (h : (s.queue q).coming = []) : s.writeDue q = s := by
  simp [State.writeDue, h]

theorem Queue.first_eq_none {x : Queue} (h : ∀ i < 4, (at_ x.rings i {}).words = []) : x.first = none := by
  simpa [Queue.first] using h

/-- An empty queue whose pointers match gives NOT_VALID, and nothing changes; an armed drop gives the same (R124). -/
theorem popQueue_of_empty {q : Nat} (hptr : (s.queue q).ptrMismatch = false) (hempty : (s.queue q).first = none) :
    s.popQueue q = (some 0, s) := by
  simp [State.popQueue, State.checkPtr, hptr, hempty]

/-- The read of an array cycle and its write, where the read gives NOT_VALID: both word registers are cleared. -/
theorem iqPop_of_popQueue_zero {q : Nat} (h : s.popQueue q = (some 0, s)) :
    (s.iqPop q).2 = ((s.setQueue q { s.queue q with wordLo := 0, wordHi := 0 }).markRead q).writeDue q := by
  simp only [State.iqPop, h]
  rfl

theorem markRead_rings (s : State) (q : Fin 64) : ((s.markRead q.val).queue q.val).rings = (s.queue q.val).rings := by
  simp [State.markRead]

theorem markRead_coming (s : State) (q : Fin 64) : ((s.markRead q.val).queue q.val).coming = (s.queue q.val).coming := by
  simp [State.markRead]

theorem exec_iqPop (p : QueuePop) (s : State) : exec (.iqPop p) s = execIqPop p s := rfl

/-- IQ_POP of a queue that has served no read in this array cycle, where the read gives NOT_VALID. -/
theorem exec_iqPop_of_popQueue_zero {q : Fin 64} {c : Option (Fin 64)} (hfree : (s.corruptPtr c).readFree q.val = true)
    (hpop : (s.corruptPtr c).popQueue q.val = (some 0, s.corruptPtr c)) :
    exec (.iqPop ⟨q, c⟩) s = .next ((((s.corruptPtr c).setQueue q.val
      { (s.corruptPtr c).queue q.val with wordLo := 0, wordHi := 0 }).markRead q.val).writeDue q.val) := by
  simp only [exec_iqPop, execIqPop, hfree, if_true, iqPop_of_popQueue_zero hpop]
  exact fin_eq_next (((corruptPtr_frame s c).trans (setQueue_markRead_writeDue_frame _ _ _)).mono (by decide))

/-- Settles O22: the pointers match and no ring holds a word, so that the read gives NOT_VALID whatever else IQ_POP meets. -/
theorem emptyQueueReadsNotValid : Obligations.EmptyQueueReadsNotValid := by
  intro s q corrupt t hptr hempty hother hfree ht
  have hqueue := queue_corruptPtr (s := s) hother
  have hpop : (s.corruptPtr corrupt).popQueue q.val = (some 0, s.corruptPtr corrupt) :=
    popQueue_of_empty (by rw [hqueue, hptr]) (by rw [hqueue, Queue.first_eq_none hempty])
  have hexec := exec_iqPop_of_popQueue_zero ((readFree_corruptPtr hother).trans hfree) hpop
  rw [hqueue, ← ht] at hexec
  have hrings : (t.queue q.val).rings = (s.queue q.val).rings := by
    rw [ht, markRead_rings, queue_setQueue_same]
  have hcoming : (t.queue q.val).coming = (s.queue q.val).coming := by
    rw [ht, markRead_coming, queue_setQueue_same]
  exact ⟨hexec, hrings, fun hnil => writeDue_of_coming_nil (hcoming.trans hnil), rfl, by decide, by decide⟩

end Sys2Proof.Machine
end

section
/-! SUPPORT. The commands that burn a fuse (ch. 16): SC_REVOKE_ROOT (R412) and SC_ADVANCE_ROLLBACK (R413). -/
namespace Sys2Proof.Machine

variable {s u : State} {ch : Fin 33} {op need : Nat} {c : Cmd} {h : Cmd → State → Ans} {i : Instr} {f : Firmware}

/-! ### Commands that act, and commands that are turned away -/

theorem makes_of_ok (he : exec i s = fin s (parts i) (s.serve ch op need h)) (b : s.Begins ch op need c)
    (hh : h c (s.begun ch) = ok u) : Makes i s ch c u := by
  unfold Makes Does
  rw [he, serve_ok b hh, fin]

theorem refuses_of {st arg : Nat} (he : exec i s = fin s (parts i) (s.serve ch op need h)) (b : s.Begins ch op need c)
    (hh : h c (s.begun ch) = .error (st, arg)) : Refuses i s ch c st arg := by
  unfold Refuses
  rw [he, serve_error b hh, fin]

theorem checked_of_holds (w : Nat) (k : Ans) : checked [(w, true)] k = k := rfl

/-- A check that fails names its payload word (R484). -/
theorem checked_of_fails (w : Nat) (k : Ans) : checked [(w, false)] k = badArg w := rfl

/-! ### SC_REVOKE_ROOT (R412) -/

theorem exec_scRevokeRoot (ch : Fin 33) (s : State) :
    exec (.scRevokeRoot ch) s = fin s (parts (.scRevokeRoot ch)) (s.serve ch 0xA20 1 scRevokeRoot) := rfl

/-- A SLOT field names one of the four root-key slots (R421). -/
theorem bits_slot_lt (w : Word) : bits w 1 0 < 4 := Nat.mod_lt _ (by decide)

/-- The fuses of the slots once the fuse of slot `i` is burned. -/
theorem getLsbD_burnSlot (x : BitVec 4) {i j : Nat} (hj : j < 4) :
    (x ||| BitVec.ofNat 4 (2 ^ i)).getLsbD j = (x.getLsbD j || decide (i = j)) := by
  rw [BitVec.getLsbD_or, BitVec.getLsbD_ofNat, Nat.testBit_two_pow, decide_eq_true hj, Bool.true_and]

theorem scRevokeRoot_of_unprogrammed (hp : s.boot.otp.programmed.getLsbD (bits (wAt c.words 0) 1 0) = false) :
    scRevokeRoot c s = badArg 0 := by
  simp only [scRevokeRoot, hp, checked_of_fails]

theorem scRevokeRoot_of_running (hp : s.boot.otp.programmed.getLsbD (bits (wAt c.words 0) 1 0) = true)
    (hf : s.boot.fw = some f) (hr : f.rootSlot = bits (wAt c.words 0) 1 0) : scRevokeRoot c s = denied := by
  simp only [scRevokeRoot, hp, hf, hr, checked_of_holds, if_true]

theorem scRevokeRoot_of_other (hp : s.boot.otp.programmed.getLsbD (bits (wAt c.words 0) 1 0) = true)
    (hf : s.boot.fw = some f) (hr : f.rootSlot ≠ bits (wAt c.words 0) 1 0) :
    scRevokeRoot c s = ok (State.scEvent { s with boot := { s.boot with otp := { s.boot.otp with
      revoked := s.boot.otp.revoked ||| BitVec.ofNat 4 (2 ^ bits (wAt c.words 0) 1 0) } } } 4 0 (bits (wAt c.words 0) 1 0)) := by
  simp only [scRevokeRoot, hp, hf, hr, checked_of_holds, if_false]

/-- Settles O54: the chapter's answer in each of R412's three cases, and the burned fuse against the other three. -/
theorem revocationBurnsOneSlot : Obligations.RevocationBurnsOneSlot := by
  rintro s ch c i f b hb rfl rfl hf
  have hboot : (s.begun ch).boot = s.boot := begun_boot s ch
  refine ⟨fun hp => ?_, fun hp hr => ?_, fun hp hr o ho => ⟨?_, fun j hji hj => ?_, ?_⟩⟩
  · exact refuses_of (exec_scRevokeRoot ch s) hb (scRevokeRoot_of_unprogrammed (by rw [hboot, hp]))
  · exact refuses_of (exec_scRevokeRoot ch s) hb (scRevokeRoot_of_running (by rw [hboot, hp]) (by rw [hboot, hf]) hr)
  · subst ho
    rw [← hboot] at hp hf ⊢
    exact makes_of_ok (exec_scRevokeRoot ch s) hb (scRevokeRoot_of_other hp hf hr)
  · rw [getLsbD_burnSlot _ hj, decide_eq_false hji.symm, Bool.or_false]
  · rw [getLsbD_burnSlot _ (bits_slot_lt _), decide_eq_true rfl, Bool.or_true]

/-! ### SC_ADVANCE_ROLLBACK (R413) -/

theorem exec_scAdvanceRollback (ch : Fin 33) (s : State) :
    exec (.scAdvanceRollback ch) s = fin s (parts (.scAdvanceRollback ch)) (s.serve ch 0xA21 1 scAdvanceRollback) := rfl

/-- A VALUE that the anti-rollback counter may take: in its range, above it, and not above the running firmware's ROLLBACK. -/
def Otp.MayAdvance (o : Otp) (f : Firmware) (v : Nat) : Prop := 1 ≤ v ∧ v ≤ 64 ∧ o.rollback < v ∧ v ≤ f.rollback

theorem scAdvanceRollback_of_mayAdvance (hf : s.boot.fw = some f) (hv : s.boot.otp.MayAdvance f (bits (wAt c.words 0) 6 0)) :
    scAdvanceRollback c s = ok (State.scEvent { s with boot := { s.boot with otp := { s.boot.otp with
      rollback := bits (wAt c.words 0) 6 0 } } } 5 0 (bits (wAt c.words 0) 6 0)) := by
  unfold Otp.MayAdvance at hv
  simp only [scAdvanceRollback, hf, decide_eq_true hv, checked_of_holds]

theorem scAdvanceRollback_of_not_mayAdvance (hf : s.boot.fw = some f)
    (hv : ¬ s.boot.otp.MayAdvance f (bits (wAt c.words 0) 6 0)) : scAdvanceRollback c s = badArg 0 := by
  unfold Otp.MayAdvance at hv
  simp only [scAdvanceRollback, hf, decide_eq_false hv, checked_of_fails]

/-- Settles O55: VALUE either may be taken, and the counter takes it, or one of R413's and R421's bounds fails. -/
theorem rollbackCounterAdvances : Obligations.RollbackCounterAdvances := by
  rintro s ch c v f b hb rfl rfl hf
  have hboot : (s.begun ch).boot = s.boot := begun_boot s ch
  rw [← hboot] at hf ⊢
  refine ⟨fun h1 h64 hgt hle => ?_, fun hbad => ?_⟩
  · exact makes_of_ok (exec_scAdvanceRollback ch s) hb (scAdvanceRollback_of_mayAdvance hf ⟨h1, h64, hgt, hle⟩)
  · have hv : ¬ (s.begun ch).boot.otp.MayAdvance f (bits (wAt c.words 0) 6 0) := by
      rintro ⟨h1, h64, hgt, hle⟩
      omega
    exact refuses_of (exec_scAdvanceRollback ch s) hb (scAdvanceRollback_of_not_mayAdvance hf hv)

end Sys2Proof.Machine
end
